-- ==== Sys2Proof/Word.lean ====
section
/-! DEFINITION. Word.lean: the words of the PRC256. Bytes of frames and of the field link, 32-bit values and roster
clock readings, 16-bit intervals and sequence numbers, 7-bit node addresses, 4-bit generations, and the number of a
slot of the point table. -/

namespace Sys2Proof

/-- One byte of a frame, of a request body or of the field link. -/
abbrev Byte := BitVec 8

/-- A point's value, a limit, a threshold or a deadband (0.7, TABLE 11-2). -/
abbrev Value := BitVec 32

/-- A roster clock reading in milliseconds (R30). -/
abbrev Time := BitVec 32

/-- A period, a stale limit or a deadline in milliseconds, as a request carries it (TABLE 11-2). -/
abbrev Interval := BitVec 16

/-- A 7-bit node address (0.7, R109). -/
abbrev Address := BitVec 7

/-- A sequence number of a notification queue (R147). -/
abbrev SeqNo := BitVec 16

/-- The generation a slot keeps (R1, R3). -/
abbrev Generation := BitVec 4

/-- The number of a slot of the point table (R1). -/
abbrev SlotNo := Fin 256

end Sys2Proof
end

