-- ==== Sys2Proof/Syntax.lean ====
section
/-! DEFINITION. Syntax.lean: the commands the PRC256 takes, one constructor of `Instr` for each row of the table of
operations and events, with the operands the sender supplies. Requests carry the fields of their bodies as they
arrive (bytes, before any range test), events on the field link carry the levels the engine samples. -/

namespace Sys2Proof

/-- The two ports (0.7). -/
inductive Port where
  | host
  | console
  deriving DecidableEq, Repr

/-- The port that is not `p`. -/
def Port.other : Port → Port
  | .host => .console
  | .console => .host

/-- The two field segments (0.7). -/
inductive SegId where
  | a
  | b
  deriving DecidableEq, Repr

/-- One item for each port. -/
structure PerPort (α : Type) where
  host : α
  console : α
  deriving DecidableEq, Repr

/-- One item for each segment. -/
structure PerSegment (α : Type) where
  a : α
  b : α
  deriving DecidableEq, Repr

/-- A handle as a request carries it (TABLE 11-2): a generation byte above 15 matches no slot. -/
structure RawHandle where
  slot : Byte
  generation : Byte
  deriving DecidableEq, Repr

/-- The body of DEFINE (TABLE 11-5). `options` is the byte of offset 5. -/
structure DefineFields where
  kind : Byte
  segment : Byte
  address : Byte
  item : Byte
  width : Byte
  options : Byte
  period : Interval
  staleLimit : Interval
  subscriptions : Byte
  deriving DecidableEq, Repr

/-- The body of SET_LIMITS after its handle (TABLE 11-5). -/
structure LimitsFields where
  limitsAction : Byte
  low : Value
  high : Value
  hysteresis : Value
  deadbandAction : Byte
  deadband : Value
  deriving DecidableEq, Repr

/-- The twenty-five request kinds (TABLE 9-3) with the fields of their bodies (TABLE 11-5). -/
inductive Request where
  | define (f : DefineFields)
  | activate (h : RawHandle)
  | hold (h : RawHandle)
  | retire (h : RawHandle)
  | describe (h : RawHandle)
  | read (h : RawHandle)
  | readMany (count : Byte) (handles : List RawHandle)
  | refresh (h : RawHandle)
  | setLimits (h : RawHandle) (f : LimitsFields)
  | write (h : RawHandle) (value : Value) (deadline : Interval)
  | cancel (h : RawHandle)
  | nodeQuery (segment address : Byte)
  | nodeList (segment start : Byte)
  | segmentControl (segment action speed : Byte)
  | scan (segment low high : Byte)
  | scanResult (segment index : Byte)
  | subscribe (h : RawHandle) (set : Byte)
  | fetch (count : Byte)
  | ack (seq : SeqNo)
  | claim (h : RawHandle) (take : Byte)
  | release (h : RawHandle)
  | status
  | time
  | clear
  | portSet (notifications nodeEvents : Byte)
  deriving DecidableEq, Repr

/-- The levels of a segment's three lines as its engine reads them (R105): `true` is high. -/
structure Lines where
  fc : Bool
  fd : Bool
  fa : Bool
  deriving DecidableEq, Repr

/-- A request frame as a port holds it (R177, TABLE 11-1): its body length byte is the length of `body`. -/
structure RequestFrame where
  tag : Byte
  kind : Byte
  body : List Byte
  crc : BitVec 16
  deriving DecidableEq, Repr

/-- The two moments of a hard reset, which lasts between them (R191). -/
inductive ResetEdge where
  /-- RESET_N falls, or the supply reaches its operating range. -/
  | begins
  /-- RESET_N rises, or the power-on interval has passed; `hselLow` says whether HSEL_N is low then (R186). -/
  | ends (hselLow : Bool)
  deriving DecidableEq, Repr

/-- What the engine reads during one recovery attempt (R137). -/
structure RecoveryReads where
  /-- FC read high within 2 ms of its release (step 2). -/
  fcRises : Bool
  /-- The level of FD when FC has risen (step 3). -/
  fd : Bool
  /-- One item a pulse: `none` when FC was held beyond the 2 ms allowance, else whether the nodes left FD released. -/
  pulses : List (Option Bool)
  /-- The STOP of step 4: `none` when FC was held beyond the allowance, else whether the nodes left FD released. -/
  stop : Option Bool
  /-- The last reading of FC (step 5). -/
  lastFc : Bool
  /-- The last reading of FD (step 5). -/
  lastFd : Bool
  deriving DecidableEq, Repr

/-- Which due time of a point a due cap belongs to (R37). -/
inductive CapHolder where
  | entry
  | startDue
  | rhythmDue
  deriving DecidableEq, Repr

/-- The commands, in the order of the table. A request carries its port, its tag and its fields. -/
inductive Instr where
  | define (p : Port) (tag : Byte) (f : DefineFields)
  | activate (p : Port) (tag : Byte) (h : RawHandle)
  | hold (p : Port) (tag : Byte) (h : RawHandle)
  | retire (p : Port) (tag : Byte) (h : RawHandle)
  | describe (p : Port) (tag : Byte) (h : RawHandle)
  | read (p : Port) (tag : Byte) (h : RawHandle)
  | readMany (p : Port) (tag : Byte) (count : Byte) (handles : List RawHandle)
  | refresh (p : Port) (tag : Byte) (h : RawHandle)
  | setLimits (p : Port) (tag : Byte) (h : RawHandle) (f : LimitsFields)
  | write (p : Port) (tag : Byte) (h : RawHandle) (value : Value) (deadline : Interval)
  | cancel (p : Port) (tag : Byte) (h : RawHandle)
  | nodeQuery (p : Port) (tag : Byte) (segment address : Byte)
  | nodeList (p : Port) (tag : Byte) (segment start : Byte)
  /-- `fc` and `fd` are the levels the engine reads in the line check of R129. -/
  | enable (p : Port) (tag : Byte) (segment : Byte) (fc fd : Bool)
  | disable (p : Port) (tag : Byte) (segment : Byte)
  | segmentRestart (p : Port) (tag : Byte) (segment : Byte)
  | setSpeed (p : Port) (tag : Byte) (segment speed : Byte)
  | scan (p : Port) (tag : Byte) (segment low high : Byte)
  | scanResult (p : Port) (tag : Byte) (segment index : Byte)
  | subscribe (p : Port) (tag : Byte) (h : RawHandle) (set : Byte)
  | fetch (p : Port) (tag : Byte) (count : Byte)
  | ack (p : Port) (tag : Byte) (seq : SeqNo)
  | claim (p : Port) (tag : Byte) (h : RawHandle) (take : Byte)
  | release (p : Port) (tag : Byte) (h : RawHandle)
  | status (p : Port) (tag : Byte)
  | time (p : Port) (tag : Byte)
  | clear (p : Port) (tag : Byte)
  | portSet (p : Port) (tag : Byte) (notifications nodeEvents : Byte)
  /-- Every byte the host clocks from the falling edge of HSEL_N on, the opening byte among them. -/
  | hostRequestTransaction (bytes : List Byte)
  /-- `count` bytes are clocked after the opening byte 0x5A; what the host sends in them is not read (R181). -/
  | hostResponseTransaction (count : Nat)
  | hostPortResync
  | consoleByteReceived (byte : Byte)
  | consoleFramingError
  | consoleGapExpiry
  | consoleResponseSent
  /-- `lines` are the levels on the two segments when the request is taken (an ENABLE reads them), and `arriving` the
  frames that become complete at the requesting port while the request is carried out (R177). -/
  | requestTaken (lines : PerSegment Lines) (arriving : List RequestFrame)
  /-- `lines` are the levels the engine reads when it chooses (R118, R122). -/
  | arbiterChoose (g : SegId) (lines : Lines)
  | faFall (g : SegId)
  | startAfterLineCheck (g : SegId)
  | lineCheckExpiry (g : SegId)
  | holdAllowanceExpiry (g : SegId)
  | transactionLimitExpiry (g : SegId)
  /-- `levels` say, for each bit cycle and each RESTART and STOP that has passed since the last command, in order, whether
  the nodes leave FD released (`true`) when the engine samples it. -/
  | pollCompletion (g : SegId) (levels : List Bool)
  | refreshPollCompletion (g : SegId) (levels : List Bool)
  | guardCompletion (g : SegId) (levels : List Bool)
  | writeCompletion (g : SegId) (levels : List Bool)
  | verifyCompletion (g : SegId) (levels : List Bool)
  | probeCompletion (g : SegId) (levels : List Bool)
  | scanStepCompletion (g : SegId) (levels : List Bool)
  /-- `fa` is the level of FA then (a winner lets go of it, other nodes may hold it). -/
  | rollCompletion (g : SegId) (levels : List Bool) (fa : Bool)
  | recoveryAttemptEnd (g : SegId) (reads : RecoveryReads)
  | recoveryRetryExpiry (g : SegId)
  /-- `between` says that CLEAR was taken between two bytes, where the transaction stands between two; `levels` as for a
  completion (R120). -/
  | clearEndTransaction (g : SegId) (between : Bool) (levels : List Bool)
  | pollDueExpiry (g : SegId)
  | staleExpiry (i : SlotNo)
  | ageCapExpiry (i : SlotNo)
  | dueCapExpiry (i : SlotNo) (which : CapHolder)
  | deadlineExpiry (i : SlotNo)
  | nextValueDeadlineExpiry (i : SlotNo)
  | probeExpiry (g : SegId) (address : Address)
  | alertSuppressionExpiry (g : SegId)
  /-- `crate1` and `crate0` are the levels of the straps, read only where hard reset ends (R191), and `edge` says whether it
  begins or ends. An end with no beginning before it is a hard reset seen whole. -/
  | hardReset (crate1 crate0 : Bool) (edge : ResetEdge)
  deriving DecidableEq, Repr

end Sys2Proof
end

