-- ==== Sys2Proof/Decode.lean ====
section
/-! DEFINITION. Decode.lean: reading a request from the kind byte and the body of its frame, rejecting by status name
(R163, R189), and AFTER it the encoder that writes the kind byte and the body of a request. The table of operations
and events gives no row any bits, so no word spells a command: `decodeTableWord` answers none. -/

namespace Sys2Proof

/-- Two bytes, high byte first, as one 16-bit field (TABLE 11-1: most significant byte first). -/
def be16 (hi lo : Byte) : BitVec 16 := hi ++ lo

/-- Four bytes, most significant first, as one 32-bit field. -/
def be32 (b3 b2 b1 b0 : Byte) : BitVec 32 := b3 ++ b2 ++ b1 ++ b0

/-- The bytes of a 16-bit field, high byte first. -/
def bytes16 (w : BitVec 16) : List Byte := [w.extractLsb' 8 8, w.extractLsb' 0 8]

/-- The bytes of a 32-bit field, most significant first. -/
def bytes32 (w : BitVec 32) : List Byte :=
  [w.extractLsb' 24 8, w.extractLsb' 16 8, w.extractLsb' 8 8, w.extractLsb' 0 8]

/-- The 2-byte handles of a READ_MANY body, in order. -/
def handlesOf : List Byte → List RawHandle
  | slot :: generation :: rest => ⟨slot, generation⟩ :: handlesOf rest
  | _ => []

/-- The bytes of a handle: slot, then generation (TABLE 11-2). -/
def RawHandle.bytes (h : RawHandle) : List Byte := [h.slot, h.generation]

/-- What steps 2 and 3 of the validation order make of a kind byte and a body (R163). -/
inductive Decoded where
  /-- The kind byte names none of the twenty-five requests: UNKNOWN_KIND. -/
  | unknownKind
  /-- The body is not the length the kind requires: BAD_LENGTH. -/
  | badLength
  /-- A request of a known kind and the right length. -/
  | request (r : Request)
  deriving DecidableEq, Repr

/-- A body that is one handle. -/
def decodeHandle (k : RawHandle → Request) : List Byte → Decoded
  | [s, g] => .request (k ⟨s, g⟩)
  | _ => .badLength

/-- A body of two one-byte fields. -/
def decodePair (k : Byte → Byte → Request) : List Byte → Decoded
  | [x, y] => .request (k x y)
  | _ => .badLength

/-- A body of three one-byte fields. -/
def decodeTriple (k : Byte → Byte → Byte → Request) : List Byte → Decoded
  | [x, y, z] => .request (k x y z)
  | _ => .badLength

/-- An empty body. -/
def decodeEmpty (r : Request) : List Byte → Decoded
  | [] => .request r
  | _ => .badLength

/-- The body of DEFINE (TABLE 11-5). -/
def decodeDefine : List Byte → Decoded
  | [kind, segment, address, item, width, options, p1, p0, s1, s0, set] =>
    .request (.define ⟨kind, segment, address, item, width, options, be16 p1 p0, be16 s1 s0, set⟩)
  | _ => .badLength

/-- The body of READ_MANY: a count and as many handles as it declares (R51, R163). -/
def decodeReadMany : List Byte → Decoded
  | [] => .badLength
  | count :: rest =>
    if rest.length = 2 * count.toNat then .request (.readMany count (handlesOf rest)) else .badLength

/-- The body of SET_LIMITS (TABLE 11-5). -/
def decodeSetLimits : List Byte → Decoded
  | [s, g, la, l3, l2, l1, l0, h3, h2, h1, h0, y3, y2, y1, y0, da, d3, d2, d1, d0] =>
    .request (.setLimits ⟨s, g⟩ ⟨la, be32 l3 l2 l1 l0, be32 h3 h2 h1 h0, be32 y3 y2 y1 y0, da, be32 d3 d2 d1 d0⟩)
  | _ => .badLength

/-- The body of WRITE (TABLE 11-5). -/
def decodeWrite : List Byte → Decoded
  | [s, g, v3, v2, v1, v0, d1, d0] => .request (.write ⟨s, g⟩ (be32 v3 v2 v1 v0) (be16 d1 d0))
  | _ => .badLength

/-- Steps 2 and 3 of the validation order: the request of a kind code and a body (R163, R189, TABLE 11-3). -/
def decodeRequest (kind : Byte) (body : List Byte) : Decoded :=
  match kind.toNat with
  | 0x01 => decodeDefine body
  | 0x02 => decodeHandle .activate body
  | 0x03 => decodeHandle .hold body
  | 0x04 => decodeHandle .retire body
  | 0x05 => decodeHandle .describe body
  | 0x06 => decodeHandle .read body
  | 0x07 => decodeReadMany body
  | 0x08 => decodeHandle .refresh body
  | 0x09 => decodeSetLimits body
  | 0x0A => decodeWrite body
  | 0x0B => decodeHandle .cancel body
  | 0x0C => decodePair .nodeQuery body
  | 0x0D => decodePair .nodeList body
  | 0x0E => decodeTriple .segmentControl body
  | 0x0F => decodeTriple .scan body
  | 0x10 => decodePair .scanResult body
  | 0x11 => decodeTriple (fun s g set => .subscribe ⟨s, g⟩ set) body
  | 0x12 => match body with
    | [count] => .request (.fetch count)
    | _ => .badLength
  | 0x13 => decodePair (fun hi lo => .ack (be16 hi lo)) body
  | 0x14 => decodeTriple (fun s g take => .claim ⟨s, g⟩ take) body
  | 0x15 => decodeHandle .release body
  | 0x16 => decodeEmpty .status body
  | 0x17 => decodeEmpty .time body
  | 0x18 => decodeEmpty .clear body
  | 0x19 => decodePair .portSet body
  | _ => .unknownKind

/-- The kind code of a request (TABLE 11-3). -/
def Request.kindCode : Request → Byte
  | .define _ => 0x01
  | .activate _ => 0x02
  | .hold _ => 0x03
  | .retire _ => 0x04
  | .describe _ => 0x05
  | .read _ => 0x06
  | .readMany _ _ => 0x07
  | .refresh _ => 0x08
  | .setLimits _ _ => 0x09
  | .write _ _ _ => 0x0A
  | .cancel _ => 0x0B
  | .nodeQuery _ _ => 0x0C
  | .nodeList _ _ => 0x0D
  | .segmentControl _ _ _ => 0x0E
  | .scan _ _ _ => 0x0F
  | .scanResult _ _ => 0x10
  | .subscribe _ _ => 0x11
  | .fetch _ => 0x12
  | .ack _ => 0x13
  | .claim _ _ => 0x14
  | .release _ => 0x15
  | .status => 0x16
  | .time => 0x17
  | .clear => 0x18
  | .portSet _ _ => 0x19

/-- The body of a request (TABLE 11-5). -/
def Request.body : Request → List Byte
  | .define f =>
    [f.kind, f.segment, f.address, f.item, f.width, f.options] ++ bytes16 f.period ++ bytes16 f.staleLimit
      ++ [f.subscriptions]
  | .activate h | .hold h | .retire h | .describe h | .read h | .refresh h | .cancel h | .release h => h.bytes
  | .readMany count handles => count :: handles.flatMap RawHandle.bytes
  | .setLimits h f =>
    h.bytes ++ [f.limitsAction] ++ bytes32 f.low ++ bytes32 f.high ++ bytes32 f.hysteresis ++ [f.deadbandAction]
      ++ bytes32 f.deadband
  | .write h v d => h.bytes ++ bytes32 v ++ bytes16 d
  | .nodeQuery s x => [s, x]
  | .nodeList s x => [s, x]
  | .segmentControl s act speed => [s, act, speed]
  | .scan s low high => [s, low, high]
  | .scanResult s index => [s, index]
  | .subscribe h set => h.bytes ++ [set]
  | .fetch count => [count]
  | .ack seq => bytes16 seq
  | .claim h take => h.bytes ++ [take]
  | .status | .time | .clear => []
  | .portSet n e => [n, e]

/-- The command a word spells by the bits of the table's rows. The table gives no row any bits ("fields" is empty in
every row), so no word spells a command; requests reach the part as frames, read by `decodeRequest`. -/
def decodeTableWord (_nbits _w : Nat) : Option Instr := none

end Sys2Proof
end

