-- ==== Sys2Proof/Config.lean ====
section
/-! DEFINITION. Config.lean: what is fixed outside the part when `State.reset` is written as one state: the levels of
the two strap pins, of the host select line and of the field lines at the end of that reset. The manual gives the
levels to the board. The command HARD_RESET takes them as operands, so nothing else rests on these choices. -/

namespace Sys2Proof

/-- DESIGN CHOICE (log entry 1): the level of strap CRATE1 at the reset of `State.reset` (low). -/
def Config.resetCrate1 : Bool := false

/-- DESIGN CHOICE (log entry 1): the level of strap CRATE0 at the reset of `State.reset` (low). -/
def Config.resetCrate0 : Bool := false

/-- DESIGN CHOICE (log entry 2): no host transaction is under way at the end of the reset of `State.reset`. -/
def Config.resetHselLow : Bool := false

/-- DESIGN CHOICE (log entry 3): the field lines read high, as their pull-ups leave them, at `State.reset`. -/
def Config.resetLines : Lines := ⟨true, true, true⟩

end Sys2Proof
end

