-- ==== Sys2Proof/Machine/State.lean ====
section
/-! DEFINITION. Machine/State.lean: everything the manual gives the PRC256, as plain data, and the state right after
hard reset. Views that the manual names but that are another reading of the same storage (the table's occupancy, a
point's kind, RDY, ATTN) are functions in Machine/Ops.lean; the levels of all output pins stand in Machine/Pins.lean. -/

namespace Sys2Proof.Machine

/-- A fault would stop the machine. The PRC256 has none: every event the manual lists either has the effect its rule
gives or does not occur in the state at hand (log entry 4), so this type has no constructor and no step answers one
(safe: nothing is claimed of a stop that never comes). -/
inductive Fault where
  deriving DecidableEq, Repr

/-- Why a command has no meaning. -/
inductive Refusal where
  /-- Raised by the dispatch for a command whose meaning is not written yet, by the row's mnemonic. Safe: the
  machine stops. No arm of this model answers it. -/
  | notModelled (mnemonic : String)
  deriving DecidableEq, Repr

/-! ### The point table (Section 1) -/

/-- The width of a point's item (R4). -/
inductive Width where
  | one
  | two
  | four
  deriving DecidableEq, Repr

/-- A point's quality (TABLE 1-1, R45). -/
inductive Quality where
  | empty
  | good
  | stale
  | fault
  deriving DecidableEq, Repr

/-- A point's alarm state (TABLE 1-1, R57). -/
inductive Alarm where
  | normal
  | low
  | high
  deriving DecidableEq, Repr

/-- The limits group (R54). -/
structure Limits where
  low : Value
  high : Value
  hysteresis : Value
  deriving DecidableEq, Repr

/-- A value held by a point, its value time, and the age-capped mark (R40, R48). -/
structure StoredValue where
  value : Value
  time : Time
  capped : Bool
  deriving DecidableEq, Repr

/-- A due time of the poll schedule with its due cap: `capped` once the due cap has been taken (R37). -/
structure Due where
  time : Time
  capped : Bool
  deriving DecidableEq, Repr

/-- The transaction in flight for a point (R7); no transaction is the absence of this field. -/
inductive FlightKind where
  | poll
  | refreshPoll
  | guard
  | write
  | verify
  deriving DecidableEq, Repr

/-- A point's in flight field with the start due kept beside it (R7, R37). -/
structure Flight where
  kind : FlightKind
  startDue : Option Due
  deriving DecidableEq, Repr

/-- A set of notification categories (R8, TABLE 11-2). -/
structure SubSet where
  value : Bool
  alarm : Bool
  quality : Bool
  command : Bool
  deriving DecidableEq, Repr

/-- The state of a slot that holds a point (R1, TABLE 1-3). RETIRING carries its retire requester (R8). -/
inductive PointState where
  | held
  | active
  | retiring (requester : Port)
  deriving DecidableEq, Repr

/-! ### The command sub-record (Sections 1.3 and 4) -/

/-- Why a command failed (TABLE 1-2). -/
inductive FailCause where
  | noNode
  | noAccept
  | check
  | mismatch
  | expired
  deriving DecidableEq, Repr

/-- A commanded value with its issuing port (TABLE 1-2). -/
structure Issued where
  value : Value
  issuer : Port
  deriving DecidableEq, Repr

/-- A next value with its own issuing port and deadline, and the mark of R82. -/
structure NextValue where
  issued : Issued
  deadline : Option Time
  expired : Bool
  deriving DecidableEq, Repr

/-- The command state with the fields that are present in it (TABLE 4-1). -/
inductive Stand where
  | noCommand
  | pending (v : Issued) (deadline : Option Time)
  | queued (v : Issued) (deadline : Option Time)
  | writing (v : Issued) (next : Option NextValue)
  | verifying (v : Issued) (next : Option NextValue)
  | confirmed (v : Issued)
  | failed (v : Issued) (cause : FailCause)
  deriving DecidableEq, Repr

/-- The command sub-record of an OUTPUT (TABLE 1-2). -/
structure Command where
  stand : Stand
  attempts : Nat
  confirmedValue : Option Value
  restore : Bool
  deriving DecidableEq, Repr

/-- The point record (TABLE 1-1). An OUTPUT is a point that carries a command sub-record. Its next due stands in the
segment's poll schedule, and the stale expiry it carries is `staleDue`. -/
structure Point where
  state : PointState
  segment : SegId
  address : Address
  item : Byte
  width : Width
  signed : Bool
  period : Option Interval
  staleLimit : Option Interval
  alertDriven : Bool
  limits : Option Limits
  deadband : Option Value
  value : Option StoredValue
  reported : Option Value
  quality : Quality
  failures : Nat
  alarm : Alarm
  late : Bool
  inFlight : Option Flight
  rhythmDue : Option Due
  staleDue : Option Time
  owner : Option Port
  subscriptions : PerPort SubSet
  fresh : PerPort Bool
  marks : PerPort Bool
  command : Option Command
  deriving DecidableEq, Repr

/-- One slot: its generation, and its point while it is not FREE (R1). -/
structure Slot where
  generation : Generation
  point : Option Point
  deriving DecidableEq, Repr

/-- A handle: a slot and the generation it carried (1.1). -/
structure Handle where
  slot : SlotNo
  generation : Generation
  deriving DecidableEq, Repr

/-! ### The node directory (Section 5) -/

/-- The presence of a node (R91). -/
inductive Presence where
  | unconfirmed
  | present
  | lost
  deriving DecidableEq, Repr

/-- A next probe time and whether its probe is marked due (R97). -/
structure ProbeTime where
  time : Time
  due : Bool
  deriving DecidableEq, Repr

/-- A node directory entry (TABLE 5-1). -/
structure NodeEntry where
  segment : SegId
  address : Address
  presence : Presence
  points : Nat
  misses : Nat
  probe : Option ProbeTime
  deriving DecidableEq, Repr

/-! ### A segment: its engine, its collections and its scan context (Sections 2, 4, 6 and 7) -/

/-- The segment states (R127). -/
inductive SegState where
  | off
  | up
  | recovering
  | down
  deriving DecidableEq, Repr

/-- The two speeds (R105). -/
inductive Speed where
  | kbit100
  | kbit400
  deriving DecidableEq, Repr

/-- What began a recovery (TABLE 7-1). -/
inductive RecoveryCause where
  | contest
  | timeout
  | stuck
  | enable
  | restart
  deriving DecidableEq, Repr

/-- The reads of a point's item (R111). -/
inductive ReadKind where
  | poll
  | refreshPoll
  | guard
  | verify
  deriving DecidableEq, Repr

/-- A transaction with the work it serves (R111): what it names and what it sends is fixed at the grant. -/
inductive Work where
  | read (kind : ReadKind) (slot : SlotNo) (address : Address) (item : Byte) (width : Width)
  | write (slot : SlotNo) (address : Address) (item : Byte) (width : Width) (value : Value)
  | probe (address : Address)
  | scanStep (address : Address)
  | roll
  deriving DecidableEq, Repr

/-- The outcome of a transaction (TABLE 6-3). DONE of a read carries its data bytes, WINNER of a roll the winner's
address (R111). -/
inductive TxOutcome where
  | done (data : List Byte)
  | noNode
  | noAccept
  | checkFail
  | winner (x : Address)
  | empty
  | contest
  | timeout
  | stuck
  deriving DecidableEq, Repr

/-- What of a transaction on the wires comes next (R107, R108, R112 to R114, R123): byte `n` of those the engine sends,
`cycles` of its nine bit cycles made; the RESTART; a byte a node sends, the bytes before it and the bits of it that have
been received; the STOP of an outcome. -/
inductive LinkPos where
  | sending (n cycles : Nat)
  | restart
  | receiving (got : List Byte) (bits : List Bool)
  | stop (outcome : TxOutcome)
  deriving DecidableEq, Repr

/-- Where a transaction stands: in the line check since a reading (R118), or on the wires, its START made at `start`
(R117) and FC last released at `released` (R116), with what comes next. -/
inductive TxPhase where
  | lineCheck (since : Time)
  | onWires (start released : Time) (pos : LinkPos)
  deriving DecidableEq, Repr

/-- The transaction in flight on a segment. `cleared` is set by CLEAR: it names no record any more (R29, R120). -/
structure Transaction where
  work : Work
  phase : TxPhase
  cleared : Bool
  deriving DecidableEq, Repr

/-- An entry of a poll schedule: its slot, its due time, and whether it is marked due (R33, R36). -/
structure SchedEntry where
  slot : SlotNo
  due : Due
  marked : Bool
  deriving DecidableEq, Repr

/-- The range and the requester of a scan (TABLE 7-3). -/
structure ScanRange where
  requester : Port
  low : Address
  high : Address
  deriving DecidableEq, Repr

/-- The state of a scan with the fields present in it (TABLE 7-3). -/
inductive ScanState where
  | idle
  | running (range : ScanRange) (next : Address)
  | done (range : ScanRange)
  | aborted (range : ScanRange)
  deriving DecidableEq, Repr

/-- A scan context (TABLE 7-3). -/
structure ScanContext where
  state : ScanState
  found : List Address
  deriving DecidableEq, Repr

/-- A segment: the engine's state (TABLE 7-1), the levels of its lines as last observed, its poll schedule (R33),
its command queue (R70) and its scan context (R141). -/
structure Segment where
  state : SegState
  speed : Speed
  transaction : Option Transaction
  fairness : Nat
  attempts : Nat
  cause : Option RecoveryCause
  retryTime : Option Time
  suppression : Option Time
  lines : Lines
  schedule : List SchedEntry
  commandQueue : List SlotNo
  scan : ScanContext
  deriving DecidableEq, Repr

/-! ### Notification queues (Section 8) -/

/-- Why the alarm changed (R58, R64). -/
inductive AlarmCause where
  | limit
  | hostReset
  deriving DecidableEq, Repr

/-- Why the quality changed (TABLE 2-4). -/
inductive QualityCause where
  | firstValue
  | recovered
  | failureLimit
  | staleLimit
  deriving DecidableEq, Repr

/-- How a commanded value was closed (TABLE 4-6). -/
inductive Close where
  | confirmed (attempts : Nat)
  | failed (cause : FailCause) (attempts : Nat)
  | superseded
  | withdrawn
  deriving DecidableEq, Repr

/-- The answer a FRESH carries (R53). -/
inductive FreshOutcome where
  | done (v : Value)
  | noNode
  | noAccept
  | checkFail
  deriving DecidableEq, Repr

/-- The events of a NODE entry (R101). -/
inductive NodeEvent where
  | lost (points : Nat)
  | back (points : Nat)
  | strayAlert
  deriving DecidableEq, Repr

/-- The events of a SEGMENT entry (R140). -/
inductive SegmentEvent where
  | up
  | recovered
  | down
  deriving DecidableEq, Repr

/-- The command states by name, as a SUMMARY or a READ reports them (TABLE 11-2). -/
inductive CommandCode where
  | noCommand
  | pending
  | queued
  | writing
  | verifying
  | confirmed
  | failed
  deriving DecidableEq, Repr

/-- The kinds of entry with their fields beyond sequence number and time (TABLE 8-2). -/
inductive Note where
  | value (h : Handle) (v : Value) (q : Quality)
  | alarm (h : Handle) (v : Value) (before after : Alarm) (cause : AlarmCause)
  | quality (h : Handle) (before after : Quality) (failures : Nat) (cause : QualityCause)
  | command (h : Handle) (v : Value) (close : Close)
  | drift (h : Handle) (read confirmed : Value)
  | fresh (h : Handle) (outcome : FreshOutcome) (q : Quality)
  | retired (h : Handle)
  | claimLost (h : Handle) (newOwner : Port)
  | node (event : NodeEvent) (g : SegId) (address : Address)
  | segment (g : SegId) (event : SegmentEvent) (cause : RecoveryCause)
  | scanDone (g : SegId) (complete : Bool) (found : Nat)
  | summaryPoint (h : Handle) (v : Option Value) (q : Quality) (alarm : Alarm) (command : Option CommandCode)
  | summarySystem (stateA stateB : SegState) (lost : Nat)
  deriving DecidableEq, Repr

/-- An entry of a notification queue (R148). -/
structure Entry where
  seq : SeqNo
  time : Time
  note : Note
  deriving DecidableEq, Repr

/-- The notification state of one port (TABLE 8-1). -/
structure Notify where
  queue : List Entry
  nextSeq : SeqNo
  enabled : Bool
  nodeEvents : Bool
  systemMark : Bool
  deriving DecidableEq, Repr

/-! ### The ports (Sections 9, 10 and 11) -/

/-- The status codes (TABLE 9-2). -/
inductive Status where
  | ok
  | accepted
  | frameError
  | unknownKind
  | badLength
  | badHandle
  | staleHandle
  | wrongKind
  | wrongState
  | notOwner
  | heldByOther
  | hostOnly
  | badField
  | duplicate
  | noSlot
  | noNodeSlot
  | nodeFull
  | segmentOff
  | busy
  deriving DecidableEq, Repr

/-- A response frame as a port holds it: the tag, the status, the two flags and the body (R178, TABLE 11-1). -/
structure ResponseFrame where
  tag : Byte
  status : Status
  droppedFlag : Bool
  queueFlag : Bool
  body : List Byte
  deriving DecidableEq, Repr

/-- The slots and the dropped flag of one port (R177). -/
structure PortSlots where
  request : Option RequestFrame
  response : Option ResponseFrame
  dropped : Bool
  deriving DecidableEq, Repr

/-- What the host port makes of the transaction under way (R179, R180, R186): none, a request frame of which these
bytes have arrived, or a transaction it ignores until HSEL_N rises. -/
inductive HostRx where
  | idle
  | partialFrame (got : List Byte)
  | ignoring
  deriving DecidableEq, Repr

/-- The console receive assembly (TABLE 10-2). -/
inductive Assembly where
  | hunt
  | header (got : List Byte)
  | body (tag kind : Byte) (left : Nat) (got : List Byte)
  | crc (tag kind : Byte) (body : List Byte) (high : Option Byte)
  | skip
  deriving DecidableEq, Repr

/-- The console rates of TABLE 10-1. -/
inductive ConsoleRate where
  | r9600
  | r38400
  | r115200
  | r230400
  deriving DecidableEq, Repr

/-- The rate the two strap levels select (TABLE 10-1). -/
def ConsoleRate.ofStraps (crate1 crate0 : Bool) : ConsoleRate :=
  match crate1, crate0 with
  | false, false => .r9600
  | false, true => .r38400
  | true, false => .r115200
  | true, true => .r230400

/-- The whole part. `inReset` says that hard reset lasts (R191). `hsdo` is what the port shifted out in the last host transaction and `ctxd` the last response the
console port sent, each byte in order: the model's record of two output pins. `pending` is the model's queue of
commands that wait. -/
structure State where
  inReset : Bool
  clock : Time
  slots : Vector Slot 256
  directory : List NodeEntry
  segments : PerSegment Segment
  notify : PerPort Notify
  ports : PerPort PortSlots
  lastServed : Port
  hostRx : HostRx
  hsdo : List Byte
  assembly : Assembly
  gapDue : Option Time
  consoleRate : ConsoleRate
  ctxd : List Byte
  pending : List Instr
  deriving DecidableEq, Repr

/-! ### Hard reset (R27, R104, R127, R145, R159, R186, R191) -/

/-- A slot after hard reset: FREE, generation 0 (R27). -/
def Slot.reset : Slot := { generation := 0, point := none }

/-- A scan context after hard reset: IDLE with an empty found list (R141). -/
def ScanContext.idle : ScanContext := { state := .idle, found := [] }

/-- A segment after hard reset (TABLE 7-1), its collections empty, with the levels its lines then have. -/
def Segment.reset (lines : Lines) : Segment :=
  { state := .off, speed := .kbit100, transaction := none, fairness := 0, attempts := 0, cause := none,
    retryTime := none, suppression := none, lines := lines, schedule := [], commandQueue := [],
    scan := .idle }

/-- The notification state of a port after hard reset (TABLE 8-1). -/
def Notify.reset : Notify :=
  { queue := [], nextSeq := 0, enabled := true, nodeEvents := false, systemMark := false }

/-- A port's slots after hard reset (R186). -/
def PortSlots.reset : PortSlots := { request := none, response := none, dropped := false }

/-- The part when hard reset ends, with the strap levels latched then, the level of HSEL_N, the levels of the field
lines and the commands that wait. -/
def State.afterReset (crate1 crate0 hselLow : Bool) (linesA linesB : Lines) (pending : List Instr) : State :=
  { inReset := false
    clock := 0
    slots := Vector.replicate 256 Slot.reset
    directory := []
    segments := ⟨Segment.reset linesA, Segment.reset linesB⟩
    notify := ⟨Notify.reset, Notify.reset⟩
    ports := ⟨PortSlots.reset, PortSlots.reset⟩
    lastServed := .console
    hostRx := if hselLow then .ignoring else .idle
    hsdo := []
    assembly := .hunt
    gapDue := none
    consoleRate := ConsoleRate.ofStraps crate1 crate0
    ctxd := []
    pending := pending }

/-- The part while hard reset lasts: every block as it is after hard reset, the roster clock at 0, the straps not read
yet, a transaction under way ignored (R186, R191). -/
def State.heldInReset (s : State) : State :=
  { State.afterReset false false (s.hostRx != .idle) s.segments.a.lines s.segments.b.lines s.pending with
    inReset := true, consoleRate := s.consoleRate }

/-- The machine right after reset. -/
def State.reset : State :=
  State.afterReset Config.resetCrate1 Config.resetCrate0 Config.resetHselLow Config.resetLines Config.resetLines []

end Sys2Proof.Machine
end

