-- ==== Sys2Proof/Machine/Ops.lean ====
section
/-! DEFINITION. Machine/Ops.lean: the named reads and updates of the state, the comparison of roster clock readings,
and the plain views of a record that the rules name (kind, scheduled kind, handle, occupancy). Every meaning reads and
writes the state through these. -/

namespace Sys2Proof

/-- The item of port `p`. -/
def PerPort.get {α : Type} (x : PerPort α) : Port → α
  | .host => x.host
  | .console => x.console

/-- `x` with the item of port `p` replaced. -/
def PerPort.set {α : Type} (x : PerPort α) (p : Port) (v : α) : PerPort α :=
  match p with
  | .host => ⟨v, x.console⟩
  | .console => ⟨x.host, v⟩

/-- The item of segment `g`. -/
def PerSegment.get {α : Type} (x : PerSegment α) : SegId → α
  | .a => x.a
  | .b => x.b

/-- `x` with the item of segment `g` replaced. -/
def PerSegment.set {α : Type} (x : PerSegment α) (g : SegId) (v : α) : PerSegment α :=
  match g with
  | .a => ⟨v, x.b⟩
  | .b => ⟨x.a, v⟩

namespace Machine

/-! ### Times (R31) -/

/-- `t` is later than `u`: the modular difference lies from 1 to 2^31 − 1 (R31). -/
def laterThan (t u : Time) : Bool := 1 ≤ (t - u).toNat && (t - u).toNat < 2 ^ 31

/-- `t` is earlier than `u`: the modular difference `t − u` lies from 2^31 to 2^32 − 1 (R31). -/
def earlierThan (t u : Time) : Bool := 2 ^ 31 ≤ (t - u).toNat

/-- The due time `d` has been reached at reading `t`: `t` is equal to `d` or later (R31). -/
def reached (d t : Time) : Bool := (t - d).toNat < 2 ^ 31

/-- A time an interval after another, modulo 2^32. -/
def after (t : Time) (interval : Interval) : Time := t + interval.zeroExtend 32

/-- A due time has been reached, by its due cap or by the clock (R36, R37). -/
def Due.reachedAt (d : Due) (t : Time) : Bool := d.capped || reached d.time t

/-! ### Slots and points -/

/-- The point in slot `i`, if the slot is not FREE. -/
def State.point? (s : State) (i : SlotNo) : Option Point := s.slots[i].point

/-- The generation of slot `i`. -/
def State.generation (s : State) (i : SlotNo) : Generation := s.slots[i].generation

/-- The current handle of slot `i`. -/
def State.handle (s : State) (i : SlotNo) : Handle := ⟨i, s.generation i⟩

/-- Slot `i` replaced. -/
def State.setSlot (s : State) (i : SlotNo) (x : Slot) : State := { s with slots := s.slots.set i x }

/-- The record of slot `i` replaced, its generation kept. -/
def State.setPoint (s : State) (i : SlotNo) (pt : Point) : State :=
  s.setSlot i { generation := s.generation i, point := some pt }

/-- The record of slot `i` changed by `f`; a FREE slot has none and stays as it is. -/
def State.modPoint (s : State) (i : SlotNo) (f : Point → Point) : State :=
  match s.point? i with
  | none => s
  | some pt => s.setPoint i (f pt)

/-- All slot numbers in ascending order. -/
def allSlots : List SlotNo := List.finRange 256

/-- A point is of kind OUTPUT when it carries a command sub-record (R1, R9). -/
def Point.isOutput (pt : Point) : Bool := pt.command.isSome

/-- A scheduled-kind point has a poll or guard period (R5). -/
def Point.scheduledKind (pt : Point) : Bool := pt.period.isSome

/-- The point is ACTIVE. -/
def Point.isActive (pt : Point) : Bool := pt.state == .active

/-- The point is RETIRING. -/
def Point.isRetiring (pt : Point) : Bool :=
  match pt.state with
  | .retiring _ => true
  | _ => false

/-- The point names the node `x` of segment `g`. -/
def Point.names (pt : Point) (g : SegId) (x : Address) : Bool := pt.segment == g && pt.address == x

/-- The command state is VERIFYING with its read not started (R77). -/
def Point.awaitsVerify (pt : Point) : Bool :=
  match pt.command with
  | some c => (match c.stand with
    | .verifying _ _ => (match pt.inFlight with
      | some f => f.kind != .verify
      | none => true)
    | _ => false)
  | none => false

/-- The non-FREE points that name the node `x` of segment `g`, in ascending slot order. -/
def State.slotsNaming (s : State) (g : SegId) (x : Address) : List SlotNo :=
  allSlots.filter fun i => (s.point? i).any (·.names g x)

/-- How many slots hold a point that `f` accepts. -/
def State.countPoints (s : State) (f : Point → Bool) : Nat :=
  allSlots.countP fun i => (s.point? i).any f

/-- The table's occupancy: the number of non-FREE slots (R1). -/
def State.occupancy (s : State) : Nat := s.countPoints fun _ => true

/-- The lowest-numbered FREE slot (R14). -/
def State.lowestFree (s : State) : Option SlotNo := allSlots.find? fun i => (s.point? i).isNone

/-! ### Segments -/

/-- The segment `g`. -/
def State.segment (s : State) (g : SegId) : Segment := s.segments.get g

/-- Segment `g` replaced. -/
def State.setSegment (s : State) (g : SegId) (x : Segment) : State := { s with segments := s.segments.set g x }

/-- Segment `g` changed by `f`. -/
def State.modSegment (s : State) (g : SegId) (f : Segment → Segment) : State := s.setSegment g (f (s.segment g))

/-- The levels of the lines of segment `g`, as now observed. -/
def State.setLines (s : State) (g : SegId) (l : Lines) : State := s.modSegment g fun x => { x with lines := l }

/-! ### Ports -/

/-- The notification state of port `p`. -/
def State.notifyOf (s : State) (p : Port) : Notify := s.notify.get p

/-- The notification state of port `p` replaced. -/
def State.setNotify (s : State) (p : Port) (x : Notify) : State := { s with notify := s.notify.set p x }

/-- The slots of port `p`. -/
def State.portOf (s : State) (p : Port) : PortSlots := s.ports.get p

/-- The slots of port `p` replaced. -/
def State.setPort (s : State) (p : Port) (x : PortSlots) : State := { s with ports := s.ports.set p x }

/-- RDY is asserted while the host port's response slot is full (R182). -/
def State.rdy (s : State) : Bool := (s.portOf .host).response.isSome

/-- ATTN is asserted while the HOST queue holds at least one entry (R151). -/
def State.attn (s : State) : Bool := !(s.notifyOf .host).queue.isEmpty

/-! ### The node directory -/

/-- The directory replaced. -/
def State.setDirectory (s : State) (d : List NodeEntry) : State := { s with directory := d }

/-- The entry has the key (`g`, `x`) (R91). -/
def NodeEntry.hasKey (e : NodeEntry) (g : SegId) (x : Address) : Bool := e.segment == g && e.address == x

/-- The directory entry of a key (R91). -/
def State.nodeEntry? (s : State) (g : SegId) (x : Address) : Option NodeEntry :=
  s.directory.find? (·.hasKey g x)

/-- The directory entry of a key changed by `f`. -/
def State.modNode (s : State) (g : SegId) (x : Address) (f : NodeEntry → NodeEntry) : State :=
  s.setDirectory (s.directory.map fun e => if e.hasKey g x then f e else e)

/-- The node is LOST: its entry exists and says so (R96). -/
def State.nodeLost (s : State) (g : SegId) (x : Address) : Bool :=
  (s.nodeEntry? g x).any (·.presence == .lost)

/-- The number of LOST entries on both segments together (R91). -/
def State.lostCount (s : State) : Nat := s.directory.countP (·.presence == .lost)

/-- The key of `e` comes before the key of `f`: segment A first, then the lower address (R103; log entry 28). -/
def NodeEntry.before (e f : NodeEntry) : Bool :=
  match e.segment, f.segment with
  | .a, .b => true
  | .b, .a => false
  | _, _ => e.address.toNat < f.address.toNat

/-- An entry put in its place in the order of keys. -/
def insertNode (e : NodeEntry) : List NodeEntry → List NodeEntry
  | [] => [e]
  | f :: rest => if e.before f then e :: f :: rest else f :: insertNode e rest

end Machine

end Sys2Proof
end

