-- ==== Sys2Proof/Machine/Formats.lean ====
section
/-! DEFINITION. Machine/Formats.lean: the encodings of Section 11 and the two cyclic redundancy checks: the codes of
the enumerations (TABLE 11-2), the frames (TABLE 11-1), the notification records (TABLES 11-7 and 11-8). -/

namespace Sys2Proof

namespace Machine

/-! ### Codes (TABLE 11-2) -/

/-- A yes/no field as a byte. -/
def flagByte (b : Bool) : Byte := if b then 1 else 0

/-- A flag at a bit position of a byte. -/
def flagBit (b : Bool) (n : Nat) : Byte := if b then (1 : Byte) <<< n else 0

/-- A count as a byte. -/
def byteOfNat (n : Nat) : Byte := BitVec.ofNat 8 n

/-- A count as two bytes, high byte first. -/
def bytes16OfNat (n : Nat) : List Byte := bytes16 (BitVec.ofNat 16 n)

/-- A port as a byte. -/
def portCode : Port → Byte
  | .host => 0
  | .console => 1

/-- A segment as a byte. -/
def segmentCode : SegId → Byte
  | .a => 0
  | .b => 1

/-- A node address as a byte. -/
def addressByte (x : Address) : Byte := x.zeroExtend 8

/-- The quality code. -/
def Quality.code : Quality → Byte
  | .empty => 0
  | .good => 1
  | .stale => 2
  | .fault => 3

/-- The alarm code. -/
def Alarm.code : Alarm → Byte
  | .normal => 0
  | .low => 1
  | .high => 2

/-- The command state by name. -/
def Stand.code : Stand → CommandCode
  | .noCommand => .noCommand
  | .pending _ _ => .pending
  | .queued _ _ => .queued
  | .writing _ _ => .writing
  | .verifying _ _ => .verifying
  | .confirmed _ => .confirmed
  | .failed _ _ => .failed

/-- The command state code. -/
def CommandCode.code : CommandCode → Byte
  | .noCommand => 0
  | .pending => 1
  | .queued => 2
  | .writing => 3
  | .verifying => 4
  | .confirmed => 5
  | .failed => 6

/-- The fail cause code; 0 is none. -/
def FailCause.code : FailCause → Byte
  | .noNode => 1
  | .noAccept => 2
  | .check => 3
  | .mismatch => 4
  | .expired => 5

/-- The segment state code. -/
def SegState.code : SegState → Byte
  | .off => 0
  | .up => 1
  | .recovering => 2
  | .down => 3

/-- The speed code. -/
def Speed.code : Speed → Byte
  | .kbit100 => 0
  | .kbit400 => 1

/-- The recovery cause code (TABLE 11-8, SEGMENT). -/
def RecoveryCause.code : RecoveryCause → Byte
  | .contest => 0
  | .timeout => 1
  | .stuck => 2
  | .enable => 3
  | .restart => 4

/-- The presence code (TABLE 11-6, NODE_QUERY). -/
def Presence.code : Presence → Byte
  | .unconfirmed => 0
  | .present => 1
  | .lost => 2

/-- The width as a byte. -/
def Width.byte : Width → Byte
  | .one => 1
  | .two => 2
  | .four => 4

/-- The number of bytes of a width. -/
def Width.bytes : Width → Nat
  | .one => 1
  | .two => 2
  | .four => 4

/-- The point state code (TABLE 11-6, DESCRIBE). -/
def PointState.code : PointState → Byte
  | .held => 1
  | .active => 2
  | .retiring _ => 3

/-- The in flight code (TABLE 11-6, DESCRIBE). -/
def flightCode : Option Flight → Byte
  | none => 0
  | some f => match f.kind with
    | .poll => 1
    | .refreshPoll => 2
    | .guard => 3
    | .write => 4
    | .verify => 5

/-- The scan state code (TABLE 11-6). -/
def ScanState.code : ScanState → Byte
  | .idle => 0
  | .running _ _ => 1
  | .done _ => 2
  | .aborted _ => 3

/-- The status code (TABLE 11-4). -/
def Status.code : Status → Byte
  | .ok => 0x00
  | .accepted => 0x01
  | .frameError => 0x10
  | .unknownKind => 0x11
  | .badLength => 0x12
  | .badHandle => 0x13
  | .staleHandle => 0x14
  | .wrongKind => 0x15
  | .wrongState => 0x16
  | .notOwner => 0x17
  | .heldByOther => 0x18
  | .hostOnly => 0x19
  | .badField => 0x1A
  | .duplicate => 0x1B
  | .noSlot => 0x1C
  | .noNodeSlot => 0x1D
  | .nodeFull => 0x1E
  | .segmentOff => 0x1F
  | .busy => 0x20

/-- The subscription set as a byte. -/
def SubSet.byte (x : SubSet) : Byte :=
  flagBit x.value 0 ||| flagBit x.alarm 1 ||| flagBit x.quality 2 ||| flagBit x.command 3

/-- The subscription set of the low four bits of a byte. -/
def SubSet.ofByte (b : Byte) : SubSet := ⟨b.getLsbD 0, b.getLsbD 1, b.getLsbD 2, b.getLsbD 3⟩

/-- A handle as two bytes: slot, then generation. -/
def Handle.bytes (h : Handle) : List Byte := [BitVec.ofFin h.slot, h.generation.zeroExtend 8]

/-- An optional 32-bit field: zero bytes when absent (R188). -/
def optBytes32 : Option Value → List Byte
  | none => [0, 0, 0, 0]
  | some v => bytes32 v

/-- An optional 16-bit interval: zero when absent. -/
def optBytes16 : Option Interval → List Byte
  | none => [0, 0]
  | some v => bytes16 v

/-! ### The two checks (R110, R187) -/

/-- One step of the CRC-8 register (R110). -/
def crc8Step (r : Byte) : Byte := if r.msb then (r <<< 1) ^^^ 0x07 else r <<< 1

/-- The CRC-8 register after one covered byte (R110). -/
def crc8Byte (r b : Byte) : Byte :=
  crc8Step (crc8Step (crc8Step (crc8Step (crc8Step (crc8Step (crc8Step (crc8Step (r ^^^ b))))))))

/-- The CRC-8 check byte of the bytes covered, from 0x00 (R110). -/
def crc8 (bs : List Byte) : Byte := bs.foldl crc8Byte 0

/-- One step of the CRC-16 register (R187). -/
def crc16Step (r : BitVec 16) : BitVec 16 := if r.msb then (r <<< 1) ^^^ 0x1021 else r <<< 1

/-- The CRC-16 register after one covered byte (R187). -/
def crc16Byte (r : BitVec 16) (b : Byte) : BitVec 16 :=
  crc16Step (crc16Step (crc16Step (crc16Step (crc16Step (crc16Step (crc16Step (crc16Step
    (r ^^^ (b.zeroExtend 16 <<< 8)))))))))

/-- The CRC-16 of the bytes covered, from 0xFFFF (R187). -/
def crc16 (bs : List Byte) : BitVec 16 := bs.foldl crc16Byte 0xFFFF

/-! ### Frames (TABLE 11-1) -/

end Machine

open Machine

/-- The bytes of a request frame that its CRC covers: from the tag to the last body byte (R187). -/
def RequestFrame.covered (f : RequestFrame) : List Byte := f.tag :: f.kind :: byteOfNat f.body.length :: f.body

/-- The frame's CRC field agrees with the register over its covered bytes (R163, R187). -/
def RequestFrame.crcOk (f : RequestFrame) : Bool := crc16 f.covered == f.crc

/-- The bytes of a request frame. -/
def RequestFrame.bytes (f : RequestFrame) : List Byte := f.covered ++ bytes16 f.crc

namespace Machine

/-- The frame of a request with its right CRC. -/
def frameOf (tag : Byte) (r : Request) : RequestFrame :=
  { tag := tag, kind := r.kindCode, body := r.body,
    crc := crc16 (tag :: r.kindCode :: byteOfNat r.body.length :: r.body) }

/-- The flags byte: bit 0 DROPPED, bit 1 QUEUE (TABLE 11-1). -/
def ResponseFrame.flags (f : ResponseFrame) : Byte := flagBit f.droppedFlag 0 ||| flagBit f.queueFlag 1

/-- The bytes of a response frame that its CRC covers (R187). -/
def ResponseFrame.covered (f : ResponseFrame) : List Byte :=
  f.tag :: f.status.code :: f.flags :: byteOfNat f.body.length :: f.body

/-- The bytes of a response frame, its CRC among them (R187). -/
def ResponseFrame.bytes (f : ResponseFrame) : List Byte := f.covered ++ bytes16 (crc16 f.covered)

/-! ### Notification records (R190, TABLES 11-7 and 11-8) -/

/-- The record kind (TABLE 11-8). -/
def Note.kindCode : Note → Byte
  | .value _ _ _ => 0x1
  | .alarm _ _ _ _ _ => 0x2
  | .quality _ _ _ _ _ => 0x3
  | .command _ _ _ => 0x4
  | .drift _ _ _ => 0x5
  | .fresh _ _ _ => 0x6
  | .retired _ => 0x7
  | .claimLost _ _ => 0x8
  | .node _ _ _ => 0x9
  | .segment _ _ _ => 0xA
  | .scanDone _ _ _ => 0xB
  | .summaryPoint _ _ _ _ _ => 0xC
  | .summarySystem _ _ _ => 0xD

/-- Offsets 0 and 1 for a record that carries a handle: its generation and its slot (TABLE 11-7). -/
def pointPlace (h : Handle) : Byte × Byte := (h.generation.zeroExtend 8, BitVec.ofFin h.slot)

/-- Bits 3–0 of offset 0 and the byte of offset 1 (TABLE 11-7). -/
def Note.place : Note → Byte × Byte
  | .value h _ _ => pointPlace h
  | .alarm h _ _ _ _ => pointPlace h
  | .quality h _ _ _ _ => pointPlace h
  | .command h _ _ => pointPlace h
  | .drift h _ _ => pointPlace h
  | .fresh h _ _ => pointPlace h
  | .retired h => pointPlace h
  | .claimLost h _ => pointPlace h
  | .node _ g _ => (0, segmentCode g)
  | .segment g _ _ => (0, segmentCode g)
  | .scanDone g _ _ => (0, segmentCode g)
  | .summaryPoint h _ _ _ _ => pointPlace h
  | .summarySystem _ _ _ => (0, 0)

/-- The cause of a QUALITY record (TABLE 11-8). -/
def QualityCause.code : QualityCause → Byte
  | .firstValue => 0
  | .recovered => 1
  | .failureLimit => 2
  | .staleLimit => 3

/-- Byte 10 of a COMMAND record: outcome, fail cause, attempts (TABLE 11-8). -/
def Close.byte : Close → Byte
  | .confirmed n => byteOfNat n <<< 5
  | .failed cause n => 1 ||| (cause.code <<< 2) ||| (byteOfNat n <<< 5)
  | .superseded => 2
  | .withdrawn => 3

/-- The value bytes of a FRESH record: zero unless DONE (TABLE 11-8). -/
def FreshOutcome.valueBytes : FreshOutcome → List Byte
  | .done v => bytes32 v
  | _ => [0, 0, 0, 0]

/-- The outcome code of a FRESH record (TABLE 11-8). -/
def FreshOutcome.code : FreshOutcome → Byte
  | .done _ => 0
  | .noNode => 1
  | .noAccept => 2
  | .checkFail => 3

/-- The code and the point count of a NODE record (TABLE 11-8). -/
def NodeEvent.codes : NodeEvent → Byte × Byte
  | .lost n => (0, byteOfNat n)
  | .back n => (1, byteOfNat n)
  | .strayAlert => (2, 0)

/-- The event code of a SEGMENT record (TABLE 11-8). -/
def SegmentEvent.code : SegmentEvent → Byte
  | .up => 0
  | .recovered => 1
  | .down => 2

/-- The payload from offset 6 on: five bytes, or eight for DRIFT; bytes not named are zero (TABLE 11-8). -/
def Note.payload : Note → List Byte
  | .value _ v q => bytes32 v ++ [q.code]
  | .alarm _ v before after cause =>
    bytes32 v ++ [before.code ||| (after.code <<< 2) ||| flagBit (cause == .hostReset) 4]
  | .quality _ before after failures cause =>
    [before.code, after.code, byteOfNat failures, cause.code, 0]
  | .command _ v close => bytes32 v ++ [close.byte]
  | .drift _ read confirmed => bytes32 read ++ bytes32 confirmed
  | .fresh _ outcome q => outcome.valueBytes ++ [outcome.code ||| (q.code <<< 2)]
  | .retired _ => [0, 0, 0, 0, 0]
  | .claimLost _ p => [portCode p, 0, 0, 0, 0]
  | .node event _ x => [event.codes.1, addressByte x, event.codes.2, 0, 0]
  | .segment _ event cause => [event.code, cause.code, 0, 0, 0]
  | .scanDone _ complete found => [flagByte (!complete), byteOfNat found, 0, 0, 0]
  | .summaryPoint _ v q al cmd =>
    optBytes32 v ++ [q.code ||| (al.code <<< 2) ||| flagBit v.isSome 4
      ||| ((cmd.elim 0 CommandCode.code) <<< 5)]
  | .summarySystem a b lost => [a.code, b.code, byteOfNat lost, 0, 0]

/-- A notification record (TABLE 11-7). -/
def Entry.record (e : Entry) : List Byte :=
  ((e.note.kindCode <<< 4) ||| e.note.place.1) :: e.note.place.2 :: bytes32 e.time ++ e.note.payload

end Machine

end Sys2Proof
end

