-- ==== Sys2Proof/Machine/Notify.lean ====
section
/-! DEFINITION. Machine/Notify.lean: the notification unit of Section 8. An offer to one port (R150), the routing of
each kind (R149), the drain of an accepted ACK (R155, R156), and the emptying of a port's queue (R158, R159). Also the
reported quality of R50, which a SUMMARY carries. -/

namespace Sys2Proof.Machine

/-! ### The standing a READ or a SUMMARY reports (R48, R50) -/

/-- The age of a value at reading `t`, at most 65,535 ms (R48). -/
def StoredValue.age (v : StoredValue) (t : Time) : Nat :=
  if v.capped then 65535 else min 65535 (t - v.time).toNat

/-- The age of the point's value has reached its stale limit; never so for a point with no value or no stale limit. -/
def Point.outlived (pt : Point) (t : Time) : Bool :=
  match pt.value, pt.staleLimit with
  | some v, some l => l.toNat ≤ v.age t
  | _, _ => false

/-- The reported quality (R50). -/
def Point.reportedQuality (pt : Point) (t : Time) : Quality :=
  if 4 ≤ pt.failures then .fault
  else if !pt.isOutput && (pt.quality == .good || pt.quality == .stale) && pt.outlived t then .stale
  else pt.quality

/-! ### Offers (R147, R149, R150) -/

/-- A port's queue holds at most 64 entries (R146). -/
def queueCapacity : Nat := 64

/-- The port's queue has room for an entry. -/
def Notify.hasRoom (q : Notify) : Bool := q.queue.length < queueCapacity

/-- An entry placed at the tail with the next sequence number, stamped with the present reading (R30, R147). -/
def Notify.push (q : Notify) (t : Time) (n : Note) : Notify :=
  { q with queue := q.queue ++ [⟨q.nextSeq, t, n⟩], nextSeq := q.nextSeq + 1 }

/-- The record with its pending mark for port `p` set or cleared (R8). -/
def Point.setMark (pt : Point) (p : Port) (b : Bool) : Point := { pt with marks := pt.marks.set p b }

/-- A notification of a point kind about slot `i` offered to port `p` (R150). -/
def offerPoint (p : Port) (i : SlotNo) (n : Note) (s : State) : State :=
  let q := s.notifyOf p
  if !q.enabled then s
  else if q.hasRoom then s.setNotify p (q.push s.clock n)
  else s.modPoint i (·.setMark p true)

/-- A notification of a system kind offered to port `p` (R150). -/
def offerSystem (p : Port) (n : Note) (s : State) : State :=
  let q := s.notifyOf p
  if !q.enabled then s
  else if q.hasRoom then s.setNotify p (q.push s.clock n)
  else s.setNotify p { q with systemMark := true }

/-- The subscription set of port `p` on slot `i`, empty for a FREE slot. -/
def State.subs (s : State) (i : SlotNo) (p : Port) : SubSet :=
  match s.point? i with
  | some pt => pt.subscriptions.get p
  | none => ⟨false, false, false, false⟩

/-- A notification about slot `i` offered to each port whose subscription set `f` accepts (R149). -/
def offerSubscribers (f : SubSet → Bool) (i : SlotNo) (n : Note) (s : State) : State :=
  let s1 := if f (s.subs i .host) then offerPoint .host i n s else s
  if f (s1.subs i .console) then offerPoint .console i n s1 else s1

/-- The close of a commanded value: offered to its issuing port whatever its subscriptions, and to the other port when
its set includes COMMAND (R85, R149). -/
def closeCommand (i : SlotNo) (v : Issued) (c : Close) (s : State) : State :=
  let n := Note.command (s.handle i) v.value c
  let s1 := if v.issuer == .host || (s.subs i .host).command then offerPoint .host i n s else s
  if v.issuer == .console || (s1.subs i .console).command then offerPoint .console i n s1 else s1

/-- A NODE or SEGMENT notification: offered to each port whose node-events enable is on (R149). -/
def offerNodeEvents (n : Note) (s : State) : State :=
  let s1 := if (s.notifyOf .host).nodeEvents then offerSystem .host n s else s
  if (s1.notifyOf .console).nodeEvents then offerSystem .console n s1 else s1

/-! ### The drain of an ACK (R155, R156) -/

/-- The SUMMARY of scope SYSTEM as the records stand (R156). -/
def State.systemSummary (s : State) : Note :=
  .summarySystem (s.segment .a).state (s.segment .b).state s.lostCount

/-- The SUMMARY of scope POINT of slot `i` as its record stands (R156). -/
def State.pointSummary (s : State) (i : SlotNo) (pt : Point) : Note :=
  .summaryPoint (s.handle i) (pt.value.map (·.value)) (pt.reportedQuality s.clock) pt.alarm
    (pt.command.map (·.stand.code))

/-- Step 1 of the drain: the system mark (R155). -/
def drainSystem (p : Port) (s : State) : State :=
  let q := s.notifyOf p
  if q.hasRoom && q.systemMark then
    s.setNotify p { q.push s.clock s.systemSummary with systemMark := false }
  else s

/-- Step 2 of the drain for one slot: its pending mark, while the queue has room (R155). -/
def drainSlot (p : Port) (s : State) (i : SlotNo) : State :=
  match s.point? i with
  | none => s
  | some pt =>
    let q := s.notifyOf p
    if q.hasRoom && pt.marks.get p then
      (s.setNotify p (q.push s.clock (s.pointSummary i pt))).setPoint i (pt.setMark p false)
    else s

/-- The drain: the system mark first, then points in ascending slot order, while the queue has room (R155). -/
def drain (p : Port) (s : State) : State := allSlots.foldl (drainSlot p) (drainSystem p s)

/-- Some point carries a pending mark for port `p` (R153, R172). -/
def State.anyPointMark (s : State) (p : Port) : Bool :=
  allSlots.any fun i => (s.point? i).any (·.marks.get p)

/-- Any mark for port `p` is set: the system mark or a pending mark on some point (R153). -/
def State.anyMark (s : State) (p : Port) : Bool := (s.notifyOf p).systemMark || s.anyPointMark p

/-! ### Emptying a queue (R158, R159) -/

/-- Every point's pending mark for port `p` cleared (R158). -/
def clearPointMarks (p : Port) (s : State) : State :=
  { s with slots := s.slots.map fun x => { x with point := x.point.map (·.setMark p false) } }

/-- Notifications turned off for port `p`: queue emptied, marks cleared, sequence number kept (R158). -/
def notificationsOff (p : Port) (s : State) : State :=
  let q := s.notifyOf p
  clearPointMarks p (s.setNotify p { q with queue := [], systemMark := false, enabled := false })

/-- A port's notification state emptied by CLEAR: sequence number and enables kept (R159). -/
def Notify.cleared (q : Notify) : Notify := { q with queue := [], systemMark := false }

end Sys2Proof.Machine
end

