-- ==== Sys2Proof/Machine/Schedule.lean ====
section
/-! DEFINITION. Machine/Schedule.lean: the poll schedules and the command queues as ordered collections (R33 to R37,
R70), the re-entry rules R38, R39 and R89, and the stale expiry a point carries (R47). -/

namespace Sys2Proof.Machine

/-! ### The poll schedule (R33, R35, R36) -/

/-- `e` stands before `f`: the earlier due time, the lower slot among equals; a due time whose due cap has been taken
is earlier than one whose cap has not (R33, R37). -/
def SchedEntry.before (e f : SchedEntry) : Bool :=
  match e.due.capped, f.due.capped with
  | true, false => true
  | false, true => false
  | _, _ => earlierThan e.due.time f.due.time || (e.due.time == f.due.time && e.slot < f.slot)

/-- An entry put in its place in a schedule (R33). -/
def insertEntry (e : SchedEntry) : List SchedEntry → List SchedEntry
  | [] => [e]
  | f :: rest => if e.before f then e :: f :: rest else f :: insertEntry e rest

/-- A schedule without the entry of slot `i`. -/
def removeEntry (i : SlotNo) (l : List SchedEntry) : List SchedEntry := l.filter (·.slot != i)

/-- The entry of slot `i` in segment `g`'s schedule. -/
def State.entryOf? (s : State) (g : SegId) (i : SlotNo) : Option SchedEntry :=
  (s.segment g).schedule.find? (·.slot == i)

/-- The entry of slot `i` in the schedule of its own point's segment. -/
def State.entry? (s : State) (i : SlotNo) : Option SchedEntry :=
  match s.point? i with
  | none => none
  | some pt => s.entryOf? pt.segment i

/-- A point's next due: the due time of its schedule entry, absent outside the schedule (R33). -/
def State.nextDue (s : State) (i : SlotNo) : Option Time := (s.entry? i).map (·.due.time)

/-- Slot `i` enters segment `g`'s schedule with a due time, marked at once when it is already reached (R36). A point
that already has an entry receives no second one (R34). -/
def enterSchedule (g : SegId) (i : SlotNo) (d : Due) (s : State) : State :=
  if (s.entryOf? g i).isSome then s
  else s.modSegment g fun x => { x with schedule := insertEntry ⟨i, d, d.reachedAt s.clock⟩ x.schedule }

/-- Slot `i` leaves segment `g`'s schedule; its next due becomes absent (R35). -/
def leaveSchedule (g : SegId) (i : SlotNo) (s : State) : State :=
  s.modSegment g fun x => { x with schedule := removeEntry i x.schedule }

/-- The due time of the present reading, with its due cap not taken. -/
def State.dueNow (s : State) : Due := ⟨s.clock, false⟩

/-- The due time of slot `i` moved to the present reading, the entry marked due at once (R35, R36). -/
def moveToNow (g : SegId) (i : SlotNo) (s : State) : State :=
  enterSchedule g i s.dueNow (leaveSchedule g i s)

/-- The earliest entry that is not marked due yet. -/
def Segment.firstUnmarked (x : Segment) : Option SchedEntry := x.schedule.find? (!·.marked)

/-- The entry of slot `i` marked due. -/
def markEntry (i : SlotNo) (l : List SchedEntry) : List SchedEntry :=
  l.map fun e => if e.slot == i then { e with marked := true } else e

/-- The due cap of slot `i`'s entry taken: the due time counts as reached (R37). -/
def capEntry (i : SlotNo) (l : List SchedEntry) : List SchedEntry :=
  l.map fun e => if e.slot == i then { e with due := { e.due with capped := true }, marked := true } else e

/-! ### The command queue (R70) -/

/-- Slot `i` placed at the tail of segment `g`'s command queue. -/
def queueTail (g : SegId) (i : SlotNo) (s : State) : State :=
  s.modSegment g fun x => { x with commandQueue := x.commandQueue ++ [i] }

/-- Slot `i` placed at the head of segment `g`'s command queue. -/
def queueHead (g : SegId) (i : SlotNo) (s : State) : State :=
  s.modSegment g fun x => { x with commandQueue := i :: x.commandQueue }

/-- Slot `i` taken out of segment `g`'s command queue. -/
def leaveQueue (g : SegId) (i : SlotNo) (s : State) : State :=
  s.modSegment g fun x => { x with commandQueue := x.commandQueue.filter (· != i) }

/-! ### Re-entry (R34, R37, R38, R39, R89) -/

/-- R38: the next due and the late flag after a read that began at start due `d`. -/
def rhythmicDue (d : Due) (period : Interval) (now : Time) : Due × Bool :=
  let candidate := after d.time period
  if !d.capped && laterThan candidate now then (⟨candidate, false⟩, false)
  else (⟨after now period, false⟩, true)

/-- R39: the next due and the late flag after a REFRESH-POLL of a point whose rhythm due is `d`. -/
def refreshedDue (d : Due) (period : Interval) (now : Time) (late : Bool) : Due × Bool :=
  if !d.capped && laterThan d.time now then (d, late) else rhythmicDue d period now

/-- The point stands in its segment's schedule whenever it can: ACTIVE, of scheduled kind, nothing in flight, its node
not LOST (R33). -/
def State.wantsEntry (s : State) (pt : Point) : Bool :=
  pt.isActive && pt.scheduledKind && pt.inFlight.isNone && !s.nodeLost pt.segment pt.address

/-- Slot `i` re-enters its schedule with due time `d` when its point wants an entry (R34). -/
def reenter (i : SlotNo) (d : Due) (s : State) : State :=
  match s.point? i with
  | none => s
  | some pt => if s.wantsEntry pt then enterSchedule pt.segment i d s else s

/-- Re-entry after a completed POLL, REFRESH-POLL or GUARD with start due `start` (R38, R39). -/
def reenterRead (kind : FlightKind) (start : Option Due) (i : SlotNo) (s : State) : State :=
  match s.point? i with
  | none => s
  | some pt =>
    match pt.period with
    | none => s
    | some period =>
      if s.wantsEntry pt then
        let d := start.getD s.dueNow
        let r := match kind, pt.rhythmDue with
          | .refreshPoll, some rd => refreshedDue rd period s.clock pt.late
          | _, _ => rhythmicDue d period s.clock
        enterSchedule pt.segment i r.1 (s.setPoint i { pt with late := r.2, rhythmDue := none })
      else s

/-! ### The stale expiry (R47) -/

/-- The due time of the stale expiry that ACTIVATE arms for an input that holds a value: its value time plus its stale
limit, and the present reading when the age cap has been raised, so that it is taken at once (R47). -/
def Point.staleDueOnActivate (pt : Point) (now : Time) : Option Time :=
  match pt.value, pt.staleLimit with
  | some v, some l => some (if v.capped then now else after v.time l)
  | _, _ => none

end Sys2Proof.Machine
end

