-- ==== Sys2Proof/Machine/Directory.lean ====
section
/-! DEFINITION. Machine/Directory.lean: the node directory of Section 5 (creation and removal of entries, presence,
misses, loss, return, probe times), the answers to fresh wanted flags (R53), and the freeing procedure (R11). -/

namespace Sys2Proof.Machine

/-! ### Fresh answers (R53) -/

/-- The record with its fresh wanted flag for port `p` set or cleared (R8). -/
def Point.setFresh (pt : Point) (p : Port) (b : Bool) : Point := { pt with fresh := pt.fresh.set p b }

/-- Port `p`'s fresh wanted flag on slot `i`, if set, answered by one FRESH and cleared (R53). -/
def answerFresh (p : Port) (outcome : FreshOutcome) (i : SlotNo) (s : State) : State :=
  match s.point? i with
  | none => s
  | some pt =>
    if pt.fresh.get p then
      (offerPoint p i (.fresh (s.handle i) outcome pt.quality) s).modPoint i (·.setFresh p false)
    else s

/-- Both ports' flags answered, HOST's before CONSOLE's (R96). -/
def answerFreshBoth (outcome : FreshOutcome) (i : SlotNo) (s : State) : State :=
  answerFresh .console outcome i (answerFresh .host outcome i s)

/-! ### Points of a node (R92) -/

/-- A directory holds at most 64 entries (R91). -/
def directoryCapacity : Nat := 64

/-- An entry carries at most 32 points (R93). -/
def nodePointLimit : Nat := 32

/-- A new point names the node `x` of segment `g`: its entry counts one more, or is created (R14, R92). -/
def addNodePoint (g : SegId) (x : Address) (s : State) : State :=
  match s.nodeEntry? g x with
  | some _ => s.modNode g x fun e => { e with points := e.points + 1 }
  | none =>
    s.setDirectory (insertNode
      { segment := g, address := x, presence := .unconfirmed, points := 1, misses := 0, probe := none } s.directory)

/-- A point that named the node is freed: its entry counts one less, and is removed at 0 (R11, R92). -/
def dropNodePoint (g : SegId) (x : Address) (s : State) : State :=
  let s1 := s.modNode g x fun e => { e with points := e.points - 1 }
  s1.setDirectory (s1.directory.filter fun e => !(e.hasKey g x && e.points == 0))

/-! ### Presence (R95, R96, R99) -/

/-- The interval between probes of a LOST node (R96, R98). -/
def probeInterval : Interval := 1000

/-- Slot `i` leaves its schedule by the loss of its node, its rhythm due discarded (R35, R37, R96). -/
def dropByLoss (g : SegId) (s : State) (i : SlotNo) : State :=
  (leaveSchedule g i s).modPoint i fun pt => { pt with rhythmDue := none }

/-- The eighth consecutive miss: the node becomes LOST (R96). `cause` is the slot of the point whose completion caused
the loss, whose flags its own completion answers. -/
def loseNode (g : SegId) (x : Address) (cause : Option SlotNo) (e : NodeEntry) (s : State) : State :=
  let s1 := s.modNode g x fun e =>
    { e with presence := .lost, misses := 8, probe := some ⟨after s.clock probeInterval, false⟩ }
  let s2 := offerNodeEvents (.node (.lost e.points) g x) s1
  let s3 := (s2.slotsNaming g x).foldl (dropByLoss g) s2
  ((s3.slotsNaming g x).filter fun i => cause != some i).foldl (fun t i => answerFreshBoth .noNode i t) s3

/-- An accepted address of a LOST entry: the node returns, and its waiting points are due at once (R99). -/
def returnNode (g : SegId) (x : Address) (e : NodeEntry) (s : State) : State :=
  let s1 := s.modNode g x fun e => { e with presence := .present, misses := 0, probe := none }
  let s2 := offerNodeEvents (.node (.back e.points) g x) s1
  (s2.slotsNaming g x).foldl (fun t i => reenter i t.dueNow t) s2

/-- An accepted address counted for the entry of the key, if one exists (R95, R99). -/
def nodeAccepted (g : SegId) (x : Address) (s : State) : State :=
  match s.nodeEntry? g x with
  | none => s
  | some e =>
    if e.presence == .lost then returnNode g x e s
    else s.modNode g x fun e => { e with presence := .present, misses := 0 }

/-- A miss counted for the entry of the key, if one exists (R95, R96). -/
def nodeMissed (g : SegId) (x : Address) (cause : Option SlotNo) (s : State) : State :=
  match s.nodeEntry? g x with
  | none => s
  | some e =>
    if e.presence == .lost then s
    else if 8 ≤ e.misses + 1 then loseNode g x cause e s
    else s.modNode g x fun e => { e with misses := e.misses + 1 }

/-- The next probe time of a LOST entry set; it is marked due at once when it is already reached (R32, R98). -/
def setProbe (g : SegId) (x : Address) (t : Time) (s : State) : State :=
  s.modNode g x fun e => if e.presence == .lost then { e with probe := some ⟨t, reached t s.clock⟩ } else e

/-! ### The freeing procedure (R11) -/

/-- A point's pending mark for port `p` becomes the port's system mark (R11). -/
def markToSystem (pt : Point) (p : Port) (s : State) : State :=
  if pt.marks.get p then s.setNotify p { s.notifyOf p with systemMark := true } else s

/-- The freeing procedure: out of its collections, the slot FREE with its generation advanced, its pending marks turned
into system marks, its node's point count lowered (R3, R11). -/
def freeSlot (i : SlotNo) (s : State) : State :=
  match s.point? i with
  | none => s
  | some pt =>
    let s1 := leaveQueue pt.segment i (leaveSchedule pt.segment i s)
    let s2 := s1.setSlot i { generation := s1.generation i + 1, point := none }
    let s3 := markToSystem pt .console (markToSystem pt .host s2)
    dropNodePoint pt.segment pt.address s3

end Sys2Proof.Machine
end

