-- ==== Sys2Proof/Machine/Values.lean ====
section
/-! DEFINITION. Machine/Values.lean: a point's value and standing. Assembly and extension of a value (R4, R40), the
point's comparison (R55), good and failed reads (R40, R41), quality (R45), alarm evaluation (R57, R58), the deadband
test (R61, R62) and the stale expiry's effect (R47). -/

namespace Sys2Proof.Machine

/-! ### Assembly and comparison (R4, R40, R55) -/

/-- Bytes received, most significant first, as one number (R40). -/
def assembleBytes (data : List Byte) : Value := data.foldl (fun v b => (v <<< 8) ||| b.zeroExtend 32) 0

/-- The low bytes of a width extended to 32 bits by the signed field of the point (R4). -/
def extendValue (w : Width) (signed : Bool) (v : Value) : Value :=
  match w, signed with
  | .one, true => (v.truncate 8).signExtend 32
  | .one, false => (v.truncate 8).zeroExtend 32
  | .two, true => (v.truncate 16).signExtend 32
  | .two, false => (v.truncate 16).zeroExtend 32
  | .four, _ => v

/-- A 32-bit quantity read in the point's comparison: two's complement, or a number from 0 (R55). -/
def asInt (signed : Bool) (v : Value) : Int := if signed then v.toInt else (v.toNat : Int)

/-- The value fits the width in the point's comparison (R71, TABLE 4-2). -/
def fits (w : Width) (signed : Bool) (v : Value) : Bool :=
  let n := asInt signed v
  match w, signed with
  | .one, true => -128 ≤ n && n ≤ 127
  | .one, false => 0 ≤ n && n ≤ 255
  | .two, true => -32768 ≤ n && n ≤ 32767
  | .two, false => 0 ≤ n && n ≤ 65535
  | .four, _ => true

/-! ### Quality (R45) -/

/-- A change of quality of slot `i`, from `before` to what the record now holds, makes one QUALITY notification (R45). -/
def noteQuality (i : SlotNo) (before : Quality) (cause : QualityCause) (s : State) : State :=
  match s.point? i with
  | none => s
  | some pt =>
    if pt.quality == before then s
    else offerSubscribers (·.quality) i (.quality (s.handle i) before pt.quality pt.failures cause) s

/-! ### Good and failed reads (R40, R41) -/

/-- Steps 1 to 5 of a good read of value `v` at reading `now`: value, value time, age cap cleared, failure count 0,
quality GOOD, and for an ACTIVE input its stale expiry (R40, R47, R48). -/
def Point.storeGood (pt : Point) (v : Value) (now : Time) : Point :=
  { pt with
    value := some ⟨v, now, false⟩
    failures := 0
    quality := .good
    staleDue := if pt.isActive && !pt.isOutput then pt.staleLimit.map (after now) else pt.staleDue }

/-- The cause of the QUALITY notification of a good read (TABLE 2-4). -/
def goodReadCause (before : Quality) : QualityCause := if before == .empty then .firstValue else .recovered

/-- A good read of slot `i`: the record, and the QUALITY notification it brings (R40, R45). -/
def goodRead (i : SlotNo) (v : Value) (s : State) : State :=
  match s.point? i with
  | none => s
  | some pt => noteQuality i pt.quality (goodReadCause pt.quality) (s.setPoint i (pt.storeGood v s.clock))

/-- The record after a failed read: the count, saturating at 255, and FAULT when it reaches 4 (R41). -/
def Point.failRead (pt : Point) : Point :=
  let n := min 255 (pt.failures + 1)
  { pt with failures := n, quality := if n = 4 then .fault else pt.quality }

/-- A failed read of slot `i` (R41, R45). -/
def failedRead (i : SlotNo) (s : State) : State :=
  match s.point? i with
  | none => s
  | some pt => noteQuality i pt.quality .failureLimit (s.setPoint i pt.failRead)

/-! ### Alarm evaluation (R56, R57, R58) -/

/-- TABLE 3-1: the alarm state after evaluation of `v` from `alarm` (R57). -/
def evaluateAlarm (signed : Bool) (l : Limits) (alarm : Alarm) (v : Value) : Alarm :=
  let n := asInt signed v
  let low := asInt signed l.low
  let high := asInt signed l.high
  let h : Int := l.hysteresis.toNat
  match alarm with
  | .normal => if n < low then .low else if high < n then .high else .normal
  | .low => if high < n then .high else if low + h ≤ n then .normal else .low
  | .high => if n < low then .low else if n ≤ high - h then .normal else .high

/-- Alarm evaluation of slot `i` on a good read of `v`; a change makes one ALARM LIMIT (R56, R58). -/
def evaluate (i : SlotNo) (v : Value) (s : State) : State :=
  match s.point? i with
  | none => s
  | some pt =>
    match pt.limits with
    | none => s
    | some l =>
      let a := evaluateAlarm pt.signed l pt.alarm v
      if a == pt.alarm then s
      else offerSubscribers (·.alarm) i (.alarm (s.handle i) v pt.alarm a .limit) (s.setPoint i { pt with alarm := a })

/-! ### The deadband test (R61, R62) -/

/-- The deadband test: the reported value is absent, or the exact distance is at least the deadband (R61). -/
def deadbandPasses (signed : Bool) (deadband : Value) (reported : Option Value) (v : Value) : Bool :=
  match reported with
  | none => true
  | some r => deadband.toNat ≤ (asInt signed v - asInt signed r).natAbs

/-- The deadband test of slot `i` on a good read of `v`; passing sets the reported value and makes VALUE (R61, R62). -/
def testDeadband (i : SlotNo) (v : Value) (s : State) : State :=
  match s.point? i with
  | none => s
  | some pt =>
    match pt.deadband with
    | none => s
    | some d =>
      if deadbandPasses pt.signed d pt.reported v then
        offerSubscribers (·.value) i (.value (s.handle i) v pt.quality) (s.setPoint i { pt with reported := some v })
      else s

/-! ### The stale expiry taken (R47) -/

/-- The record when its stale expiry is taken: the expiry is spent, and GOOD becomes STALE (R47). -/
def Point.goStale (pt : Point) : Point :=
  { pt with staleDue := none, quality := if pt.quality == .good then .stale else pt.quality }

/-- The stale expiry of slot `i` taken (R45, R47). -/
def takeStale (i : SlotNo) (s : State) : State :=
  match s.point? i with
  | none => s
  | some pt => noteQuality i pt.quality .staleLimit (s.setPoint i pt.goStale)

end Sys2Proof.Machine
end

