-- ==== Sys2Proof/Machine/Commands.lean ====
section
/-! DEFINITION. Machine/Commands.lean: the life of a commanded value (Section 4). Placing a command back to wait, the
failed attempt (R78), the promotion of a next value (R80), confirmation (R77), withdrawal (R22, R23), the deadlines
(R81, R82), and the guard comparison with its restore (R87, R88). -/

namespace Sys2Proof.Machine

/-- The record with its command sub-record changed by `f`. -/
def Point.modCommand (pt : Point) (f : Command → Command) : Point := { pt with command := pt.command.map f }

/-- Slot `i`'s command sub-record changed by `f`. -/
def modCommand (i : SlotNo) (f : Command → Command) (s : State) : State := s.modPoint i (·.modCommand f)

/-- Slot `i`'s command state set. -/
def setStand (i : SlotNo) (x : Stand) (s : State) : State := modCommand i (fun c => { c with stand := x }) s

/-- The command state of slot `i`; NONE when it carries no command. -/
def State.stand (s : State) (i : SlotNo) : Stand :=
  match s.point? i with
  | some pt => (match pt.command with
    | some c => c.stand
    | none => .noCommand)
  | none => .noCommand

/-- Slot `i`'s value goes back to wait with a deadline: QUEUED at the head on an ACTIVE point, PENDING on a HELD one
(R20, R70, R78, R79, R80). -/
def waitAgain (i : SlotNo) (v : Issued) (deadline : Option Time) (s : State) : State :=
  match s.point? i with
  | none => s
  | some pt =>
    if pt.isActive then queueHead pt.segment i (setStand i (.queued v deadline) s)
    else setStand i (.pending v deadline) s

/-- The stored next value becomes the desired value with attempts 0; marked expired it fails EXPIRED (R80, R82). -/
def promote (i : SlotNo) (nv : NextValue) (s : State) : State :=
  let s1 := modCommand i (fun c => { c with attempts := 0 }) s
  if nv.expired then
    closeCommand i nv.issued (.failed .expired 0) (setStand i (.failed nv.issued .expired) s1)
  else waitAgain i nv.issued nv.deadline s1

/-- After the desired value has been closed: the next value, if one is stored, takes its place (R80). -/
def promoteIfAny (i : SlotNo) (next : Option NextValue) (s : State) : State :=
  match next with
  | none => s
  | some nv => promote i nv s

/-- The delivery step ends without confirming and without a third failed attempt: the value waits again, or is closed
SUPERSEDED when a next value is stored (R78, R79, R80). -/
def stepUndone (i : SlotNo) (v : Issued) (next : Option NextValue) (s : State) : State :=
  match next with
  | none => waitAgain i v none s
  | some nv => promote i nv (closeCommand i v .superseded s)

/-- The desired value and the next value of a command on its way: WRITING or VERIFYING. -/
def Stand.delivering : Stand → Option (Issued × Option NextValue)
  | .writing v next => some (v, next)
  | .verifying v next => some (v, next)
  | _ => none

/-- The step ends by a segment fault, an abandonment or a skipped verification: not an attempt (R18, R79). -/
def notAnAttempt (i : SlotNo) (s : State) : State :=
  match (s.stand i).delivering with
  | none => s
  | some (v, next) => stepUndone i v next s

/-- The attempts field of slot `i`. -/
def State.attempts (s : State) (i : SlotNo) : Nat :=
  match s.point? i with
  | some pt => (match pt.command with
    | some c => c.attempts
    | none => 0)
  | none => 0

/-- A failed attempt with its cause (R78). -/
def failedAttempt (i : SlotNo) (cause : FailCause) (s : State) : State :=
  match (s.stand i).delivering with
  | none => s
  | some (v, next) =>
    let n := s.attempts i + 1
    let s1 := modCommand i (fun c => { c with attempts := n }) s
    if n < 3 then stepUndone i v next s1
    else promoteIfAny i next (closeCommand i v (.failed cause n) (setStand i (.failed v cause) s1))

/-- The verification read returned the desired value: CONFIRMED (R77). -/
def confirm (i : SlotNo) (v : Issued) (next : Option NextValue) (s : State) : State :=
  let s1 := modCommand i (fun c => { c with stand := .confirmed v, confirmedValue := some v.value }) s
  promoteIfAny i next (closeCommand i v (.confirmed (s.attempts i)) s1)

/-- The command comparison after a good VERIFY read of `v` (R77). -/
def compareVerify (i : SlotNo) (v : Value) (s : State) : State :=
  match (s.stand i).delivering with
  | none => s
  | some (d, next) => if d.value == v then confirm i d next s else failedAttempt i .mismatch s

/-- COMMAND WITHDRAWN for the desired value of a waiting or delivering command, then for its next value (R22, R23). -/
def withdrawNotes (i : SlotNo) (s : State) : State :=
  match s.stand i with
  | .pending v _ => closeCommand i v .withdrawn s
  | .queued v _ => closeCommand i v .withdrawn s
  | .writing v next | .verifying v next =>
    let s1 := closeCommand i v .withdrawn s
    (match next with
    | none => s1
    | some nv => closeCommand i nv.issued .withdrawn s1)
  | _ => s

/-- The command state NONE with no desired value and attempts 0; confirmed value and restore are kept (R23, R83). -/
def Command.withdrawn (c : Command) : Command := { c with stand := .noCommand, attempts := 0 }

/-- The deadline of a PENDING or QUEUED command (R81). -/
def Stand.deadline : Stand → Option Time
  | .pending _ d => d
  | .queued _ d => d
  | _ => none

/-- The deadline of a next value not marked expired yet (R82). -/
def Stand.nextDeadline : Stand → Option Time
  | .writing _ (some nv) => if nv.expired then none else nv.deadline
  | .verifying _ (some nv) => if nv.expired then none else nv.deadline
  | _ => none

/-- The next value marked expired (R82). -/
def Stand.markExpired : Stand → Stand
  | .writing v (some nv) => .writing v (some { nv with expired := true })
  | .verifying v (some nv) => .verifying v (some { nv with expired := true })
  | x => x

/-- A deadline expiry taken: FAILED EXPIRED, out of the queue (R81). -/
def takeDeadline (i : SlotNo) (s : State) : State :=
  match s.point? i with
  | none => s
  | some pt =>
    match s.stand i with
    | .pending v _ => closeCommand i v (.failed .expired (s.attempts i)) (setStand i (.failed v .expired) s)
    | .queued v _ =>
      closeCommand i v (.failed .expired (s.attempts i)) (setStand i (.failed v .expired) (leaveQueue pt.segment i s))
    | _ => s

/-! ### The guard comparison (R87, R88) -/

/-- The restore command that follows a DRIFT on a point with restore (R88). -/
def restoreCommand (i : SlotNo) (cv : Value) (s : State) : State :=
  match s.point? i with
  | none => s
  | some pt =>
    let v : Issued := ⟨cv, pt.owner.getD .host⟩
    let s1 := modCommand i (fun c => { c with attempts := 0 }) s
    if pt.isActive then queueTail pt.segment i (setStand i (.queued v none) s1)
    else setStand i (.pending v none) s1

/-- The guard comparison after a good GUARD read of `v`: DRIFT on a difference while CONFIRMED, and the restore command
when restore is yes (R87, R88). -/
def compareGuard (i : SlotNo) (v : Value) (s : State) : State :=
  match s.point? i with
  | none => s
  | some pt =>
    match pt.command with
    | none => s
    | some c =>
      match c.stand, c.confirmedValue with
      | .confirmed _, some cv =>
        if v == cv then s
        else
          let s1 := offerSubscribers (·.command) i (.drift (s.handle i) v cv) s
          if c.restore then restoreCommand i cv s1 else s1
      | _, _ => s

end Sys2Proof.Machine
end

