-- ==== Sys2Proof/Machine/Wire.lean ====
section
/-! DEFINITION. Machine/Wire.lean: the field link as the segment engine drives it (Section 6): what it pulls and releases in
a bit cycle and in each condition (R106, R107), which cycle a transaction makes next (R108, R112 to R114, R120, R123),
and how the levels the nodes leave FD at move it on to its outcome (R115, R119, R124). Also the recovery attempt of
R137. -/

namespace Sys2Proof.Machine

/-- The recovery cause of a segment fault; none for an outcome that is no fault (R111, R137). -/
def TxOutcome.fault? : TxOutcome → Option RecoveryCause
  | .contest => some .contest
  | .timeout => some .timeout
  | .stuck => some .stuck
  | _ => none

/-! ### The line drivers (R105, R106, R107) -/

/-- The engine's two drivers of a segment (R105): `true` is released, `false` pulled low. FA has none. -/
structure Drivers where
  fc : Bool
  fd : Bool
  deriving DecidableEq, Repr

/-- Both lines released: outside a transaction, and while the segment is OFF or DOWN (R105). -/
def Drivers.released : Drivers := ⟨true, true⟩

/-- One thing the engine does on the lines (R106, R107). -/
inductive LineAct where
  /-- FC released, or pulled low. -/
  | fc (release : Bool)
  /-- FD released, or pulled low. -/
  | fd (release : Bool)
  /-- FC is released and the engine waits until it reads high; the hold allowance runs (R116). -/
  | awaitFc
  /-- FD is sampled. -/
  | sampleFd
  deriving DecidableEq, Repr

/-- The drivers while acts are made, with the level of FD last sampled. -/
structure LineRun where
  drivers : Drivers
  sample : Option Bool
  deriving DecidableEq, Repr

/-- One act made, the nodes leaving FD at `nodes`: a line is low when any device pulls it low. -/
def LineRun.act (nodes : Bool) (r : LineRun) : LineAct → LineRun
  | .fc release => { r with drivers := { r.drivers with fc := release } }
  | .fd release => { r with drivers := { r.drivers with fd := release } }
  | .awaitFc => r
  | .sampleFd => { r with sample := some (r.drivers.fd && nodes) }

/-- Acts made one after the other. -/
def LineRun.acts (nodes : Bool) (r : LineRun) (acts : List LineAct) : LineRun := acts.foldl (LineRun.act nodes) r

/-- One bit cycle with FD released or pulled low while FC is low (R106). -/
def bitCycle (release : Bool) : List LineAct := [.fc false, .fd release, .fc true, .awaitFc, .sampleFd]

/-- START: FD is pulled low, then FC (R107). -/
def startActs : List LineAct := [.fd false, .fc false]

/-- A bit cycle by who drives FD in it, or a condition inside a transaction (R107, R108). -/
inductive Cycle where
  /-- A bit the engine sends: FD is released for a 1 and pulled low for a 0. -/
  | bit (b : Bool)
  /-- A bit a node sends, a node's acceptance bit, or a recovery pulse: the engine leaves FD released. -/
  | listen
  /-- The engine's own acceptance bit: FD is pulled low to accept, released to refuse. -/
  | answer (accept : Bool)
  | restart
  | stop
  deriving DecidableEq, Repr

/-- What the engine does in a cycle. Each one begins with FC low, which ends the bit before it (R106, R107). -/
def Cycle.acts : Cycle → List LineAct
  | .bit b => bitCycle b
  | .listen => bitCycle true
  | .answer accept => bitCycle (!accept)
  | .restart => [.fc false, .fd true, .fc true, .awaitFc, .sampleFd, .fd false, .fc false]
  | .stop => [.fc false, .fd false, .fc true, .awaitFc, .fd true, .sampleFd]

/-- The lines after a START, before the first cycle. -/
def LineRun.started : LineRun := LineRun.acts true ⟨.released, none⟩ startActs

/-- The level of FD the engine samples in a cycle in which the nodes leave FD at `nodes`. -/
def Cycle.sampled (c : Cycle) (nodes : Bool) : Bool := ((LineRun.acts nodes .started c.acts).sample).getD true

/-- The drivers while the engine waits in a cycle for FC to read high. -/
def Cycle.waiting (c : Cycle) : Drivers := (LineRun.acts true .started (c.acts.takeWhile (· != .awaitFc))).drivers

/-- The sample shows another driver (R115): FD released and sampled low in a bit the engine sends, a RESTART or a STOP. -/
def Cycle.fought (c : Cycle) (sample : Bool) : Bool :=
  match c with
  | .bit b => b && !sample
  | .restart => !sample
  | .stop => !sample
  | .listen => false
  | .answer _ => false

/-! ### Bits and bytes (R108, R109) -/

/-- The eight bits of a byte, most significant first (R108). -/
def bitsOf (b : Byte) : List Bool :=
  [b.getLsbD 7, b.getLsbD 6, b.getLsbD 5, b.getLsbD 4, b.getLsbD 3, b.getLsbD 2, b.getLsbD 1, b.getLsbD 0]

/-- The byte of bits received, most significant first (R108). -/
def byteOfBits (bits : List Bool) : Byte := bits.foldl (fun v b => (v <<< 1) ||| flagByte b) 0

/-- An address byte: the address in the upper seven bits, the direction in the lowest (R109). -/
def addressOnWire (x : Address) (read : Bool) : Byte := (x.zeroExtend 8 <<< 1) ||| flagByte read

/-- The roll address with direction read, 0x11 (R109). -/
def rollByte : Byte := 0x11

/-- A node address lies from 0x10 to 0x6F (R109). -/
def nodeAddressInRange (x : Nat) : Bool := 0x10 ≤ x && x ≤ 0x6F

/-! ### What the four transactions carry (R110, R112, R113, R114, R123, R124) -/

/-- The low width bytes of a value, most significant first (R112). -/
def dataBytes (w : Width) (v : Value) : List Byte :=
  match w with
  | .one => [v.extractLsb' 0 8]
  | .two => [v.extractLsb' 8 8, v.extractLsb' 0 8]
  | .four => bytes32 v

/-- The bytes of a write after its address byte: item index, data, check byte (R110, R112). -/
def writeTail (x : Address) (item : Byte) (w : Width) (v : Value) : List Byte :=
  item :: dataBytes w v ++ [crc8 (addressOnWire x false :: item :: dataBytes w v)]

/-- The bytes the engine sends, in order (R112, R113, R114, R123). -/
def Work.sends : Work → List Byte
  | .read _ _ x item _ => [addressOnWire x false, item, addressOnWire x true]
  | .write _ x item w v => addressOnWire x false :: writeTail x item w v
  | .probe x => [addressOnWire x false]
  | .scanStep x => [addressOnWire x false]
  | .roll => [rollByte]

/-- How many bytes the nodes send after those: data and check byte of a read, address and check byte of a roll. -/
def Work.receives : Work → Nat
  | .read _ _ _ _ w => w.bytes + 1
  | .write _ _ _ _ _ => 0
  | .probe _ => 0
  | .scanStep _ => 0
  | .roll => 2

/-- The outcome of a clean STOP after byte `n` was refused (R112, R113, R114, R123). -/
def Work.refusal (w : Work) (n : Nat) : TxOutcome :=
  match w with
  | .roll => .empty
  | _ => if n = 0 then .noNode else .noAccept

/-- A RESTART follows byte `n`: the item index of a read (R113). -/
def Work.restartsAfter (w : Work) (n : Nat) : Bool :=
  match w with
  | .read _ _ _ _ _ => n == 1
  | _ => false

/-- The judgement of a roll's byte and check byte (R124). -/
def judgeRoll (b check : Byte) : TxOutcome :=
  if b.getLsbD 0 && nodeAddressInRange (b.toNat / 2) && crc8 [b] == check then .winner (b.extractLsb' 1 7)
  else .empty

/-- The outcome of a clean STOP after all bytes of the nodes were received, `got` (R113, R124). -/
def Work.judge (w : Work) (got : List Byte) : TxOutcome :=
  match w with
  | .read _ _ _ item _ =>
    if got.getLast? == some (crc8 (item :: got.dropLast)) then .done got.dropLast else .checkFail
  | .roll => judgeRoll (got.getD 0 0) (got.getD 1 0)
  | _ => .done []

/-! ### The course of a transaction (R108, R112 to R115, R119, R120, R123) -/

/-- What follows the START: the first byte. -/
def LinkPos.first : LinkPos := .sending 0 0

/-- The cycle the engine makes next. It accepts every byte of a node but the last, which it refuses as the end marker; in
a cleared transaction the byte under way is the last (R108, R120). -/
def Work.cycle (w : Work) (cleared : Bool) : LinkPos → Cycle
  | .sending n cycles => if cycles < 8 then .bit ((bitsOf (w.sends.getD n 0)).getD cycles false) else .listen
  | .restart => .restart
  | .receiving got bits => if bits.length < 8 then .listen else .answer (!cleared && got.length + 1 < w.receives)
  | .stop _ => .stop

/-- What follows byte `n` when it has been accepted (R112, R113, R114, R123). -/
def Work.afterAccepted (w : Work) (n : Nat) : LinkPos :=
  if w.restartsAfter n then .restart
  else if n + 1 < w.sends.length then .sending (n + 1) 0
  else if w.receives = 0 then .stop (.done [])
  else .receiving [] []

/-- What follows the acceptance bit of byte `n`, a low level accepting it; a cleared transaction goes to its STOP
(R108, R112, R120). -/
def Work.afterSent (w : Work) (cleared : Bool) (n : Nat) (level : Bool) : LinkPos :=
  if cleared then .stop (.done [])
  else if level then .stop (w.refusal n)
  else w.afterAccepted n

/-- What follows a byte of a node, `got` being the bytes received with it (R108, R113, R120, R123). -/
def Work.afterReceived (w : Work) (cleared : Bool) (got : List Byte) : LinkPos :=
  if cleared then .stop (.done [])
  else if got.length < w.receives then .receiving got []
  else .stop (w.judge got)

/-- A transaction on the wires goes on, or has ended. -/
inductive Progress where
  | going (pos : LinkPos)
  | ended (outcome : TxOutcome)
  deriving DecidableEq, Repr

/-- The transaction after a cycle in which FD was sampled at a level that shows no other driver (R119). -/
def Work.advance (w : Work) (cleared : Bool) (pos : LinkPos) (level : Bool) : Progress :=
  match pos with
  | .sending n cycles => .going (if cycles < 8 then .sending n (cycles + 1) else w.afterSent cleared n level)
  | .restart => .going (if cleared then .stop (.done []) else .sending 2 0)
  | .receiving got bits =>
    .going (if bits.length < 8 then .receiving got (bits ++ [level]) else w.afterReceived cleared (got ++ [byteOfBits bits]))
  | .stop outcome => .ended outcome

/-- The transaction after its next cycle, the nodes leaving FD at `nodes`: another driver ends it with CONTEST (R115). -/
def Work.afterCycle (w : Work) (cleared : Bool) (pos : LinkPos) (nodes : Bool) : Progress :=
  let c := w.cycle cleared pos
  if c.fought (c.sampled nodes) then .ended .contest else w.advance cleared pos (c.sampled nodes)

/-- The transaction after its next cycles, one level of the nodes each, up to its end. -/
def Work.afterCycles (w : Work) (cleared : Bool) : LinkPos → List Bool → Progress
  | pos, [] => .going pos
  | pos, nodes :: rest =>
    match w.afterCycle cleared pos nodes with
    | .going next => w.afterCycles cleared next rest
    | .ended outcome => .ended outcome

/-- The transaction stands between two bytes: no cycle of what comes next has been made. -/
def LinkPos.betweenBytes : LinkPos → Bool
  | .sending _ cycles => cycles == 0
  | .restart => true
  | .receiving _ bits => bits.isEmpty
  | .stop _ => false

/-- Where a cleared transaction goes on from: its STOP at once when CLEAR was taken between two bytes (R120). -/
def LinkPos.cut (between : Bool) (pos : LinkPos) : LinkPos :=
  if between && pos.betweenBytes then .stop (.done []) else pos

/-! ### The drivers of a segment (R105, R121, R126) -/

/-- The engine's drivers of a segment: in a transaction on the wires those of the cycle it waits in, else released. -/
def Segment.drivers (x : Segment) : Drivers :=
  match x.transaction with
  | none => .released
  | some t =>
    match t.phase with
    | .lineCheck _ => .released
    | .onWires _ _ pos => (t.work.cycle t.cleared pos).waiting

/-! ### A recovery attempt (R137) -/

/-- The pulses of step 3, each a cycle in which the engine drives nothing on FD: some true once FD is sampled high, some
false on a hold beyond the allowance or when `n` pulses have not freed FD, none when the reads do not reach the end of
the step (R137). -/
def pulse : Nat → List (Option Bool) → Option Bool
  | 0, _ => some false
  | _ + 1, [] => none
  | _ + 1, none :: _ => some false
  | n + 1, some nodes :: rest => if Cycle.listen.sampled nodes then some true else pulse n rest

/-- The end of a recovery attempt: whether it succeeds (R137). The model's choice (DESIGN CHOICE, log entry 12): an FC held
beyond 2 ms in the STOP of step 4 fails the attempt, where R137 gives only the readback of FD. -/
def attemptResult (r : RecoveryReads) : Option Bool :=
  if !r.fcRises then some false
  else
    match (if r.fd then some true else pulse 12 r.pulses) with
    | none => none
    | some false => some false
    | some true => some (r.stop.any Cycle.stop.sampled && r.lastFc && r.lastFd)

end Sys2Proof.Machine
end

