-- ==== Sys2Proof/Machine/Segments.lean ====
section
/-! DEFINITION. Machine/Segments.lean: what the end of a transaction does (Sections 2, 4, 5 and 7): the effects of an
outcome on the node, the point, the scan and the segment, the abandonment of R121, the end of a RETIRING point's
transaction (R25), recovery (R137, R138), scan ends (R143), and the arbiter with its start claims (R19, R97, R134 to
R136). -/

namespace Sys2Proof.Machine

/-! ### Recovery and scan ends (R137, R138, R143) -/

/-- The segment becomes RECOVERING with a cause, attempt count 0 and fairness count 0; its first attempt is under way,
no retry time being set (R129, R132, R135, R137). -/
def beginRecovery (g : SegId) (cause : RecoveryCause) (s : State) : State :=
  s.modSegment g fun x =>
    { x with state := .recovering, cause := some cause, attempts := 0, retryTime := none, fairness := 0 }

/-- The segment has no transaction in flight any more. -/
def endTransaction (g : SegId) (s : State) : State := s.modSegment g fun x => { x with transaction := none }

/-- A RUNNING scan of the segment aborted, with SCAN_DONE ABORTED to its requester (R143). -/
def abortScan (g : SegId) (s : State) : State :=
  let c := (s.segment g).scan
  match c.state with
  | .running range _ =>
    offerSystem range.requester (.scanDone g false c.found.length)
      (s.modSegment g fun x => { x with scan := { c with state := .aborted range } })
  | _ => s

/-- The next address of a RUNNING scan advances; past its high address the scan is DONE, with SCAN_DONE COMPLETE to its
requester (R142, R143). -/
def advanceScan (g : SegId) (s : State) : State :=
  let c := (s.segment g).scan
  match c.state with
  | .running range next =>
    if next == range.high then
      offerSystem range.requester (.scanDone g true c.found.length)
        (s.modSegment g fun x => { x with scan := { c with state := .done range } })
    else s.modSegment g fun x => { x with scan := { c with state := .running range (next + 1) } }
  | _ => s

/-- An address that accepted its scan probe, added to the end of the found list (R142). -/
def recordFound (g : SegId) (x : Address) (s : State) : State :=
  s.modSegment g fun y => { y with scan := { y.scan with found := y.scan.found ++ [x] } }

/-! ### The end of a transaction for its point (R20, R25, R38 to R44, R76 to R79) -/

/-- The point's in flight field returns to none, its start due discarded (R7, R37). -/
def endFlight (i : SlotNo) (s : State) : State := s.modPoint i fun pt => { pt with inFlight := none }

/-- The transaction of a RETIRING point ends: the slot is freed, then RETIRED goes to the retire requester (R25). -/
def endRetirement (requester : Port) (i : SlotNo) (s : State) : State :=
  offerSystem requester (.retired (s.handle i)) (freeSlot i s)

/-- The kind of an in flight field for a read. -/
def ReadKind.flight : ReadKind → FlightKind
  | .poll => .poll
  | .refreshPoll => .refreshPoll
  | .guard => .guard
  | .verify => .verify

/-- A POLL and a REFRESH-POLL answer the fresh wanted flags (R53). -/
def answersFresh : ReadKind → Bool
  | .poll => true
  | .refreshPoll => true
  | _ => false

/-- Fresh wanted flags answered by a completion that answers them, last among its notifications (R46, R53). -/
def freshAnswer (kind : ReadKind) (outcome : FreshOutcome) (i : SlotNo) (s : State) : State :=
  if answersFresh kind then answerFreshBoth outcome i s else s

/-- A failed POLL, REFRESH-POLL or GUARD (R41, R43, R53). -/
def pollFailed (kind : ReadKind) (outcome : FreshOutcome) (i : SlotNo) (s : State) : State :=
  freshAnswer kind outcome i (failedRead i s)

/-- A good POLL, REFRESH-POLL or GUARD of value `v`, its notifications in the order of R46 (R40, R43, R87). -/
def pollGood (kind : ReadKind) (v : Value) (i : SlotNo) (s : State) : State :=
  let s1 := testDeadband i v (evaluate i v (goodRead i v s))
  let s2 := if kind == .guard then compareGuard i v s1 else s1
  freshAnswer kind (.done v) i s2

/-- The point's part of a POLL, REFRESH-POLL or GUARD outcome (R40 to R43). -/
def pollEffects (kind : ReadKind) (i : SlotNo) (pt : Point) (outcome : TxOutcome) (s : State) : State :=
  match outcome with
  | .done data => pollGood kind (extendValue pt.width pt.signed (assembleBytes data)) i s
  | .noNode => pollFailed kind .noNode i s
  | .noAccept => pollFailed kind .noAccept i s
  | .checkFail => pollFailed kind .checkFail i s
  | _ => s

/-- The command's part of a VERIFY outcome (R44, R77). -/
def verifyEffects (i : SlotNo) (pt : Point) (outcome : TxOutcome) (s : State) : State :=
  match outcome with
  | .done data =>
    let v := extendValue pt.width pt.signed (assembleBytes data)
    compareVerify i v (goodRead i v s)
  | .noNode => failedAttempt i .noNode s
  | .noAccept => failedAttempt i .noAccept s
  | .checkFail => failedAttempt i .check s
  | _ => notAnAttempt i s

/-- An accepted write: VERIFYING on an ACTIVE point; on a HELD one the verification is not started (R20, R76). -/
def writeAccepted (i : SlotNo) (pt : Point) (s : State) : State :=
  match s.stand i with
  | .writing v next => if pt.isActive then setStand i (.verifying v next) s else stepUndone i v next s
  | _ => s

/-- The command's part of a WRITE outcome (TABLE 4-4). -/
def writeEffects (i : SlotNo) (pt : Point) (outcome : TxOutcome) (s : State) : State :=
  match outcome with
  | .done _ => writeAccepted i pt s
  | .noNode => failedAttempt i .noNode s
  | .noAccept => failedAttempt i .noAccept s
  | .checkFail => failedAttempt i .check s
  | _ => notAnAttempt i s

/-- The point's part of a transaction that has ended, its effects `effects` and its re-entry `reentry` applied to a
HELD or ACTIVE point; a RETIRING point's slot is freed instead (R25, R34). -/
def finishPoint (i : SlotNo) (effects : Point → State → State) (reentry : Option Due → State → State)
    (s : State) : State :=
  match s.point? i with
  | none => s
  | some pt =>
    match pt.state with
    | .retiring requester => endRetirement requester i s
    | _ => reentry (pt.inFlight.bind (·.startDue)) (effects pt (endFlight i s))

/-- The due time of re-entry after a WRITE or VERIFY: the start due, or the present reading after a segment fault
(R89, TABLE 2-2). -/
def reenterDelivery (outcome : TxOutcome) (i : SlotNo) (start : Option Due) (s : State) : State :=
  match outcome.fault? with
  | some _ => reenter i s.dueNow s
  | none => reenter i (start.getD s.dueNow) s

/-- Re-entry after a POLL, REFRESH-POLL or GUARD (R38, R39, R42). -/
def reenterPoll (kind : ReadKind) (outcome : TxOutcome) (i : SlotNo) (start : Option Due) (s : State) : State :=
  match outcome.fault? with
  | some _ => reenter i s.dueNow s
  | none => reenterRead kind.flight start i s

/-- The point's part of a POLL, REFRESH-POLL or GUARD that has ended. -/
def finishPoll (kind : ReadKind) (i : SlotNo) (outcome : TxOutcome) (s : State) : State :=
  finishPoint i (fun pt => pollEffects kind i pt outcome) (reenterPoll kind outcome i) s

/-- The point's part of a VERIFY that has ended. -/
def finishVerify (i : SlotNo) (outcome : TxOutcome) (s : State) : State :=
  finishPoint i (fun pt => verifyEffects i pt outcome) (reenterDelivery outcome i) s

/-- The point's part of a WRITE that has ended. -/
def finishWrite (i : SlotNo) (outcome : TxOutcome) (s : State) : State :=
  finishPoint i (fun pt => writeEffects i pt outcome) (reenterDelivery outcome i) s

/-! ### A completion taken (R94, R98, R125, R142) -/

/-- An outcome counted against the node's entry (TABLE 5-3). -/
def nodeOutcome (g : SegId) (x : Address) (cause : Option SlotNo) (outcome : TxOutcome) (s : State) : State :=
  match outcome with
  | .done _ => nodeAccepted g x s
  | .noAccept => nodeAccepted g x s
  | .checkFail => nodeAccepted g x s
  | .noNode => nodeMissed g x cause s
  | _ => s

/-- What a directory probe's outcome does beyond TABLE 5-3 (R98). -/
def probeEffects (g : SegId) (x : Address) (outcome : TxOutcome) (s : State) : State :=
  match outcome with
  | .noNode => setProbe g x (after s.clock probeInterval) s
  | .contest => setProbe g x s.clock s
  | .timeout => setProbe g x s.clock s
  | .stuck => setProbe g x s.clock s
  | _ => s

/-- What a scan step's outcome does to the scan (R142). -/
def scanEffects (g : SegId) (x : Address) (outcome : TxOutcome) (s : State) : State :=
  match outcome with
  | .done _ => advanceScan g (recordFound g x s)
  | .noNode => advanceScan g s
  | _ => s

/-- The alert suppression after an EMPTY roll (R122). -/
def suppressionInterval : Interval := 10

/-- An alert-driven ACTIVE point that stands in the schedule, moved due by a roll its node has won (R125). -/
def moveAlertDriven (g : SegId) (s : State) (i : SlotNo) : State :=
  match s.point? i with
  | none => s
  | some pt => if pt.isActive && pt.alertDriven && (s.entryOf? g i).isSome then moveToNow g i s else s

/-- A WINNER roll taken (R125). -/
def rollWon (g : SegId) (x : Address) (s : State) : State :=
  match s.nodeEntry? g x with
  | none => offerNodeEvents (.node .strayAlert g x) s
  | some _ =>
    let s1 := nodeAccepted g x s
    (s1.slotsNaming g x).foldl (moveAlertDriven g) s1

/-- What a roll's outcome does: a segment fault reaches no record and sets no suppression (R122, R124, R125). -/
def rollEffects (g : SegId) (outcome : TxOutcome) (s : State) : State :=
  match outcome with
  | .winner x => rollWon g x s
  | .empty => s.modSegment g fun x => { x with suppression := some (after s.clock suppressionInterval) }
  | _ => s

/-- A transaction's outcome applied to the node first and to the point, the entry or the scan after (R34, R94). -/
def applyOutcome (g : SegId) (w : Work) (outcome : TxOutcome) (s : State) : State :=
  match w with
  | .read .verify i x _ _ => finishVerify i outcome (nodeOutcome g x (some i) outcome s)
  | .read kind i x _ _ => finishPoll kind i outcome (nodeOutcome g x (some i) outcome s)
  | .write i x _ _ _ => finishWrite i outcome (nodeOutcome g x (some i) outcome s)
  | .probe x => probeEffects g x outcome (nodeOutcome g x none outcome s)
  | .scanStep x => scanEffects g x outcome (nodeOutcome g x none outcome s)
  | .roll => rollEffects g outcome s

/-- A segment fault makes the segment RECOVERING (R137). -/
def faultRecovery (g : SegId) (outcome : TxOutcome) (s : State) : State :=
  match outcome.fault? with
  | some cause => beginRecovery g cause s
  | none => s

/-- A completion report taken: the transaction has ended, its outcome reaches its records (none after CLEAR), and a
segment fault begins a recovery (R29, R94, R120, R137). -/
def takeCompletion (g : SegId) (t : Transaction) (outcome : TxOutcome) (s : State) : State :=
  let s1 := endTransaction g s
  faultRecovery g outcome (if t.cleared then s1 else applyOutcome g t.work outcome s1)

/-- The transaction on the wires of a segment with what comes next, FC released at the present reading (R116). -/
def moveOn (g : SegId) (t : Transaction) (start : Time) (pos : LinkPos) (s : State) : State :=
  s.modSegment g fun x => { x with transaction := some { t with phase := .onWires start s.clock pos } }

/-- The transaction on the wires of a segment driven through the cycles in which the nodes leave FD at `levels`, from
`resume` of where it stands: it ends with its outcome, or stands further on (R106 to R115, R119, R120). -/
def driveOn (g : SegId) (resume : LinkPos → LinkPos) (levels : List Bool) (s : State) : State :=
  match (s.segment g).transaction with
  | none => s
  | some t =>
    match t.phase with
    | .lineCheck _ => s
    | .onWires start _ pos =>
      match t.work.afterCycles t.cleared (resume pos) levels with
      | .ended outcome => takeCompletion g t outcome s
      | .going next => if levels.isEmpty then s else moveOn g t start next s

/-- The transaction in flight abandoned: a segment fault for its point, its node's probe or its command, with no
recovery of its own; a cleared transaction and a roll reach no record (R42, R79, R98, R121). -/
def abandon (g : SegId) (s : State) : State :=
  match (s.segment g).transaction with
  | none => s
  | some t =>
    let s1 := endTransaction g s
    if t.cleared then s1 else applyOutcome g t.work .timeout s1

/-! ### The arbiter (R133 to R136) -/

/-- What the arbiter may choose (R134). -/
inductive Choice where
  | verify (i : SlotNo)
  | command (i : SlotNo)
  | roll
  | poll (i : SlotNo)
  | probe (x : Address)
  | scanStep (x : Address)
  deriving DecidableEq, Repr

/-- The fairness count at which a due poll goes ahead of a command (R134, R135). -/
def fairnessLimit : Nat := 4

/-- Choice 1: the points of the segment whose verification read has not started (R134). -/
def State.owedVerifies (s : State) (g : SegId) : List SlotNo :=
  allSlots.filter fun i => (s.point? i).any fun pt => pt.segment == g && pt.awaitsVerify

/-- Choice 2: the points in the command queue whose node is not LOST, in its order (R84, R134). -/
def State.eligibleCommands (s : State) (g : SegId) : List SlotNo :=
  (s.segment g).commandQueue.filter fun i => (s.point? i).any fun pt => !s.nodeLost pt.segment pt.address

/-- Choice 3: FA reads low and no alert suppression is in force (R122). -/
def Segment.wantsRoll (x : Segment) : Bool := !x.lines.fa && x.suppression.isNone

/-- Choice 4: the slots of the entries marked due, in schedule order (R36, R134). -/
def Segment.dueSlots (x : Segment) : List SlotNo := (x.schedule.filter (·.marked)).map (·.slot)

/-- A due probe put in its place: by its next probe time, behind those of the same time (R97). -/
def insertProbe (x : Address) (t : Time) : List (Address × Time) → List (Address × Time)
  | [] => [(x, t)]
  | y :: rest => if earlierThan t y.2 then (x, t) :: y :: rest else y :: insertProbe x t rest

/-- The due probe of an entry, if it is LOST and carries one, put among those before it (R97). -/
def addProbe (l : List (Address × Time)) (e : NodeEntry) : List (Address × Time) :=
  match e.probe with
  | some p => if p.due && e.presence == .lost then insertProbe e.address p.time l else l
  | none => l

/-- Choice 5: the due probes of the LOST nodes of the segment, the earliest next probe time first and the lowest address
first among equals; the directory stands in ascending address order (R97). -/
def State.dueProbes (s : State) (g : SegId) : List Address :=
  ((s.directory.filter (·.segment == g)).foldl addProbe []).map (·.1)

/-- Choice 6: the next probe of the segment's RUNNING scan (R142). -/
def ScanContext.nextStep (c : ScanContext) : Option Address :=
  match c.state with
  | .running _ next => some next
  | _ => none

/-- Choices 2 to 4 in their order: at the fairness limit the due polls go ahead of the commands (R134, R135). -/
def State.queuedWork (s : State) (g : SegId) : List Choice :=
  let x := s.segment g
  let commands := (s.eligibleCommands g).map Choice.command
  let polls := x.dueSlots.map Choice.poll
  let roll := if x.wantsRoll then [Choice.roll] else []
  if fairnessLimit ≤ x.fairness && !commands.isEmpty then polls ++ commands ++ roll else commands ++ roll ++ polls

/-- What the arbiter weighs, in the order of R134 with the fairness rule of R135. -/
def State.candidates (s : State) (g : SegId) : List Choice :=
  (s.owedVerifies g).map Choice.verify ++ s.queuedWork g ++ (s.dueProbes g).map Choice.probe
    ++ (s.segment g).scan.nextStep.toList.map Choice.scanStep

/-- The in flight field set at a grant: the point leaves the schedule, its due time kept as the start due (R19, R37). -/
def takeFlight (g : SegId) (i : SlotNo) (kind : FlightKind) (s : State) : State :=
  let start := (s.entryOf? g i).map (·.due)
  (leaveSchedule g i s).modPoint i fun pt => { pt with inFlight := some ⟨kind, start⟩ }

/-- Which read a scheduled point receives (R7, R52). -/
def Point.pollKind (pt : Point) : ReadKind :=
  if pt.isOutput then .guard else if pt.fresh.host || pt.fresh.console then .refreshPoll else .poll

/-- The point can be granted a start: ACTIVE with nothing in flight (R19). -/
def Point.startable (pt : Point) : Bool := pt.isActive && pt.inFlight.isNone

/-- The start claim for a verification read (R19, R77). -/
def claimVerify (g : SegId) (i : SlotNo) (s : State) : Option (Work × State) :=
  match s.point? i with
  | none => none
  | some pt =>
    if pt.startable && pt.awaitsVerify then
      some (.read .verify i pt.address pt.item pt.width, takeFlight g i .verify s)
    else none

/-- The start claim for a QUEUED command: it leaves the queue, WRITING, its deadline cancelled (R19, R75). -/
def claimCommand (g : SegId) (i : SlotNo) (s : State) : Option (Work × State) :=
  match s.point? i with
  | none => none
  | some pt =>
    match s.stand i with
    | .queued v _ =>
      if pt.startable && (s.segment g).commandQueue.contains i then
        some (.write i pt.address pt.item pt.width v.value,
          setStand i (.writing v none) (takeFlight g i .write (leaveQueue g i s)))
      else none
    | _ => none

/-- The start claim for a schedule entry (R19, R37). -/
def claimPoll (g : SegId) (i : SlotNo) (s : State) : Option (Work × State) :=
  match s.point? i with
  | none => none
  | some pt =>
    if pt.startable && (s.entryOf? g i).isSome then
      some (.read pt.pollKind i pt.address pt.item pt.width, takeFlight g i pt.pollKind.flight s)
    else none

/-- The start claim for a probe: the entry is LOST with its probe due; its next probe time becomes absent (R97). -/
def claimProbe (g : SegId) (x : Address) (s : State) : Option (Work × State) :=
  match s.nodeEntry? g x with
  | none => none
  | some e =>
    if e.presence == .lost && e.probe.any (·.due) then
      some (.probe x, s.modNode g x fun e => { e with probe := none })
    else none

/-- The start claim for a choice; the roll needs none, a scan step needs its scan RUNNING (R134, R136). -/
def claimStart (g : SegId) (c : Choice) (s : State) : Option (Work × State) :=
  match c with
  | .verify i => claimVerify g i s
  | .command i => claimCommand g i s
  | .roll => some (.roll, s)
  | .poll i => claimPoll g i s
  | .probe x => claimProbe g x s
  | .scanStep x => if (s.segment g).scan.nextStep == some x then some (.scanStep x, s) else none

/-- The fairness count after a grant (R135). -/
def fairnessAfter (w : Work) (n : Nat) : Nat :=
  match w with
  | .write _ _ _ _ _ => min fairnessLimit (n + 1)
  | .read .verify _ _ _ _ => n
  | .read _ _ _ _ _ => 0
  | .probe _ => n
  | .scanStep _ => n
  | .roll => n

/-- A START has been made at a reading (R107, R117). -/
def TxPhase.started (now : Time) : TxPhase := .onWires now now .first

/-- A granted transaction begins: with FC and FD high the START is made at once, otherwise the line check waits
(R118). -/
def beginTransaction (g : SegId) (w : Work) (s : State) : State :=
  s.modSegment g fun x =>
    { x with
      fairness := fairnessAfter w x.fairness
      transaction := some
        { work := w, cleared := false,
          phase := if x.lines.fc && x.lines.fd then .started s.clock else .lineCheck s.clock } }

/-- The engine is idle: its segment is UP and no transaction is in flight (R133). -/
def Segment.idle (x : Segment) : Bool := x.state == .up && x.transaction.isNone

/-- The first candidate whose claim is granted, with its work and the records after the claim: a refused claim leaves
everything as it is, and the engine chooses again at once, the candidate refused passed over (R136). -/
def State.granted (s : State) (g : SegId) : Option (Work × State) :=
  (s.candidates g).findSome? fun c => claimStart g c s

/-- An idle engine chooses its next transaction and starts it; with no candidate it starts nothing (R133, R134, R136). -/
def chooseWork (g : SegId) (s : State) : State :=
  if (s.segment g).idle then
    match s.granted g with
    | none => s
    | some (w, s1) => beginTransaction g w s1
  else s

end Sys2Proof.Machine
end

