-- ==== Sys2Proof/Machine/Operands.lean ====
section
/-! DEFINITION. Machine/Operands.lean: the fields of request bodies: how each is read (TABLE 11-2, TABLE 11-5), the range
tests of step 9 (R12, R63, R71, R128, R142, R144, R152, R176), the resolution of a handle (R2), and the two tests of a
point that step 8 and the replies use. -/

namespace Sys2Proof.Machine

/-- What the request unit answers: a status and a body (R166). -/
structure Reply where
  status : Status
  body : List Byte
  deriving DecidableEq, Repr

/-- A request carried out: the records after it, and the reply. -/
abbrev Carry := State × Reply

/-- A refusal: no record changes, the body is empty (0.7, R165, R166). -/
def refuse (x : Status) (s : State) : Carry := (s, ⟨x, []⟩)

/-- Answered OK with results. -/
def answer (body : List Byte) (s : State) : Carry := (s, ⟨.ok, body⟩)

/-- Answered ACCEPTED with results (R166). -/
def answerAccepted (body : List Byte) (s : State) : Carry := (s, ⟨.accepted, body⟩)

/-! ### Handles (R2) -/

/-- Steps 4 and 5: a FREE slot is BAD_HANDLE, another generation is STALE_HANDLE (R2). -/
def resolve (h : RawHandle) (s : State) : Except Status (SlotNo × Point) :=
  let i : SlotNo := h.slot.toFin
  match s.point? i with
  | none => .error .badHandle
  | some pt => if h.generation == (s.generation i).zeroExtend 8 then .ok (i, pt) else .error .staleHandle

/-- A request that carries one handle: refused by steps 4 and 5, or carried on with the point it names (R164). -/
def withPoint (h : RawHandle) (s : State) (k : SlotNo → Point → Carry) : Carry :=
  match resolve h s with
  | .error x => refuse x s
  | .ok (i, pt) => k i pt

/-- The owner is absent or equal to the requesting port (R167). -/
def Point.mayChange (pt : Point) (p : Port) : Bool :=
  match pt.owner with
  | none => true
  | some q => q == p

/-! ### Fields (TABLE 11-2) -/

/-- A segment byte. -/
def segmentOf (b : Byte) : Option SegId := if b == 0 then some .a else if b == 1 then some .b else none

/-- A node address byte, from 0x10 to 0x6F. -/
def addressOf (b : Byte) : Option Address := if nodeAddressInRange b.toNat then some (b.truncate 7) else none

/-- A width byte. -/
def widthOf (b : Byte) : Option Width :=
  if b == 1 then some .one else if b == 2 then some .two else if b == 4 then some .four else none

/-- A speed byte (TABLE 11-5, SEGMENT_CONTROL). -/
def speedOf (b : Byte) : Option Speed := if b == 0 then some .kbit100 else if b == 1 then some .kbit400 else none

/-- An action of a SET_LIMITS group or of a PORT_SET field (TABLE 11-2). -/
inductive Action where
  | keep
  | set
  | remove
  deriving DecidableEq, Repr

/-- An action byte. -/
def actionOf (b : Byte) : Option Action :=
  if b == 0 then some .keep else if b == 1 then some .set else if b == 2 then some .remove else none

/-- A subscription set a point of the kind can produce: INPUT VALUE, ALARM, QUALITY; OUTPUT QUALITY, COMMAND; bits 7 to
4 zero (R152, R188, TABLE 8-4). -/
def subSetOf (isOutput : Bool) (b : Byte) : Option SubSet :=
  if b &&& (if isOutput then 0xF3 else 0xF8) == 0 then some (SubSet.ofByte b) else none

/-- An optional interval field: 0 means absent (TABLE 11-2). -/
def optInterval (w : Interval) : Option Interval := if w == 0 then none else some w

/-- An interval lies in a range. -/
def between (low high : Nat) (w : Interval) : Bool := low ≤ w.toNat && w.toNat ≤ high

/-! ### DEFINE (R12) -/

/-- The fields of a DEFINE that pass R12. -/
structure Definition where
  isOutput : Bool
  segment : SegId
  address : Address
  item : Byte
  width : Width
  signed : Bool
  alertDriven : Bool
  restore : Bool
  claim : Bool
  subscriptions : SubSet
  period : Option Interval
  staleLimit : Option Interval
  deriving DecidableEq, Repr

/-- The period and stale limit relations of R12 for a kind. -/
def periodsFit (isOutput : Bool) (period staleLimit : Interval) : Bool :=
  if isOutput then (period == 0 || between 50 60000 period) && staleLimit == 0
  else between 5 60000 period && period.toNat < staleLimit.toNat

/-- Alert-driven and restore agree with the kind and the period (R12). -/
def optionsFit (isOutput guarded alertDriven restore : Bool) : Bool :=
  (!alertDriven || !isOutput || guarded) && (!restore || (isOutput && guarded))

/-- The subscription option: the set of offset 10 when bit 4 of the options is set; otherwise that byte is zero and the
set is empty (R12, R15, R188). -/
def subOption (isOutput : Bool) (options set : Byte) : Option SubSet :=
  if options.getLsbD 4 then subSetOf isOutput set else if set == 0 then some (SubSet.ofByte 0) else none

/-- The kind byte of DEFINE: whether the point is an OUTPUT. -/
def kindOf (b : Byte) : Option Bool := if b == 0 then some false else if b == 1 then some true else none

/-- The field conditions of R12; none means BAD_FIELD. -/
def checkDefine (f : DefineFields) : Option Definition :=
  match kindOf f.kind, segmentOf f.segment, addressOf f.address, widthOf f.width with
  | some isOutput, some g, some x, some w =>
    match subOption isOutput f.options f.subscriptions with
    | none => none
    | some subs =>
      if f.options &&& 0xE0 == 0 && periodsFit isOutput f.period f.staleLimit
          && optionsFit isOutput (f.period != 0) (f.options.getLsbD 1) (f.options.getLsbD 2) then
        some
          { isOutput := isOutput, segment := g, address := x, item := f.item, width := w
            signed := f.options.getLsbD 0, alertDriven := f.options.getLsbD 1, restore := f.options.getLsbD 2
            claim := f.options.getLsbD 3, subscriptions := subs
            period := optInterval f.period, staleLimit := optInterval f.staleLimit }
      else none
  | _, _, _, _ => none

/-! ### SET_LIMITS (R54, R63) -/

/-- A limits group satisfies R54 in the point's comparison. -/
def limitsFit (signed : Bool) (l : Limits) : Bool :=
  let low := asInt signed l.low
  let high := asInt signed l.high
  low < high && (l.hysteresis.toNat : Int) ≤ high - low

/-- A deadband lies from 1 to 2^31 − 1 (R60). -/
def deadbandFits (d : Value) : Bool := 1 ≤ d.toNat && d.toNat < 2 ^ 31

/-- The limits fields of a SET_LIMITS body. -/
def limitsOf (f : LimitsFields) : Limits := ⟨f.low, f.high, f.hysteresis⟩

/-- The field checks of SET_LIMITS: the two actions, or none for BAD_FIELD; fields of a group whose action is not SET
are not read (R63, TABLE 11-5). -/
def checkLimits (signed : Bool) (f : LimitsFields) : Option (Action × Action) :=
  match actionOf f.limitsAction, actionOf f.deadbandAction with
  | some la, some da =>
    if (la != .set || limitsFit signed (limitsOf f)) && (da != .set || deadbandFits f.deadband) then some (la, da) else none
  | _, _ => none

/-! ### WRITE (R71) -/

/-- The value fits the point and the deadline is absent or from 1 to 60,000 ms (R71). -/
def writeFits (pt : Point) (v : Value) (deadline : Interval) : Bool :=
  fits pt.width pt.signed v && (deadline == 0 || between 1 60000 deadline)

end Sys2Proof.Machine
end

