-- ==== Sys2Proof/Machine/PointRequests.lean ====
section
/-! DEFINITION. Machine/PointRequests.lean: the requests of Section 1 carried out: DEFINE, ACTIVATE, HOLD, RETIRE and
DESCRIBE. -/

namespace Sys2Proof.Machine

/-! ### DEFINE (R12 to R15) -/

/-- A non-FREE point names the same segment, node address and item index (R13). -/
def State.duplicate (s : State) (g : SegId) (x : Address) (item : Byte) : Bool :=
  allSlots.any fun i => (s.point? i).any fun pt => pt.names g x && pt.item == item

/-- The resources of DEFINE in the order of R13: the slot it takes, or the status that refuses it. -/
def defineResources (d : Definition) (s : State) : Except Status SlotNo :=
  match s.lowestFree with
  | none => .error .noSlot
  | some i =>
    if s.duplicate d.segment d.address d.item then .error .duplicate
    else
      match s.nodeEntry? d.segment d.address with
      | none => if directoryCapacity ≤ s.directory.length then .error .noNodeSlot else .ok i
      | some e => if nodePointLimit ≤ e.points then .error .nodeFull else .ok i

/-- No categories. -/
def SubSet.empty : SubSet := ⟨false, false, false, false⟩

/-- The command sub-record DEFINE gives an OUTPUT (R9). -/
def Command.new (restore : Bool) : Command :=
  { stand := .noCommand, attempts := 0, confirmedValue := none, restore := restore }

/-- The record DEFINE creates for port `p` (R6, R8, R9, R14, R15). -/
def Point.new (p : Port) (d : Definition) : Point :=
  { state := .held, segment := d.segment, address := d.address, item := d.item, width := d.width
    signed := d.signed, period := d.period, staleLimit := d.staleLimit, alertDriven := d.alertDriven
    limits := none, deadband := none, value := none, reported := none, quality := .empty, failures := 0
    alarm := .normal, late := false, inFlight := none, rhythmDue := none, staleDue := none
    owner := if d.claim then some p else none
    subscriptions := (PerPort.mk SubSet.empty SubSet.empty).set p d.subscriptions
    fresh := ⟨false, false⟩, marks := ⟨false, false⟩
    command := if d.isOutput then some (Command.new d.restore) else none }

/-- The point placed in its slot and counted by its node (R14). -/
def definePoint (p : Port) (d : Definition) (i : SlotNo) (s : State) : State :=
  addNodePoint d.segment d.address (s.setPoint i (Point.new p d))

/-- DEFINE carried out (R12 to R15). -/
def carryDefine (p : Port) (f : DefineFields) (s : State) : Carry :=
  match checkDefine f with
  | none => refuse .badField s
  | some d =>
    match defineResources d s with
    | .error x => refuse x s
    | .ok i => answer (s.handle i).bytes (definePoint p d i s)

/-! ### ACTIVATE (R16, R17) -/

/-- The point becomes ACTIVE, with the stale expiry an input that holds a value resumes (R16, R47). -/
def Point.activated (pt : Point) (now : Time) : Point :=
  { pt with
    state := .active
    staleDue := if pt.isOutput then pt.staleDue else pt.staleDueOnActivate now }

/-- A PENDING command becomes QUEUED at the tail of the queue (R16). -/
def queuePending (i : SlotNo) (pt : Point) (s : State) : State :=
  match s.stand i with
  | .pending v d => queueTail pt.segment i (setStand i (.queued v d) s)
  | _ => s

/-- ACTIVATE of a HELD point (R16). -/
def activatePoint (i : SlotNo) (pt : Point) (s : State) : State :=
  let s1 := s.setPoint i (pt.activated s.clock)
  queuePending i pt (reenter i s1.dueNow s1)

/-- ACTIVATE carried out (R16, R17). -/
def carryActivate (p : Port) (h : RawHandle) (s : State) : Carry :=
  withPoint h s fun i pt =>
    if pt.isRetiring then refuse .wrongState s
    else if !pt.mayChange p then refuse .notOwner s
    else if pt.isActive then answer [] s
    else answer [] (activatePoint i pt s)

/-! ### HOLD (R17, R18) -/

/-- The point becomes HELD: no stale expiry, no rhythm due (R18, R37, R47). -/
def Point.heldNow (pt : Point) : Point := { pt with state := .held, staleDue := none, rhythmDue := none }

/-- What HOLD does to the command: QUEUED goes back to PENDING, a verification that has not started is skipped (R18). -/
def holdCommand (i : SlotNo) (pt : Point) (s : State) : State :=
  match s.stand i with
  | .queued v d => setStand i (.pending v d) (leaveQueue pt.segment i s)
  | .verifying _ _ => if pt.awaitsVerify then notAnAttempt i s else s
  | _ => s

/-- HOLD of an ACTIVE point (R18). -/
def holdPoint (i : SlotNo) (pt : Point) (s : State) : State :=
  holdCommand i pt (leaveSchedule pt.segment i (s.setPoint i pt.heldNow))

/-- HOLD carried out (R17, R18). -/
def carryHold (p : Port) (h : RawHandle) (s : State) : Carry :=
  withPoint h s fun i pt =>
    if pt.isRetiring then refuse .wrongState s
    else if !pt.mayChange p then refuse .notOwner s
    else if pt.isActive then answer [] (holdPoint i pt s)
    else answer [] s

/-! ### RETIRE (R21, R22, R23) -/

/-- Immediate retirement (R22). -/
def retireNow (i : SlotNo) (s : State) : State := freeSlot i (withdrawNotes i s)

/-- The record of a point that goes RETIRING: no command, no fresh wanted flag, no stale expiry (R23, R47). -/
def Point.retiringNow (pt : Point) (p : Port) : Point :=
  { pt with
    state := .retiring p
    fresh := ⟨false, false⟩
    staleDue := none
    command := pt.command.map (·.withdrawn) }

/-- Deferred retirement (R23). -/
def retireLater (p : Port) (i : SlotNo) (pt : Point) (s : State) : State :=
  (leaveQueue pt.segment i (withdrawNotes i s)).modPoint i (·.retiringNow p)

/-- RETIRE carried out: the reply's one byte is the deferred indication (R21, TABLE 11-6). -/
def carryRetire (p : Port) (h : RawHandle) (s : State) : Carry :=
  withPoint h s fun i pt =>
    if pt.isRetiring then refuse .wrongState s
    else if !pt.mayChange p then refuse .notOwner s
    else if pt.inFlight.isNone then answer [0] (retireNow i s)
    else answer [1] (retireLater p i pt s)

/-! ### DESCRIBE (R26) -/

/-- The byte of offset 8 of a DESCRIBE response (TABLE 11-6). -/
def describeFlags (pt : Point) (nextDue : Option Time) : Byte :=
  flagBit pt.signed 0 ||| flagBit pt.alertDriven 1 ||| flagBit (pt.command.any (·.restore)) 2 ||| flagBit pt.late 3
    ||| flagBit pt.limits.isSome 4 ||| flagBit pt.deadband.isSome 5 ||| flagBit pt.owner.isSome 6
    ||| flagBit nextDue.isSome 7

/-- The retire requester byte; zero unless RETIRING (TABLE 11-6). -/
def requesterByte : PointState → Byte
  | .retiring p => portCode p
  | _ => 0

/-- The body of a DESCRIBE response (TABLE 11-6). -/
def describeBody (h : Handle) (pt : Point) (nextDue : Option Time) : List Byte :=
  h.bytes
    ++ [pt.state.code, flagByte pt.isOutput, segmentCode pt.segment, addressByte pt.address, pt.item, pt.width.byte,
        describeFlags pt nextDue]
    ++ optBytes16 pt.period ++ optBytes16 pt.staleLimit
    ++ optBytes32 (pt.limits.map (·.low)) ++ optBytes32 (pt.limits.map (·.high))
    ++ optBytes32 (pt.limits.map (·.hysteresis)) ++ optBytes32 pt.deadband
    ++ [pt.owner.elim 0 portCode, pt.subscriptions.host.byte, pt.subscriptions.console.byte, flightCode pt.inFlight]
    ++ optBytes32 nextDue ++ [requesterByte pt.state]

/-- DESCRIBE carried out: it changes no record (R26). -/
def carryDescribe (h : RawHandle) (s : State) : Carry :=
  withPoint h s fun i pt => answer (describeBody (s.handle i) pt (s.nextDue i)) s

end Sys2Proof.Machine
end

