-- ==== Sys2Proof/Machine/ValueRequests.lean ====
section
/-! DEFINITION. Machine/ValueRequests.lean: the requests of Sections 2, 3 and 4 carried out: READ, READ_MANY, REFRESH,
SET_LIMITS, WRITE and CANCEL. -/

namespace Sys2Proof.Machine

/-! ### READ and READ_MANY (R50, R51) -/

/-- The desired value of a command (TABLE 4-1). -/
def Stand.desired : Stand → Option Value
  | .noCommand => none
  | .pending v _ => some v.value
  | .queued v _ => some v.value
  | .writing v _ => some v.value
  | .verifying v _ => some v.value
  | .confirmed v => some v.value
  | .failed v _ => some v.value

/-- The desired value of a point, absent for an INPUT. -/
def Point.desired (pt : Point) : Option Value := pt.command.bind (·.stand.desired)

/-- The confirmed value of a point, absent for an INPUT. -/
def Point.confirmedValue (pt : Point) : Option Value := pt.command.bind (·.confirmedValue)

/-- The command state byte, zero for an INPUT. -/
def Point.commandByte (pt : Point) : Byte := pt.command.elim 0 (·.stand.code.code)

/-- The age of the point's value as two bytes, zero when it holds none (R48, TABLE 11-6). -/
def Point.ageBytes (pt : Point) (now : Time) : List Byte :=
  match pt.value with
  | none => [0, 0]
  | some v => bytes16OfNat (v.age now)

/-- The presence byte of a READ response (TABLE 11-6). -/
def readPresence (pt : Point) : Byte :=
  flagBit pt.value.isSome 0 ||| flagBit pt.desired.isSome 1 ||| flagBit pt.confirmedValue.isSome 2
    ||| flagBit pt.isOutput 3

/-- The body of a READ response (R50, TABLE 11-6). -/
def readBody (h : Handle) (pt : Point) (now : Time) : List Byte :=
  h.bytes ++ [readPresence pt] ++ optBytes32 (pt.value.map (·.value)) ++ pt.ageBytes now
    ++ [(pt.reportedQuality now).code, pt.alarm.code, flagByte pt.late, byteOfNat pt.failures, pt.commandByte]
    ++ optBytes32 pt.desired ++ optBytes32 pt.confirmedValue

/-- READ carried out: it changes no record (R50). -/
def carryRead (h : RawHandle) (s : State) : Carry :=
  withPoint h s fun i pt => answer (readBody (s.handle i) pt s.clock) s

/-- The standing byte of a READ_MANY result (TABLE 11-6). -/
def standingByte (pt : Point) (now : Time) : Byte :=
  (pt.reportedQuality now).code ||| (pt.alarm.code <<< 2) ||| flagBit pt.late 4 ||| flagBit pt.value.isSome 5

/-- One 6-byte result of READ_MANY (R51, R188). -/
def readManyResult (s : State) (h : RawHandle) : List Byte :=
  match resolve h s with
  | .error x => [x.code, 0, 0, 0, 0, 0]
  | .ok (_, pt) => [Status.code .ok, standingByte pt s.clock] ++ optBytes32 (pt.value.map (·.value))

/-- READ_MANY carried out; a body that does not hold the handles it declares is BAD_LENGTH (R51, R163). -/
def carryReadMany (count : Byte) (handles : List RawHandle) (s : State) : Carry :=
  if count.toNat ≠ handles.length then refuse .badLength s
  else if count.toNat = 0 ∨ 16 < count.toNat then refuse .badField s
  else answer (handles.flatMap (readManyResult s)) s

/-! ### REFRESH (R52, R53) -/

/-- REFRESH of an input that stands in the schedule (R52). -/
def refreshEntry (i : SlotNo) (pt : Point) (e : SchedEntry) (s : State) : State :=
  match pt.rhythmDue with
  | none => moveToNow pt.segment i (s.modPoint i fun x => { x with rhythmDue := some e.due })
  | some _ => if e.marked || e.due.reachedAt s.clock then s else moveToNow pt.segment i s

/-- REFRESH of an ACTIVE input: the requesting port's flag is set, then the schedule is acted on; out of the schedule
with nothing in flight its node is LOST and the flag is answered at once (R52, R53). -/
def refreshPoint (p : Port) (i : SlotNo) (pt : Point) (s : State) : State :=
  let s1 := s.modPoint i (·.setFresh p true)
  if pt.inFlight.isSome then s1
  else
    match s1.entryOf? pt.segment i with
    | some e => refreshEntry i pt e s1
    | none => answerFresh p .noNode i s1

/-- REFRESH carried out (R52). -/
def carryRefresh (p : Port) (h : RawHandle) (s : State) : Carry :=
  withPoint h s fun i pt =>
    if pt.isOutput then refuse .wrongKind s
    else if !pt.isActive then refuse .wrongState s
    else answerAccepted [] (refreshPoint p i pt s)

/-! ### SET_LIMITS (R63, R64, R65) -/

/-- The limits group applied: the limits, and the alarm restarted with ALARM HOST_RESET if it was LOW or HIGH (R64). -/
def applyLimits (i : SlotNo) (a : Action) (l : Limits) (s : State) : State :=
  match a, s.point? i with
  | .keep, _ => s
  | _, none => s
  | _, some pt =>
    let s1 := s.setPoint i { pt with limits := if a == .set then some l else none, alarm := .normal }
    if pt.alarm == .normal then s1
    else
      offerSubscribers (·.alarm) i
        (.alarm (s.handle i) ((pt.value.map (·.value)).getD 0) pt.alarm .normal .hostReset) s1

/-- The deadband group applied: the deadband, and the reported value discarded (R65). -/
def applyDeadband (i : SlotNo) (a : Action) (d : Value) (s : State) : State :=
  match a with
  | .keep => s
  | .set => s.modPoint i fun pt => { pt with deadband := some d, reported := none }
  | .remove => s.modPoint i fun pt => { pt with deadband := none, reported := none }

/-- SET_LIMITS carried out (R63 to R65). -/
def carrySetLimits (p : Port) (h : RawHandle) (f : LimitsFields) (s : State) : Carry :=
  withPoint h s fun i pt =>
    if pt.isOutput then refuse .wrongKind s
    else if pt.isRetiring then refuse .wrongState s
    else if !pt.mayChange p then refuse .notOwner s
    else
      match checkLimits pt.signed f with
      | none => refuse .badField s
      | some (la, da) => answer [] (applyDeadband i da f.deadband (applyLimits i la (limitsOf f) s))

/-! ### WRITE (R71, R72, R73) -/

/-- The deadline of a WRITE taken now: its due time, or none (R71). -/
def deadlineAt (deadline : Interval) (now : Time) : Option Time :=
  if deadline == 0 then none else some (after now deadline)

/-- A value written to an idle command: PENDING on a HELD point, QUEUED at the tail on an ACTIVE one; the reply's one
byte is the disposition (R72, TABLE 11-6). -/
def writeFresh (i : SlotNo) (pt : Point) (v : Issued) (d : Option Time) (s : State) : Carry :=
  let s1 := modCommand i (fun c => { c with attempts := 0 }) s
  if pt.isActive then answer [1] (queueTail pt.segment i (setStand i (.queued v d) s1))
  else answer [0] (setStand i (.pending v d) s1)

/-- The next value a replaced one closes as SUPERSEDED (R73). -/
def supersedeNext (i : SlotNo) (next : Option NextValue) (s : State) : State :=
  match next with
  | none => s
  | some nv => closeCommand i nv.issued .superseded s

/-- An accepted WRITE of `v` (TABLE 4-3, R73). -/
def writePoint (i : SlotNo) (pt : Point) (v : Issued) (d : Option Time) (s : State) : Carry :=
  match s.stand i with
  | .pending old _ =>
    answer [0] (setStand i (.pending v d)
      (modCommand i (fun c => { c with attempts := 0 }) (closeCommand i old .superseded s)))
  | .queued old _ =>
    answer [1] (setStand i (.queued v d)
      (modCommand i (fun c => { c with attempts := 0 }) (closeCommand i old .superseded s)))
  | .writing w next => answer [2] (setStand i (.writing w (some ⟨v, d, false⟩)) (supersedeNext i next s))
  | .verifying w next => answer [2] (setStand i (.verifying w (some ⟨v, d, false⟩)) (supersedeNext i next s))
  | .noCommand => writeFresh i pt v d s
  | .confirmed _ => writeFresh i pt v d s
  | .failed _ _ => writeFresh i pt v d s

/-- WRITE carried out (R71 to R73). -/
def carryWrite (p : Port) (h : RawHandle) (v : Value) (deadline : Interval) (s : State) : Carry :=
  withPoint h s fun i pt =>
    if !pt.isOutput then refuse .wrongKind s
    else if pt.isRetiring then refuse .wrongState s
    else if !pt.mayChange p then refuse .notOwner s
    else if !writeFits pt v deadline then refuse .badField s
    else writePoint i pt ⟨v, p⟩ (deadlineAt deadline s.clock) s

/-! ### CANCEL (R83) -/

/-- CANCEL by the command state (TABLE 4-5). -/
def cancelPoint (i : SlotNo) (pt : Point) (s : State) : Carry :=
  match s.stand i with
  | .pending v _ => answer [] (modCommand i (·.withdrawn) (closeCommand i v .withdrawn s))
  | .queued v _ =>
    answer [] (modCommand i (·.withdrawn) (leaveQueue pt.segment i (closeCommand i v .withdrawn s)))
  | .writing v (some nv) => answer [] (setStand i (.writing v none) (closeCommand i nv.issued .withdrawn s))
  | .verifying v (some nv) => answer [] (setStand i (.verifying v none) (closeCommand i nv.issued .withdrawn s))
  | _ => refuse .wrongState s

/-- CANCEL carried out (R83). -/
def carryCancel (p : Port) (h : RawHandle) (s : State) : Carry :=
  withPoint h s fun i pt =>
    if !pt.isOutput then refuse .wrongKind s
    else if pt.isRetiring then refuse .wrongState s
    else if !pt.mayChange p then refuse .notOwner s
    else cancelPoint i pt s

end Sys2Proof.Machine
end

