-- ==== Sys2Proof/Machine/NodeRequests.lean ====
section
/-! DEFINITION. Machine/NodeRequests.lean: the requests of Section 5 carried out: NODE_QUERY and NODE_LIST. -/

namespace Sys2Proof.Machine

/-! ### NODE_QUERY (R102) -/

/-- The next probe time of an entry (TABLE 5-1). -/
def NodeEntry.probeTime (e : NodeEntry) : Option Time := e.probe.map (·.time)

/-- The body of a NODE_QUERY response for a key whose entry is `e` (TABLE 11-6). -/
def nodeQueryBody (s : State) (e : NodeEntry) : List Byte :=
  [flagBit true 0 ||| flagBit e.probeTime.isSome 1, e.presence.code, byteOfNat e.points, byteOfNat e.misses]
    ++ optBytes32 e.probeTime ++ (s.slotsNaming e.segment e.address).flatMap fun i => (s.handle i).bytes

/-- NODE_QUERY carried out: it changes no record (R102). -/
def carryNodeQuery (segment address : Byte) (s : State) : Carry :=
  match segmentOf segment, addressOf address with
  | some g, some x =>
    match s.nodeEntry? g x with
    | none => answer [0] s
    | some e => answer (nodeQueryBody s e) s
  | _, _ => refuse .badField s

/-! ### NODE_LIST (R103) -/

/-- At most 16 entries are listed (R103). -/
def nodeListLimit : Nat := 16

/-- The entries of a segment whose address is equal to or greater than `start`; the directory stands in ascending
address order (R103). -/
def State.nodesFrom (s : State) (g : SegId) (start : Address) : List NodeEntry :=
  s.directory.filter fun e => e.segment == g && start.toNat ≤ e.address.toNat

/-- The four bytes of one listed entry (TABLE 11-6). -/
def nodeListEntry (e : NodeEntry) : List Byte :=
  [addressByte e.address, e.presence.code, byteOfNat e.points, byteOfNat e.misses]

/-- The body of a NODE_LIST response for the entries from the starting address on (TABLE 11-6). -/
def nodeListBody (entries : List NodeEntry) : List Byte :=
  let next := (entries.drop nodeListLimit).head?
  [flagBit next.isSome 0, next.elim 0 fun e => addressByte e.address]
    ++ (entries.take nodeListLimit).flatMap nodeListEntry

/-- NODE_LIST carried out: it changes no record (R103). -/
def carryNodeList (segment start : Byte) (s : State) : Carry :=
  match segmentOf segment, addressOf start with
  | some g, some x => answer (nodeListBody (s.nodesFrom g x)) s
  | _, _ => refuse .badField s

end Sys2Proof.Machine
end

