-- ==== Sys2Proof/Machine/SegmentRequests.lean ====
section
/-! DEFINITION. Machine/SegmentRequests.lean: the requests of Section 7 carried out: SEGMENT_CONTROL with its four
actions (TABLE 7-2), SCAN and SCAN_RESULT. -/

namespace Sys2Proof.Machine

/-! ### SEGMENT_CONTROL (R128 to R132) -/

/-- The results of SEGMENT_CONTROL: the segment's state and speed (TABLE 11-6). -/
def segmentBody (g : SegId) (s : State) : List Byte := [(s.segment g).state.code, (s.segment g).speed.code]

/-- ENABLE of an OFF segment: the lines, as they read when the request is taken, are checked once (R129). -/
def enableSegment (g : SegId) (s : State) : State :=
  if (s.segment g).lines.fc && (s.segment g).lines.fd then
    s.modSegment g fun x => { x with state := .up, fairness := 0 }
  else beginRecovery g .enable s

/-- ENABLE by the segment state (TABLE 7-2). -/
def carryEnable (g : SegId) (s : State) : Carry :=
  match (s.segment g).state with
  | .off => answer (segmentBody g (enableSegment g s)) (enableSegment g s)
  | .up => answer (segmentBody g s) s
  | .recovering => answer (segmentBody g s) s
  | .down => answer (segmentBody g s) s

/-- The segment OFF: recovery, suppression and fairness ended (R130). -/
def Segment.switchOff (x : Segment) : Segment :=
  { x with state := .off, attempts := 0, cause := none, retryTime := none, suppression := none, fairness := 0 }

/-- DISABLE of a segment that is not OFF: the transaction in flight abandoned, the segment OFF, a RUNNING scan aborted
(R130, R143). -/
def disableSegment (g : SegId) (s : State) : State := abortScan g ((abandon g s).modSegment g Segment.switchOff)

/-- DISABLE by the segment state (TABLE 7-2). -/
def carryDisable (g : SegId) (s : State) : Carry :=
  match (s.segment g).state with
  | .off => answer (segmentBody g s) s
  | .up => answer (segmentBody g (disableSegment g s)) (disableSegment g s)
  | .recovering => answer (segmentBody g (disableSegment g s)) (disableSegment g s)
  | .down => answer (segmentBody g (disableSegment g s)) (disableSegment g s)

/-- RESTART of an UP or DOWN segment: a transaction in flight abandoned, then RECOVERING with cause RESTART (R132). -/
def restartSegment (g : SegId) (s : State) : State := beginRecovery g .restart (abandon g s)

/-- RESTART by the segment state (TABLE 7-2). -/
def carryRestart (g : SegId) (s : State) : Carry :=
  match (s.segment g).state with
  | .off => refuse .segmentOff s
  | .up => answerAccepted (segmentBody g (restartSegment g s)) (restartSegment g s)
  | .recovering => refuse .busy s
  | .down => answerAccepted (segmentBody g (restartSegment g s)) (restartSegment g s)

/-- The speed of a segment set (R131). -/
def setSegmentSpeed (g : SegId) (v : Speed) (s : State) : State := s.modSegment g fun x => { x with speed := v }

/-- SET_SPEED by the segment state (TABLE 7-2). -/
def carrySetSpeed (g : SegId) (v : Speed) (s : State) : Carry :=
  match (s.segment g).state with
  | .off => answer (segmentBody g (setSegmentSpeed g v s)) (setSegmentSpeed g v s)
  | .up => refuse .wrongState s
  | .recovering => refuse .wrongState s
  | .down => refuse .wrongState s

/-- The four actions of SEGMENT_CONTROL. -/
inductive SegmentAction where
  | enable
  | disable
  | restart
  | setSpeed
  deriving DecidableEq, Repr

/-- The action byte (TABLE 11-5). -/
def segmentActionOf (b : Byte) : Option SegmentAction :=
  if b == 0 then some .enable else if b == 1 then some .disable else if b == 2 then some .restart
  else if b == 3 then some .setSpeed else none

/-- SEGMENT_CONTROL carried out: the field checks, then the action against the segment state (R128). -/
def carrySegmentControl (segment action speed : Byte) (s : State) : Carry :=
  match segmentOf segment, segmentActionOf action with
  | some g, some .enable => carryEnable g s
  | some g, some .disable => carryDisable g s
  | some g, some .restart => carryRestart g s
  | some g, some .setSpeed =>
    match speedOf speed with
    | some v => carrySetSpeed g v s
    | none => refuse .badField s
  | _, _ => refuse .badField s

/-! ### SCAN (R142) -/

/-- The scan state is RUNNING (TABLE 7-3). -/
def ScanContext.running (c : ScanContext) : Bool := c.nextStep.isSome

/-- The scan context replaced by a RUNNING scan of a range (R142). -/
def startScan (p : Port) (g : SegId) (low high : Address) (s : State) : State :=
  s.modSegment g fun x => { x with scan := { state := .running ⟨p, low, high⟩ low, found := [] } }

/-- SCAN after its field checks: the segment state, then a RUNNING scan (R142). -/
def carryScanRange (p : Port) (g : SegId) (low high : Address) (s : State) : Carry :=
  if (s.segment g).state == .off || (s.segment g).state == .down then refuse .segmentOff s
  else if (s.segment g).scan.running then refuse .busy s
  else answerAccepted [] (startScan p g low high s)

/-- SCAN carried out (R142). -/
def carryScan (p : Port) (segment low high : Byte) (s : State) : Carry :=
  match segmentOf segment, addressOf low, addressOf high with
  | some g, some lo, some hi => if hi.toNat < lo.toNat then refuse .badField s else carryScanRange p g lo hi s
  | _, _, _ => refuse .badField s

/-! ### SCAN_RESULT (R144) -/

/-- The requester, the low and the high address of a scan, zero while IDLE (TABLE 11-6). -/
def scanRangeBytes : ScanState → List Byte
  | .idle => [0, 0, 0]
  | .running r _ => [portCode r.requester, addressByte r.low, addressByte r.high]
  | .done r => [portCode r.requester, addressByte r.low, addressByte r.high]
  | .aborted r => [portCode r.requester, addressByte r.low, addressByte r.high]

/-- The body of a SCAN_RESULT response (TABLE 11-6). -/
def scanResultBody (c : ScanContext) (index : Nat) : List Byte :=
  [c.state.code] ++ scanRangeBytes c.state ++ [c.nextStep.elim 0 addressByte, byteOfNat c.found.length]
    ++ ((c.found.drop index).take 64).map addressByte

/-- SCAN_RESULT carried out: it changes no record (R144). -/
def carryScanResult (segment index : Byte) (s : State) : Carry :=
  match segmentOf segment with
  | none => refuse .badField s
  | some g => if 95 < index.toNat then refuse .badField s else answer (scanResultBody (s.segment g).scan index.toNat) s

end Sys2Proof.Machine
end

