-- ==== Sys2Proof/Machine/PortRequests.lean ====
section
/-! DEFINITION. Machine/PortRequests.lean: the requests of Sections 8 and 9 carried out: SUBSCRIBE, FETCH, ACK, PORT_SET,
CLAIM, RELEASE, STATUS, TIME and CLEAR. -/

namespace Sys2Proof.Machine

/-! ### SUBSCRIBE (R152) -/

/-- SUBSCRIBE carried out (R152). -/
def carrySubscribe (p : Port) (h : RawHandle) (set : Byte) (s : State) : Carry :=
  withPoint h s fun i pt =>
    if pt.isRetiring then refuse .wrongState s
    else
      match subSetOf pt.isOutput set with
      | none => refuse .badField s
      | some x => answer [x.byte] (s.setPoint i { pt with subscriptions := pt.subscriptions.set p x })

/-! ### FETCH (R153, R190) -/

/-- The entries a FETCH returns: the oldest, up to a count, while the next record fits the room left (R190). -/
def fetchable : Nat → Nat → List Entry → List Entry
  | 0, _, _ => []
  | _ + 1, _, [] => []
  | n + 1, room, e :: rest =>
    if e.record.length ≤ room then e :: fetchable n (room - e.record.length) rest else []

/-- The room for records in a body of 96 bytes after its header of 4 (R190). -/
def fetchRoom : Nat := 92

/-- The two bytes of the first record's sequence number, zero when none is returned (R190). -/
def firstSeqBytes : List Entry → List Byte
  | [] => [0, 0]
  | e :: _ => bytes16 e.seq

/-- The body of a FETCH response (R190). -/
def fetchBody (count : Nat) (queue : List Entry) (mark : Bool) : List Byte :=
  let l := fetchable count fetchRoom queue
  firstSeqBytes l ++ [byteOfNat queue.length ||| flagBit mark 7, byteOfNat l.length] ++ l.flatMap Entry.record

/-- FETCH carried out: it removes nothing, so each one starts at the oldest entry of the queue (R153). R190 says beside it
that the next FETCH, or one after an ACK, returns the entry that did not fit: the model takes that of the FETCH that
follows an ACK, and lets no FETCH skip entries already returned (log entry 27). -/
def carryFetch (p : Port) (count : Byte) (s : State) : Carry :=
  if 1 ≤ count.toNat && count.toNat ≤ 8 then
    answer (fetchBody count.toNat (s.notifyOf p).queue (s.anyMark p)) s
  else refuse .badField s

/-! ### ACK (R154, R155) -/

/-- What is left of a queue behind the entry that carries a number; none when no entry carries it (R154). -/
def afterSeq (seq : SeqNo) : List Entry → Option (List Entry)
  | [] => none
  | e :: rest => if e.seq == seq then some rest else afterSeq seq rest

/-- The queue of port `p` cut to what is left, then its marks drained (R154, R155). -/
def acknowledge (p : Port) (rest : List Entry) (s : State) : State :=
  drain p (s.setNotify p { s.notifyOf p with queue := rest })

/-- ACK carried out: the reply gives the entries removed and remaining (R154, R155). -/
def carryAck (p : Port) (seq : SeqNo) (s : State) : Carry :=
  let q := (s.notifyOf p).queue
  match afterSeq seq q with
  | none => refuse .badField s
  | some rest =>
    let s1 := acknowledge p rest s
    answer [byteOfNat (q.length - rest.length), byteOfNat (s1.notifyOf p).queue.length] s1

/-! ### PORT_SET (R158, R176) -/

/-- The notifications enable changed; a value it already has changes nothing (R158). -/
def setNotifications (p : Port) (a : Action) (s : State) : State :=
  match a with
  | .keep => s
  | .set => s.setNotify p { s.notifyOf p with enabled := true }
  | .remove => if (s.notifyOf p).enabled then notificationsOff p s else s

/-- The node-events enable changed (R158). -/
def setNodeEvents (p : Port) (a : Action) (s : State) : State :=
  match a with
  | .keep => s
  | .set => s.setNotify p { s.notifyOf p with nodeEvents := true }
  | .remove => s.setNotify p { s.notifyOf p with nodeEvents := false }

/-- The results of PORT_SET (TABLE 11-6). -/
def portSetBody (p : Port) (s : State) : List Byte :=
  [flagByte (s.notifyOf p).enabled, flagByte (s.notifyOf p).nodeEvents, byteOfNat (s.notifyOf p).queue.length]

/-- PORT_SET carried out (R176). -/
def carryPortSet (p : Port) (notifications nodeEvents : Byte) (s : State) : Carry :=
  match actionOf notifications, actionOf nodeEvents with
  | some a, some b =>
    let s1 := setNodeEvents p b (setNotifications p a s)
    answer (portSetBody p s1) s1
  | _, _ => refuse .badField s

/-! ### CLAIM and RELEASE (R168, R169, R170) -/

/-- HOST takes the point from CONSOLE, with CLAIM_LOST to CONSOLE (R169). -/
def takePoint (i : SlotNo) (pt : Point) (s : State) : State :=
  offerPoint .console i (.claimLost (s.handle i) .host) (s.setPoint i { pt with owner := some .host })

/-- The owner set or kept for the requester (TABLE 9-4). -/
def claimPoint (p : Port) (i : SlotNo) (pt : Point) (s : State) : Carry :=
  answer [portCode p] (s.setPoint i { pt with owner := some p })

/-- CLAIM of a HELD or ACTIVE point (TABLE 9-4): a take value that is neither yes nor no passes step 8 as no and is
refused at step 9 (R168). -/
def carryClaimPoint (p : Port) (i : SlotNo) (pt : Point) (take : Byte) (s : State) : Carry :=
  if take == 1 then
    match p with
    | .console => refuse .hostOnly s
    | .host => if pt.owner == some .console then answer [portCode .host] (takePoint i pt s) else claimPoint .host i pt s
  else if !pt.mayChange p then refuse .heldByOther s
  else if take == 0 then claimPoint p i pt s
  else refuse .badField s

/-- CLAIM carried out (R168, R169). -/
def carryClaim (p : Port) (h : RawHandle) (take : Byte) (s : State) : Carry :=
  withPoint h s fun i pt => if pt.isRetiring then refuse .wrongState s else carryClaimPoint p i pt take s

/-- RELEASE carried out (R170). -/
def carryRelease (p : Port) (h : RawHandle) (s : State) : Carry :=
  withPoint h s fun i pt =>
    if pt.isRetiring then refuse .wrongState s
    else if pt.owner == some p then answer [] (s.setPoint i { pt with owner := none })
    else refuse .notOwner s

/-! ### STATUS and TIME (R172, R173) -/

/-- The five bytes of a segment in a STATUS response (TABLE 11-6). -/
def statusSegment (x : Segment) : List Byte :=
  [x.state.code, x.speed.code, x.cause.elim 0 RecoveryCause.code, byteOfNat x.attempts, x.scan.state.code]

/-- The two bytes of a port in a STATUS response (TABLE 11-6). -/
def statusPort (s : State) (p : Port) : List Byte :=
  let q := s.notifyOf p
  [byteOfNat q.queue.length,
   flagBit q.systemMark 0 ||| flagBit (s.anyPointMark p) 1 ||| flagBit q.enabled 2 ||| flagBit q.nodeEvents 3]

/-- The body of a STATUS response (TABLE 11-6). -/
def statusBody (s : State) : List Byte :=
  bytes32 s.clock ++ bytes16OfNat s.occupancy ++ bytes16OfNat (s.countPoints (·.state == .held))
    ++ bytes16OfNat (s.countPoints Point.isActive) ++ bytes16OfNat (s.countPoints Point.isRetiring)
    ++ [byteOfNat s.directory.length, byteOfNat s.lostCount]
    ++ statusSegment (s.segment .a) ++ statusSegment (s.segment .b) ++ statusPort s .host ++ statusPort s .console

/-- STATUS carried out: it changes no record (R172). -/
def carryStatus (s : State) : Carry := answer (statusBody s) s

/-- TIME carried out: it changes no record (R173). -/
def carryTime (s : State) : Carry := answer (bytes32 s.clock) s

/-! ### CLEAR (R28, R29, R174) -/

/-- A slot cleared: a non-FREE slot becomes FREE with its generation advanced (R3, R28). -/
def Slot.cleared (x : Slot) : Slot :=
  match x.point with
  | none => x
  | some _ => { generation := x.generation + 1, point := none }

/-- The transaction in flight told to end: a line check is ended at once, a transaction on the wires names no record any
more and runs to its byte boundary (R29, R120). -/
def Transaction.clearedNow (t : Transaction) : Option Transaction :=
  match t.phase with
  | .lineCheck _ => none
  | .onWires _ _ _ => some { t with cleared := true }

/-- A segment cleared: its collections and its scan emptied, its transaction told to end; all else is kept (R145, R174). -/
def Segment.clearedNow (x : Segment) : Segment :=
  { x with
    schedule := [], commandQueue := [], scan := .idle
    transaction := x.transaction.bind Transaction.clearedNow }

/-- The records emptied by CLEAR (R174). -/
def clearRecords (s : State) : State :=
  { s with
    slots := s.slots.map Slot.cleared
    directory := []
    segments := ⟨s.segments.a.clearedNow, s.segments.b.clearedNow⟩
    notify := ⟨s.notify.host.cleared, s.notify.console.cleared⟩ }

/-- CLEAR carried out: HOST only (R174). -/
def carryClear (p : Port) (s : State) : Carry :=
  match p with
  | .console => refuse .hostOnly s
  | .host => answer [] (clearRecords s)

end Sys2Proof.Machine
end

