-- ==== Sys2Proof/Machine/RequestUnit.lean ====
section
/-! DEFINITION. Machine/RequestUnit.lean: the request unit of Section 9 between the two ports: a request judged and
carried out (R163 to R165), its response placed (R162, R178), the choice between the ports (R161), and the drop rule
of a port (R177). -/

namespace Sys2Proof.Machine

/-! ### A request carried out (R164, R165) -/

/-- A request of a known kind and the right length, carried out for the requesting port `p` (TABLE 9-3). -/
def carryOut (p : Port) (r : Request) (s : State) : Carry :=
  match r with
  | .define f => carryDefine p f s
  | .activate h => carryActivate p h s
  | .hold h => carryHold p h s
  | .retire h => carryRetire p h s
  | .describe h => carryDescribe h s
  | .read h => carryRead h s
  | .readMany count handles => carryReadMany count handles s
  | .refresh h => carryRefresh p h s
  | .setLimits h f => carrySetLimits p h f s
  | .write h v d => carryWrite p h v d s
  | .cancel h => carryCancel p h s
  | .nodeQuery segment address => carryNodeQuery segment address s
  | .nodeList segment start => carryNodeList segment start s
  | .segmentControl segment action speed => carrySegmentControl segment action speed s
  | .scan segment low high => carryScan p segment low high s
  | .scanResult segment index => carryScanResult segment index s
  | .subscribe h set => carrySubscribe p h set s
  | .fetch count => carryFetch p count s
  | .ack seq => carryAck p seq s
  | .claim h take => carryClaim p h take s
  | .release h => carryRelease p h s
  | .status => carryStatus s
  | .time => carryTime s
  | .clear => carryClear p s
  | .portSet n e => carryPortSet p n e s

/-- The validation order from the frame on: FRAME_ERROR, UNKNOWN_KIND, BAD_LENGTH, then the request (R163). -/
def judge (p : Port) (f : RequestFrame) (s : State) : Carry :=
  if f.crcOk then
    match decodeRequest f.kind f.body with
    | .unknownKind => refuse .unknownKind s
    | .badLength => refuse .badLength s
    | .request r => carryOut p r s
  else refuse .frameError s

/-! ### The response (R162, R166, R178) -/

/-- The response placed in the port's response slot, with DROPPED and QUEUE as the port stands now; the dropped flag is
cleared (R178). -/
def placeResponse (p : Port) (tag : Byte) (c : Carry) : State :=
  let s := c.1
  let x := s.portOf p
  s.setPort p
    { x with
      dropped := false
      response := some
        { tag := tag, status := c.2.status, droppedFlag := x.dropped
          queueFlag := !(s.notifyOf p).queue.isEmpty, body := c.2.body } }

/-- The port becomes the last-served port (R161). -/
def State.served (s : State) (p : Port) : State := { s with lastServed := p }

/-- A request of port `p` with its tag carried out and answered in one step (R161, R162). -/
def answerRequest (p : Port) (tag : Byte) (r : Request) (s : State) : State :=
  placeResponse p tag (carryOut p r (s.served p))

/-! ### Taking requests (R161, R177) -/

/-- The port offers a request: its request slot holds a frame and its response slot is empty (R177). -/
def State.offers (s : State) (p : Port) : Bool := (s.portOf p).request.isSome && (s.portOf p).response.isNone

/-- Which port's request the unit takes: the only one that offers, or of two the one not served last (R161). -/
def State.unitChoice (s : State) : Option Port :=
  match s.offers .host, s.offers .console with
  | true, true => some s.lastServed.other
  | true, false => some .host
  | false, true => some .console
  | false, false => none

/-- The request slot of port `p` emptied. -/
def State.emptyRequest (s : State) (p : Port) : State := s.setPort p { s.portOf p with request := none }

/-- The dropped flag of port `p` set (R177, R180). -/
def State.setDropped (s : State) (p : Port) : State := s.setPort p { s.portOf p with dropped := true }

/-- The port's slots leave no place for a frame that is complete now (R177). -/
def State.slotsBusy (s : State) (p : Port) : Bool := (s.portOf p).response.isSome || (s.portOf p).request.isSome

/-- A complete frame put in the request slot of port `p`. -/
def State.storeRequest (s : State) (p : Port) (f : RequestFrame) : State :=
  s.setPort p { s.portOf p with request := some f }

/-- The drop rule applied to a complete frame (R177). -/
def receiveFrame (p : Port) (f : RequestFrame) (s : State) : State :=
  if s.slotsBusy p then s.setDropped p else s.storeRequest p f

/-- A body holds at most 96 bytes (R187). -/
def bodyLimit : Nat := 96

/-- A frame that arrives at port `p` whole: the drop rule when it is complete, a discard when it is over-length (R180). -/
def arrive (p : Port) (s : State) (f : RequestFrame) : State :=
  if bodyLimit < f.body.length then s.setDropped p else receiveFrame p f s

/-! ### A frame taken (R161, R162, R177) -/

/-- A frame taken from port `p`: judged, carried out and answered in one step (R161, R162). Frames that arrive at the port
while it is carried out find both slots empty, so the first one is stored (R177), before the response is placed. -/
def answerFrame (p : Port) (f : RequestFrame) (arriving : List RequestFrame) (s : State) : State :=
  let c := judge p f (s.served p)
  placeResponse p f.tag (arriving.foldl (arrive p) c.1, c.2)

/-- The frame in the request slot of port `p` taken and answered (R161). -/
def takeFrom (p : Port) (arriving : List RequestFrame) (s : State) : State :=
  match (s.portOf p).request with
  | none => s
  | some f => answerFrame p f arriving (s.emptyRequest p)

/-- The unit takes port `p`'s request ahead of the other port's: the other offers none, or was served last (R161). -/
def State.goesFirst (s : State) (p : Port) : Bool := !(s.offers p.other) || s.lastServed != p

/-- A request command: a whole and undamaged frame of request `r` becomes complete at port `p`. A body too long for a
frame and a frame that finds the slots busy are dropped (R177, R180); a frame of a port whose turn has not come waits in
its slot (R161); otherwise the request is carried out and answered, `look` being what the engine reads then. While hard
reset lasts the port receives nothing (R191). -/
def submit (p : Port) (tag : Byte) (r : Request) (look : State → State) (s : State) : State :=
  if s.inReset then s
  else if bodyLimit < r.body.length || s.slotsBusy p then s.setDropped p
  else if s.goesFirst p then answerRequest p tag r (look s)
  else s.storeRequest p (frameOf tag r)

end Sys2Proof.Machine
end

