-- ==== Sys2Proof/Machine/RequestCommands.lean ====
section
/-! DEFINITION. Machine/RequestCommands.lean: the meaning of each request command: a whole frame of that request arrives
at a port with its tag, and is dropped, waits, or is carried out and answered (`submit`). -/

namespace Sys2Proof.Machine

/-- What every command of the block answers: the state after it. -/
abbrev Result := Host.Outcome State Fault Refusal

/-- The levels of FC and FD that an ENABLE reads on the segment it names (R129). -/
def lookAt (segment : Byte) (fc fd : Bool) (s : State) : State :=
  match segmentOf segment with
  | none => s
  | some g => s.setLines g { (s.segment g).lines with fc := fc, fd := fd }

/-- DEFINE (R12 to R15). -/
def execDefine (p : Port) (tag : Byte) (f : DefineFields) (s : State) : Result :=
  .next (submit p tag (.define f) id s)

/-- ACTIVATE (R16, R17). -/
def execActivate (p : Port) (tag : Byte) (h : RawHandle) (s : State) : Result :=
  .next (submit p tag (.activate h) id s)

/-- HOLD (R17, R18). -/
def execHold (p : Port) (tag : Byte) (h : RawHandle) (s : State) : Result :=
  .next (submit p tag (.hold h) id s)

/-- RETIRE (R21 to R23). -/
def execRetire (p : Port) (tag : Byte) (h : RawHandle) (s : State) : Result :=
  .next (submit p tag (.retire h) id s)

/-- DESCRIBE (R26). -/
def execDescribe (p : Port) (tag : Byte) (h : RawHandle) (s : State) : Result :=
  .next (submit p tag (.describe h) id s)

/-- READ (R50). -/
def execRead (p : Port) (tag : Byte) (h : RawHandle) (s : State) : Result :=
  .next (submit p tag (.read h) id s)

/-- READ_MANY (R51). -/
def execReadMany (p : Port) (tag : Byte) (count : Byte) (handles : List RawHandle) (s : State) : Result :=
  .next (submit p tag (.readMany count handles) id s)

/-- REFRESH (R52, R53). -/
def execRefresh (p : Port) (tag : Byte) (h : RawHandle) (s : State) : Result :=
  .next (submit p tag (.refresh h) id s)

/-- SET_LIMITS (R63 to R65). -/
def execSetLimits (p : Port) (tag : Byte) (h : RawHandle) (f : LimitsFields) (s : State) : Result :=
  .next (submit p tag (.setLimits h f) id s)

/-- WRITE (R71 to R73). -/
def execWrite (p : Port) (tag : Byte) (h : RawHandle) (value : Value) (deadline : Interval) (s : State) : Result :=
  .next (submit p tag (.write h value deadline) id s)

/-- CANCEL (R83). -/
def execCancel (p : Port) (tag : Byte) (h : RawHandle) (s : State) : Result :=
  .next (submit p tag (.cancel h) id s)

/-- NODE_QUERY (R102). -/
def execNodeQuery (p : Port) (tag : Byte) (segment address : Byte) (s : State) : Result :=
  .next (submit p tag (.nodeQuery segment address) id s)

/-- NODE_LIST (R103). -/
def execNodeList (p : Port) (tag : Byte) (segment start : Byte) (s : State) : Result :=
  .next (submit p tag (.nodeList segment start) id s)

/-- ENABLE: SEGMENT_CONTROL with action 0, the levels of FC and FD being those the engine reads when the
request is taken (R128, R129). -/
def execEnable (p : Port) (tag : Byte) (segment : Byte) (fc fd : Bool) (s : State) : Result :=
  .next (submit p tag (.segmentControl segment 0 0) (lookAt segment fc fd) s)

/-- DISABLE: SEGMENT_CONTROL with action 1 (R128, R130). -/
def execDisable (p : Port) (tag : Byte) (segment : Byte) (s : State) : Result :=
  .next (submit p tag (.segmentControl segment 1 0) id s)

/-- SEGMENT_RESTART: SEGMENT_CONTROL with action 2 (R128, R132). -/
def execSegmentRestart (p : Port) (tag : Byte) (segment : Byte) (s : State) : Result :=
  .next (submit p tag (.segmentControl segment 2 0) id s)

/-- SET_SPEED: SEGMENT_CONTROL with action 3 (R128, R131). -/
def execSetSpeed (p : Port) (tag : Byte) (segment speed : Byte) (s : State) : Result :=
  .next (submit p tag (.segmentControl segment 3 speed) id s)

/-- SCAN (R142). -/
def execScan (p : Port) (tag : Byte) (segment low high : Byte) (s : State) : Result :=
  .next (submit p tag (.scan segment low high) id s)

/-- SCAN_RESULT (R144). -/
def execScanResult (p : Port) (tag : Byte) (segment index : Byte) (s : State) : Result :=
  .next (submit p tag (.scanResult segment index) id s)

/-- SUBSCRIBE (R152). -/
def execSubscribe (p : Port) (tag : Byte) (h : RawHandle) (set : Byte) (s : State) : Result :=
  .next (submit p tag (.subscribe h set) id s)

/-- FETCH (R153). -/
def execFetch (p : Port) (tag : Byte) (count : Byte) (s : State) : Result :=
  .next (submit p tag (.fetch count) id s)

/-- ACK (R154, R155). -/
def execAck (p : Port) (tag : Byte) (seq : SeqNo) (s : State) : Result :=
  .next (submit p tag (.ack seq) id s)

/-- CLAIM (R168, R169). -/
def execClaim (p : Port) (tag : Byte) (h : RawHandle) (take : Byte) (s : State) : Result :=
  .next (submit p tag (.claim h take) id s)

/-- RELEASE (R170). -/
def execRelease (p : Port) (tag : Byte) (h : RawHandle) (s : State) : Result :=
  .next (submit p tag (.release h) id s)

/-- STATUS (R172). -/
def execStatus (p : Port) (tag : Byte) (s : State) : Result :=
  .next (submit p tag .status id s)

/-- TIME (R173). -/
def execTime (p : Port) (tag : Byte) (s : State) : Result :=
  .next (submit p tag .time id s)

/-- CLEAR (R174). -/
def execClear (p : Port) (tag : Byte) (s : State) : Result :=
  .next (submit p tag .clear id s)

/-- PORT_SET (R176). -/
def execPortSet (p : Port) (tag : Byte) (notifications nodeEvents : Byte) (s : State) : Result :=
  .next (submit p tag (.portSet notifications nodeEvents) id s)

end Sys2Proof.Machine
end

