-- ==== Sys2Proof/Machine/Ports.lean ====
section
/-! DEFINITION. Machine/Ports.lean: the port commands of Section 10 and the taking of a request from a slot: the host
port's transactions (R179 to R181), the console receive assembly (R184), the end of a console response (R185), and
REQUEST_TAKEN (R161). -/

namespace Sys2Proof.Machine

/-! ### The host port (R179 to R181) -/

/-- What the bytes of a request frame amount to (R180). -/
inductive FrameProgress where
  /-- The frame is not complete yet. -/
  | partialFrame
  /-- The body length byte is above 96. -/
  | overLength
  /-- The frame is complete; any further byte is ignored. -/
  | complete (f : RequestFrame)
  deriving DecidableEq, Repr

/-- The last two bytes of a frame behind its body: its CRC field, high byte first (TABLE 11-1). -/
def finishFrame (tag kind : Byte) (body : List Byte) : List Byte → FrameProgress
  | hi :: lo :: _ => .complete { tag := tag, kind := kind, body := body, crc := be16 hi lo }
  | _ => .partialFrame

/-- The bytes that follow 0xA5, assembled: tag, kind, body length, body, CRC (R180). -/
def assembleFrame : List Byte → FrameProgress
  | tag :: kind :: n :: rest =>
    if bodyLimit < n.toNat then .overLength
    else if rest.length < n.toNat then .partialFrame
    else finishFrame tag kind (rest.take n.toNat) (rest.drop n.toNat)
  | _ => .partialFrame

/-- The byte that opens a request transaction (R179). -/
def openRequest : Byte := 0xA5

/-- The byte that opens a response transaction (R179). -/
def openResponse : Byte := 0x5A

/-- The host port's reception and what it shifts out, set. -/
def State.setHostPort (s : State) (rx : HostRx) (out : List Byte) : State := { s with hostRx := rx, hsdo := out }

/-- The bytes behind 0xA5 of a request transaction (R180). A frame that is not complete is held while HSEL_N stays
low. -/
def requestTransaction (got : List Byte) (s : State) : State :=
  let out := List.replicate (got.length + 1) 0
  match assembleFrame got with
  | .partialFrame => s.setHostPort (.partialFrame got) out
  | .overLength => (s.setHostPort .idle out).setDropped .host
  | .complete f => receiveFrame .host f (s.setHostPort .idle out)

/-- What the port shifts out behind 0x5A when it is clocked on: presence byte and frame, then zeros (R181). -/
def responseOut (n : Nat) (response : Option ResponseFrame) : List Byte :=
  match response with
  | none => List.replicate n 0
  | some f => ((1 :: f.bytes) ++ List.replicate n 0).take n

/-- The response slot after `n` bytes clocked behind 0x5A: emptied when the last CRC byte has been shifted out (R181). -/
def responseLeft (n : Nat) (response : Option ResponseFrame) : Option ResponseFrame :=
  match response with
  | none => none
  | some f => if 1 + f.bytes.length ≤ n then none else some f

/-- A response transaction of `n` bytes behind 0x5A (R181). -/
def responseTransaction (n : Nat) (s : State) : State :=
  let x := s.portOf .host
  (s.setHostPort .idle (0 :: responseOut n x.response)).setPort .host { x with response := responseLeft n x.response }

/-- `n` bytes of the transaction that was under way when hard reset ended: it is ignored until HSEL_N rises, 0x00 is
shifted out and no slot or flag changes (R179, R186). -/
def ignoredTransaction (n : Nat) (s : State) : State := s.setHostPort .ignoring (List.replicate n 0)

/-- The bytes of a host transaction from the falling edge of HSEL_N on; the first one says what it is (R179). -/
def hostTransaction (bytes : List Byte) (s : State) : State :=
  match bytes with
  | [] => s.setHostPort .idle []
  | first :: rest =>
    if first == openRequest then requestTransaction rest s
    else if first == openResponse then responseTransaction rest.length s
    else s.setHostPort .idle (List.replicate bytes.length 0)

/-- HOST_REQUEST_TRANSACTION: the bytes clocked while HSEL_N is low (R179, R180, R186); nothing while hard reset lasts
(R191). -/
def execHostRequestTransaction (bytes : List Byte) (s : State) : Result :=
  if s.inReset then .next s
  else if s.hostRx == .ignoring then .next (ignoredTransaction bytes.length s) else .next (hostTransaction bytes s)

/-- HOST_RESPONSE_TRANSACTION: 0x5A and `count` bytes more (R181, R186); nothing while hard reset lasts (R191). -/
def execHostResponseTransaction (count : Nat) (s : State) : Result :=
  if s.inReset then .next s
  else if s.hostRx == .ignoring then .next (ignoredTransaction (count + 1) s) else .next (responseTransaction count s)

/-- HOST_PORT_RESYNC: HSEL_N rises, a partial frame is discarded, slots and dropped flag are kept (R180, R186). -/
def execHostPortResync (s : State) : Result := .next { s with hostRx := .idle }

/-! ### The console port (R184, R185) -/

/-- The console sync byte (R183). -/
def syncByte : Byte := 0xC3

/-- The console gap is 5 ms (R184). -/
def consoleGap : Interval := 5

/-- The receive assembly set by an event in a state other than HUNT: the gap due time is set afresh, and reaching HUNT
cancels it (R184). -/
def State.setAssembly (s : State) (x : Assembly) : State :=
  { s with assembly := x, gapDue := if x == .hunt then none else some (after s.clock consoleGap) }

/-- The third byte of a frame: its body length (TABLE 10-2). -/
def lengthByte (tag kind n : Byte) (s : State) : State :=
  if bodyLimit < n.toNat then (s.setDropped .console).setAssembly .skip
  else if n.toNat = 0 then s.setAssembly (.crc tag kind [] none)
  else s.setAssembly (.body tag kind n.toNat [])

/-- A byte received in HEADER (TABLE 10-2). -/
def headerByte (got : List Byte) (b : Byte) (s : State) : State :=
  match got with
  | [tag, kind] => lengthByte tag kind b s
  | _ => s.setAssembly (.header (got ++ [b]))

/-- A byte received in BODY with `left` body bytes still to come, this one among them (TABLE 10-2). -/
def bodyByte (tag kind : Byte) (left : Nat) (got : List Byte) (b : Byte) (s : State) : State :=
  if left ≤ 1 then s.setAssembly (.crc tag kind (got ++ [b]) none)
  else s.setAssembly (.body tag kind (left - 1) (got ++ [b]))

/-- A byte received in CRC: the second one completes the frame (TABLE 10-2). -/
def crcByte (tag kind : Byte) (body : List Byte) (high : Option Byte) (b : Byte) (s : State) : State :=
  match high with
  | none => s.setAssembly (.crc tag kind body (some b))
  | some hi => (receiveFrame .console ⟨tag, kind, body, be16 hi b⟩ s).setAssembly .hunt

/-- CONSOLE_BYTE_RECEIVED (TABLE 10-2). A byte received in HUNT, the sync byte among them, sets no gap (R184). While hard
reset lasts the assembly stays in HUNT (R186, R191). -/
def execConsoleByteReceived (b : Byte) (s : State) : Result :=
  match s.assembly with
  | .hunt => if s.inReset then .next s else if b == syncByte then .next { s with assembly := .header [] } else .next s
  | .header got => .next (headerByte got b s)
  | .body tag kind left got => .next (bodyByte tag kind left got b s)
  | .crc tag kind body high => .next (crcByte tag kind body high b s)
  | .skip => .next (s.setAssembly .skip)

/-- CONSOLE_FRAMING_ERROR (TABLE 10-2). -/
def execConsoleFramingError (s : State) : Result :=
  match s.assembly with
  | .hunt => .next s
  | .header _ => .next (s.setAssembly .hunt)
  | .body _ _ _ _ => .next (s.setAssembly .hunt)
  | .crc _ _ _ _ => .next (s.setAssembly .hunt)
  | .skip => .next (s.setAssembly .skip)

/-- The console gap due time has been reached (R184). -/
def State.gapReached (s : State) : Bool := s.gapDue.any (reached · s.clock)

/-- CONSOLE_GAP_EXPIRY: the partial frame is discarded or the SKIP ends (R184). -/
def execConsoleGapExpiry (s : State) : Result := if s.gapReached then .next (s.setAssembly .hunt) else .next s

/-- CONSOLE_RESPONSE_SENT: the whole response has been transmitted behind its sync byte, the slot empties (R185). -/
def execConsoleResponseSent (s : State) : Result :=
  match (s.portOf .console).response with
  | none => .next s
  | some f =>
    .next { (s.setPort .console { s.portOf .console with response := none }) with ctxd := syncByte :: f.bytes }

/-! ### REQUEST_TAKEN (R161) -/

/-- REQUEST_TAKEN: the unit takes an offered request, the lines of the segments reading as given, while the frames given
arrive at the same port (R161, R162, R177). The step raises it itself when a request is offered (log entry 5). -/
def execRequestTaken (lines : PerSegment Lines) (arriving : List RequestFrame) (s : State) : Result :=
  match s.unitChoice with
  | none => .next s
  | some p => .next (takeFrom p arriving ((s.setLines .a lines.a).setLines .b lines.b))

end Sys2Proof.Machine
end

