-- ==== Sys2Proof/Machine/LinkEvents.lean ====
section
/-! DEFINITION. Machine/LinkEvents.lean: the events of the field link that have not an outcome of their own on the wires:
the arbiter's choice (R133 to R136), FA (R122), the line check (R118), the hold allowance (R116), the transaction limit
(R117), the end of a recovery attempt and its retry (R137, R138), and the end of a cleared transaction (R120). -/

namespace Sys2Proof.Machine

/-! ### The arbiter and the alert line (R122, R133 to R136) -/

/-- ARBITER_CHOOSE: an idle engine, with its lines reading as given, chooses its next transaction (R134). The step raises
it itself when work has arrived (R133, log entry 7). -/
def execArbiterChoose (g : SegId) (lines : Lines) (s : State) : Result := .next (chooseWork g (s.setLines g lines))

/-- FA_FALL: FA falls to low: a roll is then work that has arrived, and the choice follows (R122, R133, log entry 7). -/
def execFaFall (g : SegId) (s : State) : Result :=
  .next (s.setLines g { (s.segment g).lines with fa := false })

/-! ### The line check and the limits (R116, R117, R118) -/

/-- The line check lasts at most 2 ms (R118). -/
def lineCheckTime : Interval := 2

/-- The transaction limit is 20 ms (R117). -/
def transactionLimit : Interval := 20

/-- The hold allowance is 2 ms (R116). -/
def holdAllowance : Interval := 2

/-- The reading since which the line check of the transaction in flight has lasted. -/
def Segment.checkSince (x : Segment) : Option Time :=
  match x.transaction with
  | none => none
  | some t =>
    match t.phase with
    | .lineCheck since => some since
    | .onWires _ _ _ => none

/-- The readings of the START and of the last release of FC of the transaction on the wires. -/
def Segment.wireTimes (x : Segment) : Option (Time × Time) :=
  match x.transaction with
  | none => none
  | some t =>
    match t.phase with
    | .lineCheck _ => none
    | .onWires start released _ => some (start, released)

/-- A transaction is in the line check and its 2 ms have passed (R118). -/
def Segment.checkReached (x : Segment) (now : Time) : Bool :=
  x.checkSince.any fun since => reached (after since lineCheckTime) now

/-- A transaction is on the wires and its 20 ms have passed (R117). -/
def Segment.limitReached (x : Segment) (now : Time) : Bool :=
  x.wireTimes.any fun t => reached (after t.1 transactionLimit) now

/-- A transaction is on the wires and 2 ms have passed since FC was last released (R116). -/
def Segment.holdReached (x : Segment) (now : Time) : Bool :=
  x.wireTimes.any fun t => reached (after t.2 holdAllowance) now

/-- A line check is under way, not later than 2 ms into it (R118). -/
def Segment.checking (x : Segment) (now : Time) : Bool :=
  x.checkSince.any fun since => !laterThan now (after since lineCheckTime)

/-- START_AFTER_LINE_CHECK: both lines read high within 2 ms, and the START is made (R118). -/
def execStartAfterLineCheck (g : SegId) (s : State) : Result :=
  if (s.segment g).checking s.clock then
    .next (s.modSegment g fun x =>
      { x with
        lines := { x.lines with fc := true, fd := true }
        transaction := x.transaction.map fun t => { t with phase := .started s.clock } })
  else .next s

/-- The transaction of a segment ended with an outcome, if one is in flight. -/
def endWith (g : SegId) (outcome : TxOutcome) (s : State) : State :=
  match (s.segment g).transaction with
  | none => s
  | some t => takeCompletion g t outcome s

/-- LINE_CHECK_EXPIRY: a line still low after 2 ms ends the transaction STUCK (R118). -/
def execLineCheckExpiry (g : SegId) (s : State) : Result :=
  if (s.segment g).checkReached s.clock then .next (endWith g .stuck s) else .next s

/-- HOLD_ALLOWANCE_EXPIRY: FC not read high 2 ms after its release ends the transaction on the wires with TIMEOUT
(R116). -/
def execHoldAllowanceExpiry (g : SegId) (s : State) : Result :=
  if (s.segment g).holdReached s.clock then .next (endWith g .timeout s) else .next s

/-- TRANSACTION_LIMIT_EXPIRY: a transaction not ended 20 ms after its START ends with TIMEOUT (R117). -/
def execTransactionLimitExpiry (g : SegId) (s : State) : Result :=
  if (s.segment g).limitReached s.clock then .next (endWith g .timeout s) else .next s

/-! ### Recovery (R137, R138, R140) -/

/-- The interval between recovery attempts (R138). -/
def retryInterval : Interval := 50

/-- The event of the SEGMENT notification of a recovery that succeeds (R138). -/
def recoveryEvent : RecoveryCause → SegmentEvent
  | .contest => .recovered
  | .timeout => .recovered
  | .stuck => .recovered
  | .enable => .up
  | .restart => .up

/-- A recovery attempt succeeds: the segment is UP (R138). Step 5 of the attempt has read both lines high (R137), and that is
how they stand as last observed when the engine chooses next (R118, R133, log entry 7). -/
def recoverUp (g : SegId) (cause : RecoveryCause) (s : State) : State :=
  offerNodeEvents (.segment g (recoveryEvent cause) cause)
    (s.modSegment g fun x =>
      { x with
        lines := { x.lines with fc := true, fd := true }
        state := .up, attempts := 0, cause := none, fairness := 0 })

/-- The third attempt fails: the segment is DOWN, a RUNNING scan is aborted (R138, R143). -/
def fallDown (g : SegId) (cause : RecoveryCause) (s : State) : State :=
  abortScan g (offerNodeEvents (.segment g .down cause)
    (s.modSegment g fun x => { x with state := .down, attempts := 3 }))

/-- A recovery attempt below the third fails: the retry time is set (R138). -/
def setRetry (g : SegId) (n : Nat) (s : State) : State :=
  s.modSegment g fun x => { x with attempts := n, retryTime := some (after s.clock retryInterval) }

/-- A recovery attempt fails (R138). -/
def attemptFailed (g : SegId) (cause : RecoveryCause) (s : State) : State :=
  let n := (s.segment g).attempts + 1
  if n < 3 then setRetry g n s else fallDown g cause s

/-- The cause of the recovery whose attempt is under way: the segment is RECOVERING and not waiting for a retry. -/
def Segment.attempting (x : Segment) : Option RecoveryCause :=
  match x.state, x.retryTime with
  | .recovering, none => x.cause
  | _, _ => none

/-- RECOVERY_ATTEMPT_END: the attempt under way has made these reads and ends (R137, R138). -/
def execRecoveryAttemptEnd (g : SegId) (reads : RecoveryReads) (s : State) : Result :=
  match (s.segment g).attempting, attemptResult reads with
  | some cause, some true => .next (recoverUp g cause s)
  | some cause, some false => .next (attemptFailed g cause s)
  | _, _ => .next s

/-- The recovery retry time has been reached (R138). -/
def Segment.retryReached (x : Segment) (now : Time) : Bool := x.retryTime.any (reached · now)

/-- RECOVERY_RETRY_EXPIRY: the retry time becomes absent, and the next attempt is under way (R138). -/
def execRecoveryRetryExpiry (g : SegId) (s : State) : Result :=
  if (s.segment g).retryReached s.clock then .next (s.modSegment g fun x => { x with retryTime := none })
  else .next s

/-! ### The end of a cleared transaction (R120) -/

/-- The transaction on the wires has been cleared (R120). -/
def Segment.endingCleared (x : Segment) : Bool :=
  match x.transaction with
  | none => false
  | some t => t.cleared

/-- CLEAR_END_TRANSACTION: the cleared transaction is driven on to its byte boundary and its STOP, at once when CLEAR was
taken between two bytes; its outcome reaches no record, a fault met on the way begins a recovery (R29, R120, R137). -/
def execClearEndTransaction (g : SegId) (between : Bool) (levels : List Bool) (s : State) : Result :=
  if (s.segment g).endingCleared then .next (driveOn g (.cut between) levels s) else .next s

end Sys2Proof.Machine
end

