-- ==== Sys2Proof/Machine/Completions.lean ====
section
/-! DEFINITION. Machine/Completions.lean: the completions of the transactions on the wires. A completion brings the levels
the nodes leave FD at in the cycles that have passed; where these reach the transaction's end its outcome (R111 to R115,
R119, R123, R124) is applied by the roster core (Sections 2, 4, 5 and 7), where they do not it stands further on. A
completion of a kind of work that is not on the wires does not occur (log entry 4). -/

namespace Sys2Proof.Machine

/-- The work is a read of a kind (R111). -/
def Work.isRead (kind : ReadKind) : Work → Bool
  | .read k _ _ _ _ => k == kind
  | _ => false

/-- The work is a write (R111). -/
def Work.isWrite : Work → Bool
  | .write _ _ _ _ _ => true
  | _ => false

/-- The work is a directory probe (R111). -/
def Work.isProbe : Work → Bool
  | .probe _ => true
  | _ => false

/-- The work is a scan step (R111). -/
def Work.isScanStep : Work → Bool
  | .scanStep _ => true
  | _ => false

/-- The work is an alert roll (R111). -/
def Work.isRoll : Work → Bool
  | .roll => true
  | _ => false

/-- A transaction of the segment serves work that `f` accepts and still names its records. -/
def Segment.serving (x : Segment) (f : Work → Bool) : Bool :=
  match x.transaction with
  | none => false
  | some t => !t.cleared && f t.work

/-- A completion report of segment `g` for work that `f` accepts: the transaction is driven on through the levels. -/
def completeWith (g : SegId) (f : Work → Bool) (levels : List Bool) (s : State) : State :=
  if (s.segment g).serving f then driveOn g id levels s else s

/-- POLL_COMPLETION (R38, R40, R41, R42). -/
def execPollCompletion (g : SegId) (levels : List Bool) (s : State) : Result :=
  .next (completeWith g (Work.isRead .poll) levels s)

/-- REFRESH_POLL_COMPLETION (R39, R53). -/
def execRefreshPollCompletion (g : SegId) (levels : List Bool) (s : State) : Result :=
  .next (completeWith g (Work.isRead .refreshPoll) levels s)

/-- GUARD_COMPLETION (R43, R87, R88). -/
def execGuardCompletion (g : SegId) (levels : List Bool) (s : State) : Result :=
  .next (completeWith g (Work.isRead .guard) levels s)

/-- WRITE_COMPLETION (R76). -/
def execWriteCompletion (g : SegId) (levels : List Bool) (s : State) : Result :=
  .next (completeWith g Work.isWrite levels s)

/-- VERIFY_COMPLETION (R77). -/
def execVerifyCompletion (g : SegId) (levels : List Bool) (s : State) : Result :=
  .next (completeWith g (Work.isRead .verify) levels s)

/-- PROBE_COMPLETION (R98). -/
def execProbeCompletion (g : SegId) (levels : List Bool) (s : State) : Result :=
  .next (completeWith g Work.isProbe levels s)

/-- SCAN_STEP_COMPLETION (R142). -/
def execScanStepCompletion (g : SegId) (levels : List Bool) (s : State) : Result :=
  .next (completeWith g Work.isScanStep levels s)

/-- ROLL_COMPLETION; FA reads `fa` then (R122, R124, R125). -/
def execRollCompletion (g : SegId) (levels : List Bool) (fa : Bool) (s : State) : Result :=
  if (s.segment g).serving Work.isRoll then
    .next (driveOn g id levels (s.setLines g { (s.segment g).lines with fa := fa }))
  else .next s

end Sys2Proof.Machine
end

