-- ==== Sys2Proof/Machine/Expiries.lean ====
section
/-! DEFINITION. Machine/Expiries.lean: the expiries the timebase raises (R32) and hard reset: poll due (R36), stale (R47),
age cap (R48), due caps (R37), deadlines (R81, R82), probes (R97), alert suppression (R122). An expiry whose due time
is not reached, or that nothing carries, does not occur (log entry 4). -/

namespace Sys2Proof.Machine

/-! ### Poll due (R36) -/

/-- The earliest entry not marked yet, if its due time has been reached (R36). -/
def Segment.pollDue (x : Segment) (now : Time) : Option SchedEntry := x.firstUnmarked.filter (·.due.reachedAt now)

/-- POLL_DUE_EXPIRY: the earliest entry not marked yet is marked due (R36). -/
def execPollDueExpiry (g : SegId) (s : State) : Result :=
  match (s.segment g).pollDue s.clock with
  | none => .next s
  | some e => .next (s.modSegment g fun x => { x with schedule := markEntry e.slot x.schedule })

/-! ### The stale expiry (R47) -/

/-- The stale expiry of slot `i` has been reached (R47). -/
def State.staleReached (s : State) (i : SlotNo) : Bool :=
  (s.point? i).any fun pt => pt.staleDue.any (reached · s.clock)

/-- STALE_EXPIRY (R47). -/
def execStaleExpiry (i : SlotNo) (s : State) : Result :=
  if s.staleReached i then .next (takeStale i s) else .next s

/-! ### The caps (R37, R48) -/

/-- The span of an age cap and of a due cap (R37, R48). -/
def capInterval : Interval := 65535

/-- A time with a cap, not taken yet, whose cap has been reached. -/
def capReached (t : Time) (capped : Bool) (now : Time) : Bool := !capped && reached (after t capInterval) now

/-- The age cap of slot `i`'s value has been reached and not been taken (R48). -/
def State.ageCapReached (s : State) (i : SlotNo) : Bool :=
  (s.point? i).any fun pt => pt.value.any fun v => capReached v.time v.capped s.clock

/-- The point's value marked age-capped (R48). -/
def Point.capAge (pt : Point) : Point := { pt with value := pt.value.map fun v => { v with capped := true } }

/-- AGE_CAP_EXPIRY (R48). -/
def execAgeCapExpiry (i : SlotNo) (s : State) : Result :=
  if s.ageCapReached i then .next (s.modPoint i Point.capAge) else .next s

/-- The due time of slot `i` a due cap belongs to (R37). -/
def State.cappedDue (s : State) (i : SlotNo) (which : CapHolder) : Option Due :=
  match which with
  | .entry => (s.entry? i).map (·.due)
  | .startDue => (s.point? i).bind fun pt => pt.inFlight.bind (·.startDue)
  | .rhythmDue => (s.point? i).bind (·.rhythmDue)

/-- The due cap of a due time of slot `i` has been reached and not been taken (R37). -/
def State.dueCapReached (s : State) (i : SlotNo) (which : CapHolder) : Bool :=
  (s.cappedDue i which).any fun d => capReached d.time d.capped s.clock

/-- A due time with its due cap taken (R37). -/
def Due.cap (d : Due) : Due := { d with capped := true }

/-- The point with the due cap of its start due taken (R37). -/
def Point.capStart (pt : Point) : Point :=
  { pt with inFlight := pt.inFlight.map fun f => { f with startDue := f.startDue.map Due.cap } }

/-- The point with the due cap of its rhythm due taken (R37). -/
def Point.capRhythm (pt : Point) : Point := { pt with rhythmDue := pt.rhythmDue.map Due.cap }

/-- The due cap of a due time of slot `i` taken (R37). -/
def takeDueCap (i : SlotNo) (which : CapHolder) (s : State) : State :=
  match which with
  | .entry =>
    (match s.point? i with
    | none => s
    | some pt => s.modSegment pt.segment fun x => { x with schedule := capEntry i x.schedule })
  | .startDue => s.modPoint i Point.capStart
  | .rhythmDue => s.modPoint i Point.capRhythm

/-- DUE_CAP_EXPIRY (R37). -/
def execDueCapExpiry (i : SlotNo) (which : CapHolder) (s : State) : Result :=
  if s.dueCapReached i which then .next (takeDueCap i which s) else .next s

/-! ### The deadlines (R81, R82) -/

/-- The deadline of slot `i`'s waiting command has been reached (R81). -/
def State.deadlineReached (s : State) (i : SlotNo) : Bool := (s.stand i).deadline.any (reached · s.clock)

/-- DEADLINE_EXPIRY (R81). -/
def execDeadlineExpiry (i : SlotNo) (s : State) : Result :=
  if s.deadlineReached i then .next (takeDeadline i s) else .next s

/-- The deadline of slot `i`'s next value, not marked expired yet, has been reached (R82). -/
def State.nextDeadlineReached (s : State) (i : SlotNo) : Bool := (s.stand i).nextDeadline.any (reached · s.clock)

/-- NEXT_VALUE_DEADLINE_EXPIRY: the next value is marked expired, and nothing else changes (R82). -/
def execNextValueDeadlineExpiry (i : SlotNo) (s : State) : Result :=
  if s.nextDeadlineReached i then .next (setStand i (s.stand i).markExpired s) else .next s

/-! ### Probes and alert suppression (R97, R122) -/

/-- The entry is LOST and its next probe time has been reached and not been marked (R97). -/
def NodeEntry.probeReached (e : NodeEntry) (now : Time) : Bool :=
  e.presence == .lost && e.probe.any fun p => !p.due && reached p.time now

/-- The entry with its probe marked due (R97). -/
def NodeEntry.markProbe (e : NodeEntry) : NodeEntry := { e with probe := e.probe.map fun p => { p with due := true } }

/-- PROBE_EXPIRY (R97). -/
def execProbeExpiry (g : SegId) (address : Address) (s : State) : Result :=
  if (s.nodeEntry? g address).any (·.probeReached s.clock) then .next (s.modNode g address NodeEntry.markProbe)
  else .next s

/-- The alert suppression end time has been reached (R122). -/
def Segment.suppressionReached (x : Segment) (now : Time) : Bool := x.suppression.any (reached · now)

/-- ALERT_SUPPRESSION_EXPIRY: the end time becomes absent (R122). -/
def execAlertSuppressionExpiry (g : SegId) (s : State) : Result :=
  if (s.segment g).suppressionReached s.clock then .next (s.modSegment g fun x => { x with suppression := none })
  else .next s

/-! ### Hard reset (R191) -/

/-- HARD_RESET. Where it begins, every block is held in its state after hard reset until it ends; where it ends, the straps
are latched and the roster clock counts from 0 (R191). What stands outside the part is kept: the levels of the field lines
and the commands that wait (log entry 14). -/
def execHardReset (crate1 crate0 : Bool) (edge : ResetEdge) (s : State) : Result :=
  match edge with
  | .begins => .next s.heldInReset
  | .ends hselLow =>
    .next (State.afterReset crate1 crate0 hselLow (s.segment .a).lines (s.segment .b).lines s.pending)

end Sys2Proof.Machine
end

