-- ==== Sys2Proof/Machine/Dispatch.lean ====
section
/-! DEFINITION. Machine/Dispatch.lean: one arm per command, each one direct call of the command's meaning. -/

namespace Sys2Proof.Machine

open Sys2Proof

/-- The effect of a command on everything but the queue of waiting commands. -/
def exec (i : Instr) (s : State) : Host.Outcome State Fault Refusal :=
  match i with
  | .define p tag f => Sys2Proof.Machine.execDefine p tag f s
  | .activate p tag h => Sys2Proof.Machine.execActivate p tag h s
  | .hold p tag h => Sys2Proof.Machine.execHold p tag h s
  | .retire p tag h => Sys2Proof.Machine.execRetire p tag h s
  | .describe p tag h => Sys2Proof.Machine.execDescribe p tag h s
  | .read p tag h => Sys2Proof.Machine.execRead p tag h s
  | .readMany p tag count handles => Sys2Proof.Machine.execReadMany p tag count handles s
  | .refresh p tag h => Sys2Proof.Machine.execRefresh p tag h s
  | .setLimits p tag h f => Sys2Proof.Machine.execSetLimits p tag h f s
  | .write p tag h value deadline => Sys2Proof.Machine.execWrite p tag h value deadline s
  | .cancel p tag h => Sys2Proof.Machine.execCancel p tag h s
  | .nodeQuery p tag segment address => Sys2Proof.Machine.execNodeQuery p tag segment address s
  | .nodeList p tag segment start => Sys2Proof.Machine.execNodeList p tag segment start s
  | .enable p tag segment fc fd => Sys2Proof.Machine.execEnable p tag segment fc fd s
  | .disable p tag segment => Sys2Proof.Machine.execDisable p tag segment s
  | .segmentRestart p tag segment => Sys2Proof.Machine.execSegmentRestart p tag segment s
  | .setSpeed p tag segment speed => Sys2Proof.Machine.execSetSpeed p tag segment speed s
  | .scan p tag segment low high => Sys2Proof.Machine.execScan p tag segment low high s
  | .scanResult p tag segment index => Sys2Proof.Machine.execScanResult p tag segment index s
  | .subscribe p tag h set => Sys2Proof.Machine.execSubscribe p tag h set s
  | .fetch p tag count => Sys2Proof.Machine.execFetch p tag count s
  | .ack p tag seq => Sys2Proof.Machine.execAck p tag seq s
  | .claim p tag h take => Sys2Proof.Machine.execClaim p tag h take s
  | .release p tag h => Sys2Proof.Machine.execRelease p tag h s
  | .status p tag => Sys2Proof.Machine.execStatus p tag s
  | .time p tag => Sys2Proof.Machine.execTime p tag s
  | .clear p tag => Sys2Proof.Machine.execClear p tag s
  | .portSet p tag notifications nodeEvents => Sys2Proof.Machine.execPortSet p tag notifications nodeEvents s
  | .hostRequestTransaction bytes => Sys2Proof.Machine.execHostRequestTransaction bytes s
  | .hostResponseTransaction count => Sys2Proof.Machine.execHostResponseTransaction count s
  | .hostPortResync => Sys2Proof.Machine.execHostPortResync s
  | .consoleByteReceived byte => Sys2Proof.Machine.execConsoleByteReceived byte s
  | .consoleFramingError => Sys2Proof.Machine.execConsoleFramingError s
  | .consoleGapExpiry => Sys2Proof.Machine.execConsoleGapExpiry s
  | .consoleResponseSent => Sys2Proof.Machine.execConsoleResponseSent s
  | .requestTaken lines arriving => Sys2Proof.Machine.execRequestTaken lines arriving s
  | .arbiterChoose g lines => Sys2Proof.Machine.execArbiterChoose g lines s
  | .faFall g => Sys2Proof.Machine.execFaFall g s
  | .startAfterLineCheck g => Sys2Proof.Machine.execStartAfterLineCheck g s
  | .lineCheckExpiry g => Sys2Proof.Machine.execLineCheckExpiry g s
  | .holdAllowanceExpiry g => Sys2Proof.Machine.execHoldAllowanceExpiry g s
  | .transactionLimitExpiry g => Sys2Proof.Machine.execTransactionLimitExpiry g s
  | .pollCompletion g levels => Sys2Proof.Machine.execPollCompletion g levels s
  | .refreshPollCompletion g levels => Sys2Proof.Machine.execRefreshPollCompletion g levels s
  | .guardCompletion g levels => Sys2Proof.Machine.execGuardCompletion g levels s
  | .writeCompletion g levels => Sys2Proof.Machine.execWriteCompletion g levels s
  | .verifyCompletion g levels => Sys2Proof.Machine.execVerifyCompletion g levels s
  | .probeCompletion g levels => Sys2Proof.Machine.execProbeCompletion g levels s
  | .scanStepCompletion g levels => Sys2Proof.Machine.execScanStepCompletion g levels s
  | .rollCompletion g levels fa => Sys2Proof.Machine.execRollCompletion g levels fa s
  | .recoveryAttemptEnd g reads => Sys2Proof.Machine.execRecoveryAttemptEnd g reads s
  | .recoveryRetryExpiry g => Sys2Proof.Machine.execRecoveryRetryExpiry g s
  | .clearEndTransaction g between levels => Sys2Proof.Machine.execClearEndTransaction g between levels s
  | .pollDueExpiry g => Sys2Proof.Machine.execPollDueExpiry g s
  | .staleExpiry k => Sys2Proof.Machine.execStaleExpiry k s
  | .ageCapExpiry k => Sys2Proof.Machine.execAgeCapExpiry k s
  | .dueCapExpiry k which => Sys2Proof.Machine.execDueCapExpiry k which s
  | .deadlineExpiry k => Sys2Proof.Machine.execDeadlineExpiry k s
  | .nextValueDeadlineExpiry k => Sys2Proof.Machine.execNextValueDeadlineExpiry k s
  | .probeExpiry g address => Sys2Proof.Machine.execProbeExpiry g address s
  | .alertSuppressionExpiry g => Sys2Proof.Machine.execAlertSuppressionExpiry g s
  | .hardReset crate1 crate0 edge => Sys2Proof.Machine.execHardReset crate1 crate0 edge s

end Sys2Proof.Machine
end

