-- ==== Sys2Proof/Machine/Step.lean ====
section
/-! DEFINITION. Machine/Step.lean: the step: the command at the front of the queue, or on an empty queue what the part
does of itself: the request that a port offers (R161), the choice of an idle engine that has work (R133), the first expiry
that is due, else one millisecond of the roster clock (R30, R32). Log entries 5 and 7 say why. -/

namespace Sys2Proof.Machine

/-! ### The request unit (R161) -/

/-- A port offers a request: the unit takes it, the lines reading as last observed and no frame arriving meanwhile. -/
def State.dueRequest (s : State) : Option Instr :=
  if s.unitChoice.isSome then some (.requestTaken ⟨(s.segment .a).lines, (s.segment .b).lines⟩ []) else none

/-! ### The choice of an idle engine (R133) -/

/-- The engine is idle and a claim for some work would be granted: it chooses, its lines reading as last observed. -/
def State.dueChoice (s : State) (g : SegId) : Option Instr :=
  if (s.segment g).idle && (s.granted g).isSome then some (.arbiterChoose g (s.segment g).lines) else none

/-! ### What the timebase raises (R32) -/

/-- The expiries of a segment's engine and schedule that are due, the first one in a fixed order. -/
def Segment.dueExpiry (x : Segment) (g : SegId) (now : Time) : Option Instr :=
  if x.checkReached now then some (.lineCheckExpiry g)
  else if x.holdReached now then some (.holdAllowanceExpiry g)
  else if x.limitReached now then some (.transactionLimitExpiry g)
  else if x.retryReached now then some (.recoveryRetryExpiry g)
  else if x.suppressionReached now then some (.alertSuppressionExpiry g)
  else if (x.pollDue now).isSome then some (.pollDueExpiry g)
  else none

/-- The probe expiry of a directory entry, if it is due (R97). -/
def NodeEntry.dueExpiry (e : NodeEntry) (now : Time) : Option Instr :=
  if e.probeReached now then some (.probeExpiry e.segment e.address) else none

/-- The expiries a slot's point carries that are due, the first one in a fixed order (R32, R37, R47, R48, R81, R82). -/
def State.slotExpiry (s : State) (i : SlotNo) : Option Instr :=
  if s.deadlineReached i then some (.deadlineExpiry i)
  else if s.nextDeadlineReached i then some (.nextValueDeadlineExpiry i)
  else if s.staleReached i then some (.staleExpiry i)
  else if s.ageCapReached i then some (.ageCapExpiry i)
  else if s.dueCapReached i .entry then some (.dueCapExpiry i .entry)
  else if s.dueCapReached i .startDue then some (.dueCapExpiry i .startDue)
  else if s.dueCapReached i .rhythmDue then some (.dueCapExpiry i .rhythmDue)
  else none

/-- The expiry of the console gap, if it is due (R184). -/
def State.gapExpiry (s : State) : Option Instr := if s.gapReached then some .consoleGapExpiry else none

/-- An expiry that is due, if any: the console gap, the segments, the probes, the slots in ascending order. The rules
give expiries of one millisecond no order (R32): a sender that wants another one queues the expiries itself. -/
def State.nextExpiry (s : State) : Option Instr :=
  s.gapExpiry.or <| ((s.segment .a).dueExpiry .a s.clock).or <| ((s.segment .b).dueExpiry .b s.clock).or <|
    (s.directory.findSome? (·.dueExpiry s.clock)).or <| allSlots.findSome? s.slotExpiry

/-- One millisecond of the roster clock (R30). -/
def State.tick (s : State) : State := { s with clock := s.clock + 1 }

/-- The queue of waiting commands replaced. -/
def State.setPending (s : State) (l : List Instr) : State := { s with pending := l }

/-- What the part does of itself before time goes on: an offered request is taken, then an idle engine chooses, A's before
B's, then an expiry. That a request waits no longer than for the queue to be empty, and is taken before the choices and
the expiries of its millisecond, is the model's choice: R161 gives no moment (log entry 5). -/
def State.nextEvent (s : State) : Option Instr :=
  s.dueRequest.or <| (s.dueChoice .a).or <| (s.dueChoice .b).or s.nextExpiry

/-- The step on an empty queue: an event of the part itself is taken, else the clock advances (log entry 5); it does not
count while hard reset lasts (R30, R191). -/
def idleStep (s : State) : Host.Outcome State Fault Refusal :=
  match s.nextEvent with
  | some c => exec c s
  | none => .next (if s.inReset then s else s.tick)

/-- The step: the command at the front of the queue is taken, and run with the queue's rest waiting. -/
def step (s : State) : Host.Outcome State Fault Refusal :=
  match s.pending with
  | c :: rest => exec c (s.setPending rest)
  | [] => idleStep s

/-- The command a word spells put at the front of the queue; no word spells one, for the table gives no row any bits. -/
def State.withFetchWord (s : State) (nbits w : Nat) : State :=
  match decodeTableWord nbits w with
  | none => s
  | some c => s.setPending (c :: s.pending)

end Sys2Proof.Machine
end

