-- ==== Sys2Proof/Machine/Pins.lean ====
section
/-! DEFINITION. Machine/Pins.lean: what the part drives on its output pins (R191, TABLE 11-9), each another reading of what
State holds. A pin stands here as it is between two commands (log entries 13 and 16). -/

namespace Sys2Proof.Machine

/-- What CTXD carries (R183, R185). -/
inductive ConsoleLine where
  /-- High: no character is being sent, or hard reset lasts. -/
  | idle
  /-- The characters of a response that is being transmitted, one after the other. -/
  | sending (bytes : List Byte)
  deriving DecidableEq, Repr

/-- The output pins. `hsdoDriven` says that HSDO is not at high impedance (the bytes it shifted out are the field `hsdo` of
State); `true` is high and, of a field line, released. The engines drive no FA (R105). -/
structure Pins where
  hsdoDriven : Bool
  rdy : Bool
  attn : Bool
  ctxd : ConsoleLine
  fieldA : Drivers
  fieldB : Drivers
  deriving DecidableEq, Repr

/-- HSEL_N is low: a host transaction is under way (R179). HSDO is at high impedance while it is high (TABLE 11-9). -/
def State.hselLow (s : State) : Bool := s.hostRx != .idle

/-- CTXD: a response in the console slot is being transmitted behind its sync byte (R183, R185). -/
def State.ctxdPin (s : State) : ConsoleLine :=
  match (s.portOf .console).response with
  | none => .idle
  | some f => .sending (syncByte :: f.bytes)

/-- The output pins of the part (TABLE 11-9); all field lines are released while a segment is OFF, so while hard reset lasts
(R105, R191). -/
def State.pins (s : State) : Pins :=
  { hsdoDriven := s.hselLow, rdy := s.rdy, attn := s.attn, ctxd := s.ctxdPin
    fieldA := (s.segment .a).drivers, fieldB := (s.segment .b).drivers }

end Sys2Proof.Machine
end

