-- ==== Sys2Proof/Safety.lean ====
section
/-! DEFINITION. Safety.lean: the terms in which claims are made: the laws the manual says the records keep (R3 to R5, R12,
R13, R70, R92, R127, R146, R150), as predicates of a state, what a step may change of a slot (R3, R4) and of a queue (R146),
what the end of a transaction leaves alone (R34, R94 to R99), and when a port's request is carried out at once. -/

namespace Sys2Proof.Machine

/-! ### Ports -/

/-- A request command of port `p` is carried out at once: no hard reset lasts, both the port's slots are empty, and it is its
turn (R161, R177, R191). -/
def State.ready (s : State) (p : Port) : Bool := !s.inReset && (!s.slotsBusy p && s.goesFirst p)

/-- The state after a request of port `p` that was carried out with reply `r` and left the records as `t` has them. -/
def responded (p : Port) (tag : Byte) (r : Reply) (t : State) : State := placeResponse p tag (t, r)

/-- The request a command stands for, with its port and its tag; none for a command that is no request (TABLE 9-3). -/
def asRequest : Instr → Option (Port × Byte × Request)
  | .define p tag f => some (p, tag, .define f)
  | .activate p tag h => some (p, tag, .activate h)
  | .hold p tag h => some (p, tag, .hold h)
  | .retire p tag h => some (p, tag, .retire h)
  | .describe p tag h => some (p, tag, .describe h)
  | .read p tag h => some (p, tag, .read h)
  | .readMany p tag count handles => some (p, tag, .readMany count handles)
  | .refresh p tag h => some (p, tag, .refresh h)
  | .setLimits p tag h f => some (p, tag, .setLimits h f)
  | .write p tag h value deadline => some (p, tag, .write h value deadline)
  | .cancel p tag h => some (p, tag, .cancel h)
  | .nodeQuery p tag segment address => some (p, tag, .nodeQuery segment address)
  | .nodeList p tag segment start => some (p, tag, .nodeList segment start)
  | .enable p tag segment _ _ => some (p, tag, .segmentControl segment 0 0)
  | .disable p tag segment => some (p, tag, .segmentControl segment 1 0)
  | .segmentRestart p tag segment => some (p, tag, .segmentControl segment 2 0)
  | .setSpeed p tag segment speed => some (p, tag, .segmentControl segment 3 speed)
  | .scan p tag segment low high => some (p, tag, .scan segment low high)
  | .scanResult p tag segment index => some (p, tag, .scanResult segment index)
  | .subscribe p tag h set => some (p, tag, .subscribe h set)
  | .fetch p tag count => some (p, tag, .fetch count)
  | .ack p tag seq => some (p, tag, .ack seq)
  | .claim p tag h take => some (p, tag, .claim h take)
  | .release p tag h => some (p, tag, .release h)
  | .status p tag => some (p, tag, .status)
  | .time p tag => some (p, tag, .time)
  | .clear p tag => some (p, tag, .clear)
  | .portSet p tag notifications nodeEvents => some (p, tag, .portSet notifications nodeEvents)
  | .hostRequestTransaction _ => none
  | .hostResponseTransaction _ => none
  | .hostPortResync => none
  | .consoleByteReceived _ => none
  | .consoleFramingError => none
  | .consoleGapExpiry => none
  | .consoleResponseSent => none
  | .requestTaken _ _ => none
  | .arbiterChoose _ _ => none
  | .faFall _ => none
  | .startAfterLineCheck _ => none
  | .lineCheckExpiry _ => none
  | .holdAllowanceExpiry _ => none
  | .transactionLimitExpiry _ => none
  | .pollCompletion _ _ => none
  | .refreshPollCompletion _ _ => none
  | .guardCompletion _ _ => none
  | .writeCompletion _ _ => none
  | .verifyCompletion _ _ => none
  | .probeCompletion _ _ => none
  | .scanStepCompletion _ _ => none
  | .rollCompletion _ _ _ => none
  | .recoveryAttemptEnd _ _ => none
  | .recoveryRetryExpiry _ => none
  | .clearEndTransaction _ _ _ => none
  | .pollDueExpiry _ => none
  | .staleExpiry _ => none
  | .ageCapExpiry _ => none
  | .dueCapExpiry _ _ => none
  | .deadlineExpiry _ => none
  | .nextValueDeadlineExpiry _ => none
  | .probeExpiry _ _ => none
  | .alertSuppressionExpiry _ => none
  | .hardReset _ _ _ => none

/-- Bytes received by the console port one after the other, with no other event between them: the state after them. -/
def State.receives (s : State) : List Byte → Option State
  | [] => some s
  | b :: rest =>
    match exec (.consoleByteReceived b) s with
    | .next t => t.receives rest
    | _ => none

/-- The body length a kind code requires, none for a code that names no request (TABLE 11-3). For READ_MANY it follows
from the count the body declares (R163). -/
def requiredLength (kind : Byte) (body : List Byte) : Option Nat :=
  match kind.toNat with
  | 0x01 => some 11
  | 0x07 => some (1 + 2 * (body.head?.elim 0 BitVec.toNat))
  | 0x09 => some 20
  | 0x0A => some 8
  | 0x12 => some 1
  | 0x0E | 0x0F | 0x11 | 0x14 => some 3
  | 0x02 | 0x03 | 0x04 | 0x05 | 0x06 | 0x08 | 0x0B | 0x0C | 0x0D | 0x10 | 0x13 | 0x15 | 0x19 => some 2
  | 0x16 | 0x17 | 0x18 => some 0
  | _ => none

/-! ### Points (R4, R5, R13) -/

/-- The handle of slot `i` as a request carries it (R2). -/
def State.rawHandle (s : State) (i : SlotNo) : RawHandle := ⟨BitVec.ofFin i, (s.generation i).zeroExtend 8⟩

/-- What DEFINE fixes for a point until its slot becomes FREE (R4, R5, R69): identity, period, stale limit, alert-driven
and restore. -/
structure Identity where
  segment : SegId
  address : Address
  item : Byte
  width : Width
  signed : Bool
  isOutput : Bool
  period : Option Interval
  staleLimit : Option Interval
  alertDriven : Bool
  restore : Option Bool
  deriving DecidableEq, Repr

/-- The fixed fields of a point. -/
def Point.identity (pt : Point) : Identity :=
  { segment := pt.segment, address := pt.address, item := pt.item, width := pt.width, signed := pt.signed
    isOutput := pt.isOutput, period := pt.period, staleLimit := pt.staleLimit, alertDriven := pt.alertDriven
    restore := pt.command.map (·.restore) }

/-- The fixed fields of the point in slot `i`; none for a FREE slot. -/
def State.ident (s : State) (i : SlotNo) : Option Identity := (s.point? i).map Point.identity

/-- What a transaction of another point, a notification or the loss or return of a node leaves alone in a record: its
configuration and standing, its owner, its subscriptions and its command (TABLE 1-1). -/
structure Standing where
  state : PointState
  limits : Option Limits
  deadband : Option Value
  value : Option StoredValue
  reported : Option Value
  quality : Quality
  failures : Nat
  alarm : Alarm
  late : Bool
  inFlight : Option Flight
  staleDue : Option Time
  owner : Option Port
  subscriptions : PerPort SubSet
  command : Option Command
  identity : Identity
  deriving DecidableEq, Repr

/-- The standing of a record. -/
def Point.standing (pt : Point) : Standing :=
  { state := pt.state, limits := pt.limits, deadband := pt.deadband, value := pt.value, reported := pt.reported
    quality := pt.quality, failures := pt.failures, alarm := pt.alarm, late := pt.late, inFlight := pt.inFlight
    staleDue := pt.staleDue, owner := pt.owner, subscriptions := pt.subscriptions, command := pt.command
    identity := pt.identity }

/-- Every slot but `i` keeps its generation and its point's standing. -/
def standingsKept (i : SlotNo) (s t : State) : Prop :=
  ∀ j, j ≠ i → t.generation j = s.generation j ∧ (t.point? j).map Point.standing = (s.point? j).map Point.standing

/-- Two points name the same segment, node address and item index (R13). -/
def Identity.sameItem (a b : Identity) : Bool :=
  a.segment == b.segment && a.address == b.address && a.item == b.item

/-- No two non-FREE points name the same segment, node address and item index (R13). -/
def State.noDuplicates (s : State) : Prop :=
  ∀ i j a b, s.ident i = some a → s.ident j = some b → a.sameItem b = true → i = j

/-- The relations of R5 and R12 between the fixed fields of a point: its address, the range of its period, a stale limit greater
than the period on an INPUT and none on an OUTPUT, alert-driven and restore only with a period. -/
def Identity.fieldsOk (a : Identity) : Prop :=
  0x10 ≤ a.address.toNat ∧ a.address.toNat ≤ 0x6F ∧
    (∀ n, a.period = some n → (if a.isOutput then 50 else 5) ≤ n.toNat ∧ n.toNat ≤ 60000) ∧
    (a.isOutput = false → ∃ n l, a.period = some n ∧ a.staleLimit = some l ∧ n.toNat < l.toNat) ∧
    (a.isOutput = true → a.staleLimit = none) ∧ (a.alertDriven = true → a.period ≠ none) ∧
    (a.restore = some true → a.isOutput = true ∧ a.period ≠ none)

/-- The fixed fields of every point keep the relations of R5 and R12. -/
def State.fieldsOk (s : State) : Prop := ∀ i a, s.ident i = some a → a.fieldsOk

/-- What one command may do to a slot: keep its generation and its point's fixed fields, fill it while it is FREE, or free
it with its generation advanced by one (R3, R4, R14). -/
def slotRule (s t : State) (i : SlotNo) : Prop :=
  (t.generation i = s.generation i ∧ (t.ident i = s.ident i ∨ s.ident i = none)) ∨
    (s.ident i ≠ none ∧ t.ident i = none ∧ t.generation i = s.generation i + 1)

/-! ### Notification queues (R146, R150) -/

/-- The sequence numbers of entries run consecutively from `n` (R147). -/
def consecutiveFrom (n : SeqNo) : List Entry → Prop
  | [] => True
  | e :: rest => e.seq = n ∧ consecutiveFrom (n + 1) rest

/-- A queue holds at most 64 entries, numbered consecutively up to the one before the next sequence number (R146). -/
def Notify.wellNumbered (q : Notify) : Prop :=
  q.queue.length ≤ queueCapacity ∧ consecutiveFrom (q.nextSeq - BitVec.ofNat 16 q.queue.length) q.queue

/-- Both queues keep the law of R146. -/
def State.queuesOk (s : State) : Prop := ∀ p, (s.notifyOf p).wellNumbered

/-- The point in slot `i` carries a pending mark for port `p` (R8). -/
def State.marked (s : State) (p : Port) (i : SlotNo) : Bool := (s.point? i).any (·.marks.get p)

/-- A point or the port's system mark stands marked only while the port's queue holds 64 entries (R150). -/
def State.marksOk (s : State) : Prop :=
  ∀ p, ((s.notifyOf p).systemMark = true ∨ ∃ i, s.marked p i = true) → (s.notifyOf p).queue.length = queueCapacity

/-- A queue is only added to: its entries stay as they are, and new ones are numbered on at its tail (R146, R147). -/
def Notify.extends (q r : Notify) : Prop :=
  r.enabled = q.enabled ∧ r.nodeEvents = q.nodeEvents ∧
    ∃ l, r.queue = q.queue ++ l ∧ consecutiveFrom q.nextSeq l ∧ r.nextSeq = q.nextSeq + BitVec.ofNat 16 l.length ∧
      (l ≠ [] → r.queue.length ≤ queueCapacity)

/-! ### The node directory (R91, R92) -/

/-- How many non-FREE points name the node `x` of segment `g` (R92). -/
def State.pointsNaming (s : State) (g : SegId) (x : Address) : Nat :=
  allSlots.countP fun i => (s.ident i).any fun a => a.segment == g && a.address == x

/-- At most 64 entries in the order of their keys, so at most one for a key (R91, R103), each with the number of points that
name its node, from 1 to 32, and an entry for every node that a point names (R91, R92). -/
def State.directoryOk (s : State) : Prop :=
  s.directory.length ≤ directoryCapacity ∧
    s.directory.Pairwise (fun e f => e.before f = true) ∧
    (∀ e ∈ s.directory, e.points = s.pointsNaming e.segment e.address ∧ 1 ≤ e.points ∧ e.points ≤ nodePointLimit) ∧
    ∀ i a, s.ident i = some a → ∃ e ∈ s.directory, e.hasKey a.segment a.address = true

/-! ### The command queues (R69, R70) -/

/-- The command state is QUEUED. -/
def Stand.isQueued : Stand → Bool
  | .queued _ _ => true
  | _ => false

/-- The values of a command that have not been closed: its desired value while it waits or is delivered, then its next
value (R85). -/
def Stand.openValues : Stand → List Issued
  | .pending v _ => [v]
  | .queued v _ => [v]
  | .writing v none => [v]
  | .writing v (some nv) => [v, nv.issued]
  | .verifying v none => [v]
  | .verifying v (some nv) => [v, nv.issued]
  | .noCommand => []
  | .confirmed _ => []
  | .failed _ _ => []

/-- The point in slot `i` is an OUTPUT of segment `g`, ACTIVE, with its command QUEUED (R70). -/
def State.queuedOn (s : State) (g : SegId) (i : SlotNo) : Bool :=
  (s.point? i).any fun pt => pt.segment == g && pt.isActive && pt.command.any (·.stand.isQueued)

/-- Only an ACTIVE point holds QUEUED, and a segment's command queue holds a point exactly when it is ACTIVE, an OUTPUT
of the segment and QUEUED, each point once (R69, R70). -/
def State.commandQueuesOk (s : State) : Prop :=
  (∀ i pt, s.point? i = some pt → pt.command.any (·.stand.isQueued) = true → pt.isActive = true) ∧
    ∀ g, (s.segment g).commandQueue.Nodup ∧ ∀ i, i ∈ (s.segment g).commandQueue ↔ s.queuedOn g i = true

/-! ### The poll schedules (R33) and the transactions in flight (R7) -/

/-- The point in slot `i` is one that segment `g`'s schedule holds: ACTIVE, of scheduled kind, nothing in flight, its node
not LOST (R33). -/
def State.scheduledOn (s : State) (g : SegId) (i : SlotNo) : Bool :=
  (s.point? i).any fun pt => pt.segment == g && s.wantsEntry pt

/-- A segment's schedule holds an entry exactly for each point of R33, each point once. -/
def State.schedulesOk (s : State) : Prop :=
  ∀ g, ((s.segment g).schedule.map (·.slot)).Nodup ∧
    ∀ i, i ∈ (s.segment g).schedule.map (·.slot) ↔ s.scheduledOn g i = true

/-- The point a transaction serves and the value of its in flight field (R7, R111). -/
def Work.flight : Work → Option (SlotNo × FlightKind)
  | .read kind i _ _ _ => some (i, kind.flight)
  | .write i _ _ _ _ => some (i, .write)
  | .probe _ => none
  | .scanStep _ => none
  | .roll => none

/-- What is in flight for slot `i`: the kind its in flight field names. -/
def State.flightOf (s : State) (i : SlotNo) : Option FlightKind :=
  (s.point? i).bind fun pt => pt.inFlight.map (·.kind)

/-- The transaction in flight on segment `g` serves the point in slot `i` as `kind`; a cleared transaction serves none. -/
def State.servesOn (s : State) (g : SegId) (i : SlotNo) (kind : FlightKind) : Prop :=
  ∃ t, (s.segment g).transaction = some t ∧ t.cleared = false ∧ t.work.flight = some (i, kind)

/-- A point's in flight field names a transaction exactly when its own segment's transaction in flight serves it (R7). -/
def State.flightsOk (s : State) : Prop :=
  (∀ g i kind, s.servesOn g i kind → s.flightOf i = some kind ∧ (s.point? i).any (·.segment == g) = true) ∧
    ∀ i kind, s.flightOf i = some kind → ∃ g, s.servesOn g i kind

/-! ### What the end of a transaction leaves alone (R34, R94 to R99) -/

/-- An outcome of a transaction to the node of a key neither returns that node nor loses it (R95, R96, R99). -/
def State.nodeStays (s : State) (g : SegId) (x : Address) (outcome : TxOutcome) : Prop :=
  ∀ e, s.nodeEntry? g x = some e → (outcome = .noNode → e.presence = .lost ∨ e.misses < 7) ∧
    (outcome ≠ .noNode → outcome.fault? = none → e.presence ≠ .lost)

/-- A segment as the end of its transaction leaves it: with none in flight and, after a segment fault, RECOVERING from the
fault's cause, its first attempt under way (R29, R137). -/
def Segment.afterEnd (x : Segment) (outcome : TxOutcome) : Segment :=
  match outcome.fault? with
  | none => { x with transaction := none }
  | some cause =>
    { x with
      transaction := none, state := .recovering, cause := some cause, attempts := 0, retryTime := none, fairness := 0 }

/-- What the end of a transaction to the node `x` of segment `g` leaves alone: all that is no record, queue or segment; the
entries the queues hold, and the whole queue of a port whose notifications are off; the other segment, and what a segment is beside its schedule, command queue and scan; the scan, but
for a scan step; every generation; the standing of every point but the one it serves, and the whole record and schedule entry
of such a point that does not name the node, or when the node neither returns nor is lost; every other directory entry, and
the directory when no entry has the key. A transaction that serves no point leaves the command queues alone, and the schedules
unless the node returns or is lost (R34, R94, R95, R96, R99). -/
def transactionFrame (g : SegId) (x : Address) (work : Work) (outcome : TxOutcome) (s t : State) : Prop :=
  { t with slots := s.slots, directory := s.directory, segments := s.segments, notify := s.notify } = s ∧
    (∀ p, (s.notifyOf p).extends (t.notifyOf p) ∧ ((s.notifyOf p).enabled = false → t.notifyOf p = s.notifyOf p)) ∧
    (∀ h, { t.segment h with
        schedule := (s.segment h).schedule, commandQueue := (s.segment h).commandQueue, scan := (s.segment h).scan } =
      if h = g then (s.segment h).afterEnd outcome else s.segment h) ∧
    (∀ h, h ≠ g ∨ (∀ y, work ≠ .scanStep y) → (t.segment h).scan = (s.segment h).scan) ∧
    (work.flight = none → ∀ h, (t.segment h).commandQueue = (s.segment h).commandQueue ∧
      (s.nodeStays g x outcome → (t.segment h).schedule = (s.segment h).schedule)) ∧
    (∀ j, t.generation j = s.generation j) ∧
    (∀ j, some j ≠ work.flight.map (·.1) →
      (t.point? j).map Point.standing = (s.point? j).map Point.standing ∧
      (s.nodeStays g x outcome ∨ (∀ pt, s.point? j = some pt → pt.names g x = false) →
        t.point? j = s.point? j ∧ ∀ h, t.entryOf? h j = s.entryOf? h j)) ∧
    (∀ h y, (h, y) ≠ (g, x) → t.nodeEntry? h y = s.nodeEntry? h y) ∧
    (s.nodeEntry? g x = none → t.directory = s.directory)

/-! ### The segment engines (TABLE 7-1) -/

/-- A segment engine's fields agree (R105, R127, R130, R135, R138): a transaction only while UP; a recovery cause exactly
while RECOVERING or DOWN; attempts 0 while OFF or UP, below 3 while RECOVERING and 3 while DOWN; a retry time only while
RECOVERING, after an attempt; fairness at most 4, and 0 unless UP; no alert suppression while OFF. -/
def Segment.engineOk (x : Segment) : Prop :=
  (x.transaction ≠ none → x.state = .up) ∧ (x.cause ≠ none ↔ x.state = .recovering ∨ x.state = .down) ∧
    (x.state = .off ∨ x.state = .up → x.attempts = 0) ∧ (x.state = .recovering → x.attempts < 3) ∧
    (x.state = .down → x.attempts = 3) ∧ (x.retryTime ≠ none → x.state = .recovering ∧ 1 ≤ x.attempts) ∧
    x.fairness ≤ fairnessLimit ∧ (x.state ≠ .up → x.fairness = 0) ∧ (x.state = .off → x.suppression = none)

/-- Both engines keep the law of TABLE 7-1. -/
def State.enginesOk (s : State) : Prop := ∀ g, (s.segment g).engineOk

/-! ### Levels of FD on the field link (R106, R108, R115) -/

/-- Bit `k` of a byte in the order of the link, most significant first (R108). -/
def wireBit (b : Byte) (k : Nat) : Bool := b.getLsbD (7 - k)

/-- The nodes let the first bits of byte `b` pass: they leave FD released in each that the engine sends as 1 (R115). -/
def unfought (b : Byte) (levels : List Bool) : Prop :=
  ∀ k, k < levels.length → wireBit b k = true → levels[k]? = some true

/-- Nine levels in which byte `b` passes; in the ninth the nodes leave FD released to refuse it, or pull it low to accept
it (R108). -/
def answered (b : Byte) (refuse : Bool) (levels : List Bool) : Prop :=
  ∃ l, levels = l ++ [refuse] ∧ l.length = 8 ∧ unfought b l

/-- The levels in which bytes pass one after the other, each accepted. -/
def accepted : List Byte → List Bool → Prop
  | [], levels => levels = []
  | b :: rest, levels => ∃ l m, levels = l ++ m ∧ answered b false l ∧ accepted rest m

/-- The levels up to a bit of byte `b` that the engine sends as 1 and a node holds low (R115). -/
def fights (b : Byte) (levels : List Bool) : Prop :=
  ∃ l, levels = l ++ [false] ∧ l.length < 8 ∧ unfought b l ∧ wireBit b l.length = true

/-- The levels in which the nodes send bytes, each in eight bits; what they do in its acceptance bit is open (R108). -/
def nodesSend : List Byte → List Bool → Prop
  | [], levels => levels = []
  | b :: rest, levels => ∃ a m, levels = (List.range 8).map (wireBit b) ++ a :: m ∧ nodesSend rest m

end Sys2Proof.Machine
end

