-- ==== Sys2Proof/WellFormed.lean ====
section
/-! DEFINITION. WellFormed.lean: which commands are well formed. A command outside these checks is still given its
effect by the machine (a READ_MANY whose count lies about its handles is answered BAD_LENGTH, for example): the checks
say which terms stand for a command the table's row describes. -/

namespace Sys2Proof

/-- The requests whose body can stand in a frame and that carry what they declare: a READ_MANY carries as many handles
as its count says (R51), and no more than fit a body of 96 bytes (TABLE 11-1). -/
def Request.wellFormed : Request → Bool
  | .readMany count handles => count.toNat == handles.length && handles.length ≤ 47
  | _ => true

/-- A recovery attempt pulses FC at most twelve times (R137). -/
def RecoveryReads.wellFormed (r : RecoveryReads) : Bool := r.pulses.length ≤ 12

/-- The cycles a cleared transaction can still make: the nine of a byte, then its STOP (R120). -/
def clearedCycles : Nat := 10

/-- The well-formed commands. A host request transaction is opened by 0xA5 (R179, R180), and a frame that becomes complete
while another one is carried out has a body of at most 96 bytes (R180, R187). -/
def Instr.wellFormed : Instr → Bool
  | .readMany _ _ count handles => (Request.readMany count handles).wellFormed
  | .hostRequestTransaction bytes => bytes.head? == some 0xA5
  | .requestTaken _ arriving => arriving.all fun f => f.body.length ≤ 96
  | .recoveryAttemptEnd _ reads => reads.wellFormed
  | .clearEndTransaction _ _ levels => levels.length ≤ clearedCycles
  | _ => true

end Sys2Proof
end

