-- ==== Sys2Proof/Certificates/Slice0/Obligations.lean ====
section
/-! DEFINITION. Certificates/Slice0/Obligations.lean: the statements about the model, from the numbered rules of the manual. A
docstring names the rules a statement rests on, and the log entry of a clause that is the model's own. -/

open Sys2Proof Sys2Proof.Machine

/-! ### The queue of commands, time and reset -/

/-- The step takes the command at the front of the queue and runs it with the queue's rest waiting. The queue is the
model's own (log entry 5). -/
def Obligations.StepRunsTheCommandAtTheFront : Prop :=
  ∀ (c : Instr) (rest : List Instr) (s : State), s.pending = c :: rest → step s = exec c (s.setPending rest)

/-- On an empty queue the part goes on of itself: the request that a port offers is taken (R161); with none, an idle engine for
whose work a start would be granted chooses, segment A's before B's (R133); then an expiry that is due is taken (R32); the
roster clock counts one millisecond (R30) only when there is none of these and no hard reset lasts (R191), and then no
request command, no choice and no expiry command would have an effect. That the step does these things, and in this order,
is log entry 5; that the lines then read as last observed is log entry 7; that no time passes while hard reset lasts is log
entry 14. -/
def Obligations.ClockAdvancesOnlyWhenNothingIsDue : Prop :=
  ∀ s : State, s.pending = [] →
    ∀ chooses : SegId → Prop,
    (chooses = fun g => (s.segment g).state = .up ∧ (s.segment g).transaction = none ∧ s.granted g ≠ none) →
    ∀ offered : Prop, (offered = ∃ p, (s.portOf p).request ≠ none ∧ (s.portOf p).response = none) →
    ∀ take : Instr, take = .requestTaken ⟨(s.segment .a).lines, (s.segment .b).lines⟩ [] →
    (offered → step s = exec take s) ∧
    (¬offered → chooses .a → step s = exec (.arbiterChoose .a (s.segment .a).lines) s) ∧
    (¬offered → ¬chooses .a → chooses .b → step s = exec (.arbiterChoose .b (s.segment .b).lines) s) ∧
    (¬offered → ¬chooses .a → ¬chooses .b →
      (∀ c, s.nextExpiry = some c → step s = exec c s) ∧
      (s.nextExpiry = none →
        step s = .next (if s.inReset then s else { s with clock := s.clock + 1 }) ∧
          exec take s = .next s ∧ exec .consoleGapExpiry s = .next s ∧
          (∀ g, exec (.arbiterChoose g (s.segment g).lines) s = .next s ∧ exec (.lineCheckExpiry g) s = .next s ∧
            exec (.holdAllowanceExpiry g) s = .next s ∧ exec (.transactionLimitExpiry g) s = .next s ∧
            exec (.recoveryRetryExpiry g) s = .next s ∧ exec (.alertSuppressionExpiry g) s = .next s ∧
            exec (.pollDueExpiry g) s = .next s ∧ ∀ x, exec (.probeExpiry g x) s = .next s) ∧
          ∀ i, exec (.deadlineExpiry i) s = .next s ∧ exec (.nextValueDeadlineExpiry i) s = .next s ∧
            exec (.staleExpiry i) s = .next s ∧ exec (.ageCapExpiry i) s = .next s ∧
            ∀ w, exec (.dueCapExpiry i w) s = .next s))

/-- R31: when one reading is later than, earlier than or equal to another, when a due time has been reached, and that a due
time set an interval after the present reading is later than it and is reached from its own reading on for 2^31 ms. -/
def Obligations.TimesAreComparedByModularDifference : Prop :=
  (∀ t u : Time,
    (laterThan t u = true ↔ 1 ≤ (t.toNat + 2 ^ 32 - u.toNat) % 2 ^ 32 ∧ (t.toNat + 2 ^ 32 - u.toNat) % 2 ^ 32 ≤ 2 ^ 31 - 1) ∧
    (earlierThan t u = true ↔
      2 ^ 31 ≤ (t.toNat + 2 ^ 32 - u.toNat) % 2 ^ 32 ∧ (t.toNat + 2 ^ 32 - u.toNat) % 2 ^ 32 ≤ 2 ^ 32 - 1) ∧
    (t = u ↔ (t.toNat + 2 ^ 32 - u.toNat) % 2 ^ 32 = 0) ∧
    (reached u t = true ↔ t = u ∨ laterThan t u = true)) ∧
    ∀ (now : Time) (d : Interval), d ≠ 0 → laterThan (after now d) now = true ∧ reached (after now d) now = false ∧
      ∀ k : Nat, k < 2 ^ 31 → reached (after now d) (after now d + BitVec.ofNat 32 k) = true

/-- Hard reset puts every block into its state after hard reset (R27, R104, R126, R127, R141, R145, R146, R159, R161, R183,
R186), whatever was there before, with the roster clock at 0 (R30). While it lasts RDY and ATTN are low, CTXD is high, the
field lines are released and HSDO is driven only while HSEL_N is low (R191); no other command changes a block, and no time
passes. When it ends the straps are latched and a host transaction under way is ignored. Every law of the records holds
then, and at State.reset. That HARD_RESET keeps the levels stored of the field lines and the waiting commands, which stand
outside the part, and that it is two commands, is log entry 14. -/
def Obligations.HardResetLeavesEveryBlockAtItsResetValue : Prop :=
  ∀ laws : State → Prop,
    (laws = fun t => t.noDuplicates ∧ t.fieldsOk ∧ t.queuesOk ∧ t.marksOk ∧ t.directoryOk ∧ t.commandQueuesOk ∧
      t.schedulesOk ∧ t.flightsOk ∧ t.enginesOk) →
    ∀ blocks : State → Prop,
    (blocks = fun t => t.clock = 0 ∧ (∀ i, t.point? i = none ∧ t.generation i = 0) ∧ t.directory = [] ∧
      (∀ g, ∃ lines, t.segment g =
        { state := .off, speed := .kbit100, transaction := none, fairness := 0, attempts := 0, cause := none
          retryTime := none, suppression := none, lines := lines, schedule := [], commandQueue := []
          scan := { state := .idle, found := [] } }) ∧
      (∀ p, t.notifyOf p = { queue := [], nextSeq := 0, enabled := true, nodeEvents := false, systemMark := false } ∧
        t.portOf p = { request := none, response := none, dropped := false }) ∧
      t.lastServed = .console ∧ (t.hostRx = .idle ∨ t.hostRx = .ignoring) ∧ t.assembly = .hunt ∧ t.gapDue = none ∧
      t.pins =
        { hsdoDriven := decide (t.hostRx = .ignoring), rdy := false, attn := false, ctxd := .idle
          fieldA := { fc := true, fd := true }, fieldB := { fc := true, fd := true } } ∧
      laws t) →
    laws State.reset ∧
    (∀ (crate1 crate0 : Bool) (s : State), ∃ u, exec (.hardReset crate1 crate0 .begins) s = .next u ∧ u.inReset = true ∧ blocks u ∧
      (u.hostRx = .idle ↔ s.hostRx = .idle) ∧ u.pending = s.pending ∧
      ∀ g, (u.segment g).lines = (s.segment g).lines) ∧
    (∀ (u : State) (c : Instr), u.inReset = true → blocks u → (∀ x y e, c ≠ .hardReset x y e) →
      ∃ v, exec c u = .next v ∧ v.inReset = true ∧ blocks v ∧ v.pending = u.pending) ∧
    (∀ u : State, u.inReset = true → blocks u → u.pending = [] → step u = .next u) ∧
    ∀ (crate1 crate0 hselLow : Bool) (s : State), ∃ t, exec (.hardReset crate1 crate0 (.ends hselLow)) s = .next t ∧
      t.inReset = false ∧ blocks t ∧ t.hostRx = (if hselLow then .ignoring else .idle) ∧
      t.consoleRate = (match crate1, crate0 with
        | false, false => .r9600
        | false, true => .r38400
        | true, false => .r115200
        | true, true => .r230400) ∧
      t.pending = s.pending ∧ ∀ g, (t.segment g).lines = (s.segment g).lines

/-! ### Frames and the taking of requests -/

/-- One response fills the port's response slot with the tag, the status, the body, DROPPED as the dropped flag stood and
QUEUE as the port's own queue stands; the dropped flag is cleared and nothing else changes (R162, R166, R178). The bytes of a
response frame in their order (R187, TABLE 11-1): tag, status, flags with DROPPED in bit 0 and QUEUE in bit 1, body length,
body, and the CRC of all these bytes with its high byte first. -/
def Obligations.ResponseFillsTheSlotOfItsPort : Prop :=
  (∀ (p : Port) (tag : Byte) (r : Reply) (t : State),
    (responded p tag r t).portOf p =
      { request := (t.portOf p).request, dropped := false
        response := some
          { tag := tag, status := r.status, droppedFlag := (t.portOf p).dropped
            queueFlag := decide ((t.notifyOf p).queue ≠ []), body := r.body } } ∧
    (responded p tag r t).portOf p.other = t.portOf p.other ∧ { responded p tag r t with ports := t.ports } = t) ∧
  ∀ (f : ResponseFrame) (covered : List Byte),
    covered = f.tag :: f.status.code :: ((if f.droppedFlag then 0x01 else 0x00) ||| (if f.queueFlag then 0x02 else 0x00))
      :: BitVec.ofNat 8 f.body.length :: f.body →
    f.bytes = covered ++ [(crc16 covered).extractLsb' 8 8, (crc16 covered).extractLsb' 0 8]

/-- A request command is a whole frame arriving at its port: dropped when a slot of the port is full or its body is longer
than 96 bytes, stored when the other port's turn comes first, else carried out and answered at once, its port then the
one served last (R161, R162, R177, R180; that a command stands for a whole frame is log entry 6, and that an ENABLE brings the
levels it reads, and stores them, log entry 7). While hard reset lasts it has no effect (R191, log entry 14). When the slots
of a port are full, when the other port comes first, and what dropping, storing and serving change. -/
def Obligations.RequestCommandIsDroppedOrWaitsOrIsAnswered : Prop :=
  (∀ (p : Port) (f : RequestFrame) (s : State),
    (s.slotsBusy p = true ↔ (s.portOf p).request ≠ none ∨ (s.portOf p).response ≠ none) ∧
    (s.goesFirst p = false ↔ s.lastServed = p ∧ (s.portOf p.other).request ≠ none ∧ (s.portOf p.other).response = none) ∧
    s.setDropped p = s.setPort p { s.portOf p with dropped := true } ∧
    s.storeRequest p f = s.setPort p { s.portOf p with request := some f } ∧ s.served p = { s with lastServed := p }) ∧
  ∀ (c : Instr) (p : Port) (tag : Byte) (r : Request) (s : State), asRequest c = some (p, tag, r) →
    (s.inReset = true → exec c s = .next s) ∧
    (s.inReset = false → s.slotsBusy p = true ∨ 96 < r.body.length → exec c s = .next (s.setDropped p)) ∧
    (s.inReset = false → s.slotsBusy p = false → r.body.length ≤ 96 → s.goesFirst p = false →
      exec c s = .next (s.storeRequest p (frameOf tag r))) ∧
    (s.ready p = true → r.body.length ≤ 96 → (∀ q u b x y, c ≠ .enable q u b x y) →
      exec c s = .next (responded p tag (carryOut p r (s.served p)).2 (carryOut p r (s.served p)).1)) ∧
    ∀ q u b x y, c = .enable q u b x y → s.ready p = true →
      ∃ v, (v = s ∨ ∃ g, v = s.setLines g { (s.segment g).lines with fc := x, fd := y }) ∧
        exec c s = .next (responded p tag (carryOut p r (v.served p)).2 (carryOut p r (v.served p)).1)

/-- The first three tests of a frame: a CRC that differs is FRAME_ERROR; then a kind outside the twenty-five is UNKNOWN_KIND;
then a body of another length than TABLE 11-3 gives is BAD_LENGTH; a frame of a request's own kind and body is that
request (R163, R189). Whatever the frame and whichever step refuses it, a refusal has an empty body and changes no record
(R165, R166). The CRC-16 is the register of R187, eight steps for each byte, over the tag, the kind, the body length and the
body; the length that each kind requires is that of TABLE 11-3, of a READ_MANY that of the count its first byte declares. -/
def Obligations.FrameIsJudgedInOrderAndARefusalChangesNothing : Prop :=
  (crc16 [] = 0xFFFF ∧
    (∀ (l : List Byte) (b : Byte), crc16 (l ++ [b]) =
      Nat.repeat (fun r : BitVec 16 => if r.getLsbD 15 then (r <<< 1) ^^^ 0x1021 else r <<< 1) 8 (crc16 l ^^^ (b ++ 0#8))) ∧
    crc16 [0x31, 0x32, 0x33, 0x34, 0x35, 0x36, 0x37, 0x38, 0x39] = 0x29B1 ∧
    ∀ f : RequestFrame, f.covered = f.tag :: f.kind :: BitVec.ofNat 8 f.body.length :: f.body) ∧
  (∀ body : List Byte,
    (∀ kind : Byte, kind = 0 ∨ 25 < kind.toNat → requiredLength kind body = none) ∧
    (∀ x : Byte × Nat,
      x ∈ [(0x01, 11), (0x02, 2), (0x03, 2), (0x04, 2), (0x05, 2), (0x06, 2), (0x08, 2), (0x09, 20), (0x0A, 8), (0x0B, 2),
        (0x0C, 2), (0x0D, 2), (0x0E, 3), (0x0F, 3), (0x10, 2), (0x11, 3), (0x12, 1), (0x13, 2), (0x14, 3), (0x15, 2),
        (0x16, 0), (0x17, 0), (0x18, 0), (0x19, 2)] → requiredLength x.1 body = some x.2) ∧
    requiredLength 0x07 [] = some 1 ∧
    ∀ count rest, body = count :: rest → requiredLength 0x07 body = some (1 + 2 * count.toNat)) ∧
  ∀ (p : Port) (f : RequestFrame) (s : State),
    (crc16 f.covered ≠ f.crc → judge p f s = (s, ⟨.frameError, []⟩)) ∧
    (crc16 f.covered = f.crc → (f.kind = 0 ∨ 25 < f.kind.toNat) → judge p f s = (s, ⟨.unknownKind, []⟩)) ∧
    (crc16 f.covered = f.crc → ∀ n, requiredLength f.kind f.body = some n → f.body.length ≠ n →
      judge p f s = (s, ⟨.badLength, []⟩)) ∧
    (crc16 f.covered = f.crc → ∀ r : Request, r.wellFormed = true → f.kind = r.kindCode → f.body = r.body →
      judge p f s = carryOut p r s) ∧
    ((judge p f s).2.status ≠ .ok → (judge p f s).2.status ≠ .accepted →
      (judge p f s).1 = s ∧ (judge p f s).2.body = [])

/-- Every well-formed request is read back from its kind code and its body: no field of any body is dropped (R188, R189). The
kind code of each request is that of TABLE 11-3, its body has the fields of TABLE 11-5 at their offsets, the most significant
byte of each first, and its frame carries both behind the tag with the CRC of R187. -/
def Obligations.EncodedRequestDecodesToItself : Prop :=
  (∀ (h : RawHandle) (f : DefineFields) (l : LimitsFields) (v : Value) (d : Interval) (seq : SeqNo) (x y z : Byte)
    (handles : List RawHandle),
    ∀ coded : Byte → Request → List Byte → Prop, (coded = fun code r body => r.kindCode = code ∧ r.body = body) →
    ∀ two : BitVec 16 → List Byte, (two = fun w => [w.extractLsb' 8 8, w.extractLsb' 0 8]) →
    ∀ four : BitVec 32 → List Byte,
    (four = fun w => [w.extractLsb' 24 8, w.extractLsb' 16 8, w.extractLsb' 8 8, w.extractLsb' 0 8]) →
    ∀ handle : List Byte, handle = [h.slot, h.generation] →
    coded 0x01 (.define f) ([f.kind, f.segment, f.address, f.item, f.width, f.options] ++ two f.period ++ two f.staleLimit
      ++ [f.subscriptions]) ∧
    coded 0x02 (.activate h) handle ∧ coded 0x03 (.hold h) handle ∧ coded 0x04 (.retire h) handle ∧
    coded 0x05 (.describe h) handle ∧ coded 0x06 (.read h) handle ∧
    coded 0x07 (.readMany x handles) (x :: handles.flatMap fun k => [k.slot, k.generation]) ∧
    coded 0x08 (.refresh h) handle ∧
    coded 0x09 (.setLimits h l) (handle ++ [l.limitsAction] ++ four l.low ++ four l.high ++ four l.hysteresis
      ++ [l.deadbandAction] ++ four l.deadband) ∧
    coded 0x0A (.write h v d) (handle ++ four v ++ two d) ∧ coded 0x0B (.cancel h) handle ∧
    coded 0x0C (.nodeQuery x y) [x, y] ∧ coded 0x0D (.nodeList x y) [x, y] ∧
    coded 0x0E (.segmentControl x y z) [x, y, z] ∧ coded 0x0F (.scan x y z) [x, y, z] ∧
    coded 0x10 (.scanResult x y) [x, y] ∧ coded 0x11 (.subscribe h x) (handle ++ [x]) ∧ coded 0x12 (.fetch x) [x] ∧
    coded 0x13 (.ack seq) (two seq) ∧ coded 0x14 (.claim h x) (handle ++ [x]) ∧ coded 0x15 (.release h) handle ∧
    coded 0x16 .status [] ∧ coded 0x17 .time [] ∧ coded 0x18 .clear [] ∧ coded 0x19 (.portSet x y) [x, y] ∧
    (∀ w, bytes16 w = two w) ∧ (∀ w, bytes32 w = four w) ∧
    ∀ r, ∀ covered, covered = x :: r.kindCode :: BitVec.ofNat 8 r.body.length :: r.body →
      frameOf x r = ⟨x, r.kindCode, r.body, crc16 covered⟩ ∧ (frameOf x r).bytes = covered ++ two (crc16 covered)) ∧
  ∀ r : Request, r.wellFormed = true → decodeRequest r.kindCode r.body = .request r ∧ r.body.length ≤ 96 ∧
    requiredLength r.kindCode r.body = some r.body.length

/-- The frame of any well-formed request crosses either port: clocked behind 0xA5 into a host port that does not ignore the
transaction, or received byte by byte behind 0xC3 by a console port in HUNT, it is stored in the port's request slot when
the port's slots are empty; and when the unit takes it from there, it is carried out and answered as that request (R161,
R177, R179, R180, R184). That REQUEST_TAKEN brings the levels an ENABLE reads, and stores them, is log entry 7; that the host
port is idle after its transaction, and that the bytes shifted out are recorded, is log entries 11 and 13. -/
def Obligations.RequestCrossesThePorts : Prop :=
  ∀ (tag : Byte) (r : Request) (s : State) (la lb : Lines), r.wellFormed = true → s.inReset = false →
    ∀ taken : Port → State → Prop,
    (taken = fun p u => s.goesFirst p = true →
      ∃ v w, v = (u.setLines .a la).setLines .b lb ∧
        w = { v.setPort p { v.portOf p with request := none } with lastServed := p } ∧
        exec (.requestTaken ⟨la, lb⟩ []) u = .next (responded p tag (carryOut p r w).2 (carryOut p r w).1)) →
    (s.slotsBusy .host = false → s.hostRx ≠ .ignoring →
      ∃ u, exec (.hostRequestTransaction (0xA5 :: (frameOf tag r).bytes)) s = .next u ∧
        u = { s.storeRequest .host (frameOf tag r) with
          hostRx := .idle, hsdo := List.replicate (6 + r.body.length) 0 } ∧
        taken .host u) ∧
    (s.slotsBusy .console = false → s.assembly = .hunt →
      ∃ u, s.receives (0xC3 :: (frameOf tag r).bytes) = some u ∧
        u = { s.storeRequest .console (frameOf tag r) with gapDue := none } ∧ taken .console u)

/-! ### The point table -/

/-- DEFINE judged: first its fields, one by one (R12, R188), a DEFINE that breaks one being BAD_FIELD whatever the records
hold; that the set byte must be zero without its option is an inference from R188 (log entry 10). Then the resources in
their order (R13): a full table, then the same item, then a full directory without an entry for the node, then an entry
with 32 points; otherwise the lowest-numbered FREE slot. -/
def Obligations.DefineIsJudgedByItsFieldsThenItsResources : Prop :=
  (∀ f : DefineFields,
    ((checkDefine f).isSome = true ↔
      (f.kind = 0 ∨ f.kind = 1) ∧ (f.segment = 0 ∨ f.segment = 1) ∧ (0x10 ≤ f.address.toNat ∧ f.address.toNat ≤ 0x6F) ∧
      (f.width = 1 ∨ f.width = 2 ∨ f.width = 4) ∧
      (f.kind = 0 → 5 ≤ f.period.toNat ∧ f.period.toNat ≤ 60000 ∧ f.period.toNat < f.staleLimit.toNat) ∧
      (f.kind = 1 → (f.period = 0 ∨ 50 ≤ f.period.toNat ∧ f.period.toNat ≤ 60000) ∧ f.staleLimit = 0) ∧
      (f.options.getLsbD 1 = true → f.kind = 0 ∨ f.period ≠ 0) ∧
      (f.options.getLsbD 2 = true → f.kind = 1 ∧ f.period ≠ 0) ∧
      (f.options.getLsbD 5 = false ∧ f.options.getLsbD 6 = false ∧ f.options.getLsbD 7 = false) ∧
      (f.options.getLsbD 4 = true → f.kind = 0 → f.subscriptions.toNat < 8) ∧
      (f.options.getLsbD 4 = true → f.kind = 1 → f.subscriptions = 0 ∨ f.subscriptions = 4 ∨ f.subscriptions = 8 ∨
        f.subscriptions = 12) ∧
      (f.options.getLsbD 4 = false → f.subscriptions = 0)) ∧
    (checkDefine f = none → ∀ p s, carryDefine p f s = (s, ⟨.badField, []⟩)) ∧
    ∀ p s, carryOut p (.define f) s = carryDefine p f s) ∧
  (∀ (p : Port) (f : DefineFields) (d : Definition) (s : State), checkDefine f = some d →
    ((∀ i, s.point? i ≠ none) → carryDefine p f s = (s, ⟨.noSlot, []⟩)) ∧
    ((∃ i, s.point? i = none) →
      ((∃ j a, s.ident j = some a ∧ a.segment = d.segment ∧ a.address = d.address ∧ a.item = d.item) →
        carryDefine p f s = (s, ⟨.duplicate, []⟩)) ∧
      ((∀ j a, s.ident j = some a → ¬(a.segment = d.segment ∧ a.address = d.address ∧ a.item = d.item)) →
        (s.nodeEntry? d.segment d.address = none → 64 ≤ s.directory.length →
          carryDefine p f s = (s, ⟨.noNodeSlot, []⟩)) ∧
        (∀ e, s.nodeEntry? d.segment d.address = some e → 32 ≤ e.points → carryDefine p f s = (s, ⟨.nodeFull, []⟩)) ∧
        ((s.nodeEntry? d.segment d.address = none → s.directory.length < 64) →
          (∀ e, s.nodeEntry? d.segment d.address = some e → e.points < 32) →
          ∃ i, s.point? i = none ∧ (∀ j, j < i → s.point? j ≠ none) ∧ defineResources d s = .ok i))))

/-- DEFINE that passes creates a HELD point in the slot it takes, with the starting values of R6, R8 and R9 and the options
of R15, counts it for its node, and answers the handle (R14, R92). Its segment, node address, item index and width are those
its bytes name (R4, TABLE 11-5). That the directory is held in the order of its keys, segment A first, then by address, a new
entry in its place among them, is log entry 28. -/
def Obligations.DefineCreatesAHeldPoint : Prop :=
  (∀ (e : NodeEntry) (l : List NodeEntry),
    (∀ f : NodeEntry, e.before f = true ↔
      (e.segment = .a ∧ f.segment = .b) ∨ (e.segment = f.segment ∧ e.address.toNat < f.address.toNat)) ∧
    ∃ ahead behind, l = ahead ++ behind ∧ insertNode e l = ahead ++ e :: behind ∧ (∀ f ∈ ahead, e.before f = false) ∧
      ∀ f, behind.head? = some f → e.before f = true) ∧
  ∀ (p : Port) (tag : Byte) (f : DefineFields) (d : Definition) (i : SlotNo) (s : State), s.ready p = true →
    checkDefine f = some d → defineResources d s = .ok i →
    d.segment = (if f.segment = 0 then .a else .b) ∧ d.address = f.address.extractLsb' 0 7 ∧ d.item = f.item ∧
    d.width = (if f.width = 1 then .one else if f.width = 2 then .two else .four) ∧
    exec (.define p tag f) s = .next (responded p tag ⟨.ok, [BitVec.ofFin i, (s.generation i).zeroExtend 8]⟩
      (((s.served p).setPoint i
        { state := .held, segment := d.segment, address := d.address, item := f.item, width := d.width
          signed := f.options.getLsbD 0, period := if f.period = 0 then none else some f.period
          staleLimit := if f.staleLimit = 0 then none else some f.staleLimit, alertDriven := f.options.getLsbD 1
          limits := none, deadband := none, value := none, reported := none, quality := .empty, failures := 0
          alarm := .normal, late := false, inFlight := none, rhythmDue := none, staleDue := none
          owner := if f.options.getLsbD 3 then some p else none
          subscriptions := (PerPort.mk ⟨false, false, false, false⟩ ⟨false, false, false, false⟩).set p
            ⟨f.subscriptions.getLsbD 0, f.subscriptions.getLsbD 1, f.subscriptions.getLsbD 2, f.subscriptions.getLsbD 3⟩
          fresh := ⟨false, false⟩, marks := ⟨false, false⟩
          command := if f.kind = 1 then
              some { stand := .noCommand, attempts := 0, confirmedValue := none, restore := f.options.getLsbD 2 }
            else none }).setDirectory
        (match s.nodeEntry? d.segment d.address with
        | some _ =>
          s.directory.map fun e => if e.hasKey d.segment d.address then { e with points := e.points + 1 } else e
        | none =>
          insertNode
            { segment := d.segment, address := d.address, presence := .unconfirmed, points := 1, misses := 0, probe := none }
            s.directory)))

/-- The order of the tests of a request that carries one handle: BAD_HANDLE on a FREE slot, STALE_HANDLE on a slot of another
generation, a generation byte above 15 among them; then the point's kind, its state, the owner; each settles the
request whatever its fields carry (R2, R163, R164, R167, TABLE 1-4). The owner test passes on a point without an owner and on
the requesting port's own (R167). -/
def Obligations.HandleKindStateAndOwnerAreJudgedInOrder : Prop :=
  (∀ (pt : Point) (p : Port), pt.mayChange p = true ↔ pt.owner ≠ some p.other) ∧
  (∀ (p : Port) (h : RawHandle) (f : LimitsFields) (v : Value) (d : Interval) (b : Byte) (s : State) (r : Request),
    r ∈ [.activate h, .hold h, .retire h, .describe h, .read h, .refresh h, .setLimits h f, .write h v d, .cancel h,
      .claim h b, .release h, .subscribe h b] →
    (s.point? h.slot.toFin = none → carryOut p r s = (s, ⟨.badHandle, []⟩)) ∧
    (s.point? h.slot.toFin ≠ none → h.generation.toNat ≠ (s.generation h.slot.toFin).toNat →
      carryOut p r s = (s, ⟨.staleHandle, []⟩))) ∧
  (∀ (p : Port) (i : SlotNo) (pt : Point) (f : LimitsFields) (v : Value) (d : Interval) (b : Byte) (s : State),
    s.point? i = some pt →
    (∀ r ∈ [.refresh (s.rawHandle i), .setLimits (s.rawHandle i) f], pt.command ≠ none →
      carryOut p r s = (s, ⟨.wrongKind, []⟩)) ∧
    (∀ r ∈ [.write (s.rawHandle i) v d, .cancel (s.rawHandle i)], pt.command = none →
      carryOut p r s = (s, ⟨.wrongKind, []⟩)) ∧
    (∀ q, pt.state = .retiring q →
      (∀ r ∈ [.activate (s.rawHandle i), .hold (s.rawHandle i), .retire (s.rawHandle i), .claim (s.rawHandle i) b,
        .release (s.rawHandle i), .subscribe (s.rawHandle i) b], carryOut p r s = (s, ⟨.wrongState, []⟩)) ∧
      (∀ r ∈ [.refresh (s.rawHandle i), .setLimits (s.rawHandle i) f], pt.command = none →
        carryOut p r s = (s, ⟨.wrongState, []⟩)) ∧
      (∀ r ∈ [.write (s.rawHandle i) v d, .cancel (s.rawHandle i)], pt.command ≠ none →
        carryOut p r s = (s, ⟨.wrongState, []⟩))) ∧
    (pt.state = .held → pt.command = none → carryOut p (.refresh (s.rawHandle i)) s = (s, ⟨.wrongState, []⟩)) ∧
    (pt.owner = some p.other → (∀ q, pt.state ≠ .retiring q) →
      (∀ r ∈ [.activate (s.rawHandle i), .hold (s.rawHandle i), .retire (s.rawHandle i)],
        carryOut p r s = (s, ⟨.notOwner, []⟩)) ∧
      (pt.command = none → carryOut p (.setLimits (s.rawHandle i) f) s = (s, ⟨.notOwner, []⟩)) ∧
      (pt.command ≠ none → ∀ r ∈ [.write (s.rawHandle i) v d, .cancel (s.rawHandle i)],
        carryOut p r s = (s, ⟨.notOwner, []⟩))))

/-- ACTIVATE of a HELD point makes it ACTIVE: a scheduled-kind point with nothing in flight and a node not LOST enters its
schedule due now, a PENDING command is QUEUED at the tail, an input that holds a value resumes its stale expiry; nothing
else changes (R16, R34, R36, R47). That the expiry is armed, at the present reading under a raised age cap, and not taken
inside ACTIVATE itself is the model's choice (log entry 19). ACTIVATE of an ACTIVE point changes nothing (R17). Where an entry
is put in a schedule, here and at every other entering (R33): behind those it does not come before, ahead of the next one,
so that a schedule in its order stays so, the earlier due time first by R31 and the lower slot among equals; that entries
whose due cap has been taken come before all others is the model's choice (log entry 22). -/
def Obligations.ActivateMakesAHeldPointActive : Prop :=
  (∀ (e : SchedEntry) (l : List SchedEntry),
    (∀ f : SchedEntry, e.before f = true ↔
      (e.due.capped = true ∧ f.due.capped = false) ∨
        (e.due.capped = f.due.capped ∧
          (2 ^ 31 ≤ (e.due.time.toNat + 2 ^ 32 - f.due.time.toNat) % 2 ^ 32 ∨
            (e.due.time = f.due.time ∧ e.slot < f.slot)))) ∧
    (∃ ahead behind, l = ahead ++ behind ∧ insertEntry e l = ahead ++ e :: behind ∧
      (∀ f ∈ ahead, e.before f = false) ∧ ∀ f, behind.head? = some f → e.before f = true) ∧
    ∀ base : Time, (∀ f ∈ e :: l, (f.due.time - base).toNat < 2 ^ 31) → (∀ f ∈ l, f.slot ≠ e.slot) →
      l.Pairwise (fun f h => f.before h = true) → (insertEntry e l).Pairwise (fun f h => f.before h = true)) ∧
  ∀ (p : Port) (tag : Byte) (i : SlotNo) (pt : Point) (s : State), s.ready p = true → s.point? i = some pt →
    pt.mayChange p = true →
    (pt.state = .held → s.entryOf? pt.segment i = none →
      exec (.activate p tag (s.rawHandle i)) s = .next (responded p tag ⟨.ok, []⟩
        (((s.served p).setPoint i
          { pt with
            state := .active
            staleDue := if pt.command.isSome then pt.staleDue else
              (match pt.value, pt.staleLimit with
              | some v, some l => some (if v.capped then s.clock else v.time + l.zeroExtend 32)
              | _, _ => none)
            command := pt.command.map fun c =>
              { c with stand := match c.stand with
                | .pending v d => .queued v d
                | x => x } }).setSegment pt.segment
          { s.segment pt.segment with
            schedule :=
              if pt.period ≠ none ∧ pt.inFlight = none ∧ s.nodeLost pt.segment pt.address = false then
                insertEntry ⟨i, ⟨s.clock, false⟩, true⟩ (s.segment pt.segment).schedule
              else (s.segment pt.segment).schedule
            commandQueue := (s.segment pt.segment).commandQueue ++
              (match s.stand i with
              | .pending _ _ => [i]
              | _ => []) }))) ∧
    (pt.state = .active → exec (.activate p tag (s.rawHandle i)) s = .next (responded p tag ⟨.ok, []⟩ (s.served p)))

/-- HOLD of an ACTIVE point makes it HELD, out of its schedule and its command queue, without stale expiry or rhythm due; a
QUEUED command is PENDING again; a verification that has not started is skipped, and a next value then takes the desired
value's place (R18, R35, R37, R47, R80, R82). HOLD of a HELD point changes nothing (R17). That FAILED EXPIRED of a next value
reports attempts 0 is log entry 21. -/
def Obligations.HoldTakesAnActivePointOutOfService : Prop :=
  ∀ (p : Port) (tag : Byte) (i : SlotNo) (pt : Point) (s : State), s.ready p = true → s.point? i = some pt →
    pt.mayChange p = true →
    (pt.awaitsVerify = true ↔ ∃ v next, s.stand i = .verifying v next ∧ ∀ f, pt.inFlight = some f → f.kind ≠ .verify) ∧
    (pt.state = .held → exec (.hold p tag (s.rawHandle i)) s = .next (responded p tag ⟨.ok, []⟩ (s.served p))) ∧
    (pt.state = .active → ∀ w : Stand → State,
      (w = fun x => ((s.served p).setPoint i
          { pt with
            state := .held, staleDue := none, rhythmDue := none
            command := pt.command.map fun c => { c with stand := x } }).setSegment pt.segment
        { s.segment pt.segment with
          schedule := (s.segment pt.segment).schedule.filter (·.slot ≠ i)
          commandQueue :=
            match s.stand i with
            | .queued _ _ => (s.segment pt.segment).commandQueue.filter (· ≠ i)
            | _ => (s.segment pt.segment).commandQueue }) →
      (pt.awaitsVerify = false → exec (.hold p tag (s.rawHandle i)) s = .next (responded p tag ⟨.ok, []⟩
        (w (match s.stand i with
        | .queued v d => .pending v d
        | x => x)))) ∧
      (∀ v, pt.awaitsVerify = true → s.stand i = .verifying v none →
        exec (.hold p tag (s.rawHandle i)) s = .next (responded p tag ⟨.ok, []⟩ (w (.pending v none)))) ∧
      (∀ v nv, pt.awaitsVerify = true → s.stand i = .verifying v (some nv) →
        exec (.hold p tag (s.rawHandle i)) s = .next (responded p tag ⟨.ok, []⟩
          (if nv.expired then
            closeCommand i nv.issued (.failed .expired 0)
              (modCommand i (fun c => { c with stand := .failed nv.issued .expired, attempts := 0 })
                (closeCommand i v .superseded (w (.verifying v (some nv)))))
          else
            modCommand i (fun c => { c with stand := .pending nv.issued nv.deadline, attempts := 0 })
              (closeCommand i v .superseded (w (.verifying v (some nv))))))))

/-- RETIRE with nothing in flight withdraws every open value of the command, its desired value's notification first, and
frees the slot; with a transaction in flight the point goes RETIRING with its command withdrawn, out of the command queue,
its fresh wanted flags and its stale expiry gone (R21, R22, R23, R47). That a CONFIRMED or FAILED command becomes NONE too
as the point goes RETIRING is the model's choice (log entry 18). The freeing procedure: the point leaves its schedule and
its command queue, the slot is FREE with its generation advanced modulo 16, each pending mark becomes its port's system
mark, and the node's entry counts one point less and is removed at 0; nothing else changes (R3, R11, R92). -/
def Obligations.RetireFreesTheSlotNowOrLater : Prop :=
  (∀ (p : Port) (tag : Byte) (i : SlotNo) (pt : Point) (s : State), s.ready p = true → s.point? i = some pt →
    (∀ q, pt.state ≠ .retiring q) → pt.mayChange p = true →
    ∀ w : State, w = (s.stand i).openValues.foldl (fun t v => closeCommand i v .withdrawn t) (s.served p) →
    (pt.inFlight = none →
      exec (.retire p tag (s.rawHandle i)) s = .next (responded p tag ⟨.ok, [0]⟩ (freeSlot i w))) ∧
    (pt.inFlight ≠ none → ∃ m, (w.point? i) = some { pt with marks := m } ∧
      exec (.retire p tag (s.rawHandle i)) s = .next (responded p tag ⟨.ok, [1]⟩
        ((w.setPoint i
          { pt with
            marks := m, state := .retiring p, fresh := ⟨false, false⟩, staleDue := none
            command := pt.command.map fun c => { c with stand := .noCommand, attempts := 0 } }).setSegment pt.segment
          { s.segment pt.segment with commandQueue := (s.segment pt.segment).commandQueue.filter (· ≠ i) })))) ∧
  (∀ (i : SlotNo) (pt : Point) (s : State), s.point? i = some pt →
    freeSlot i s =
      { s with
        slots := s.slots.set i { generation := s.generation i + 1, point := none }
        segments := s.segments.set pt.segment
          { s.segment pt.segment with
            schedule := (s.segment pt.segment).schedule.filter (·.slot ≠ i)
            commandQueue := (s.segment pt.segment).commandQueue.filter (· ≠ i) }
        notify :=
          ⟨{ s.notify.host with systemMark := s.notify.host.systemMark || pt.marks.host },
           { s.notify.console with systemMark := s.notify.console.systemMark || pt.marks.console }⟩
        directory :=
          (s.directory.map fun e => if e.hasKey pt.segment pt.address then { e with points := e.points - 1 } else e).filter
            fun e => !(e.hasKey pt.segment pt.address && e.points == 0) })

/-- A transaction of a RETIRING point ends (R25): whatever it brought for the point is discarded, its effect on the node's
entry and on the segment is applied, then the slot is freed with its generation advanced, and RETIRED with the retired
handle goes to the retire requester, the last of the notifications made. Where the entry is not LOST and does not become
LOST, nothing else happens at all; where it returns or is lost, it and the other points of the node fare as by any other
outcome (R96, R99), and no other entry, record or schedule entry changes. -/
def Obligations.RetiringPointIsFreedAsItsTransactionEnds : Prop :=
  ∀ (g : SegId) (i : SlotNo) (x : Address) (item : Byte) (w : Width) (value : Value) (start released : Time) (pos : LinkPos)
    (levels : List Bool) (work : Work) (outcome : TxOutcome) (pt : Point) (requester : Port) (s : State) (c : Instr),
    (c, work) ∈ [(.pollCompletion g levels, .read .poll i x item w),
      (.refreshPollCompletion g levels, .read .refreshPoll i x item w),
      (.guardCompletion g levels, .read .guard i x item w), (.writeCompletion g levels, .write i x item w value),
      (.verifyCompletion g levels, Work.read .verify i x item w)] →
    (s.segment g).transaction = some ⟨work, .onWires start released pos, false⟩ →
    work.afterCycles false pos levels = .ended outcome → s.point? i = some pt → pt.state = .retiring requester →
    (∃ u, exec c s = .next u ∧ (u.segment g).transaction = none ∧ u.point? i = none ∧
      u.generation i = s.generation i + 1 ∧ standingsKept i s u ∧
      (∀ j q, j ≠ i → s.point? j = some q → q.names g x = false →
        u.point? j = some q ∧ ∀ h, u.entryOf? h j = s.entryOf? h j) ∧
      (pt.names g x = true → (∀ h y, (h, y) ≠ (g, x) → u.nodeEntry? h y = s.nodeEntry? h y) ∧
        ∀ e, s.nodeEntry? g x = some e → 1 < e.points →
          (∀ data, outcome = .done data ∨ outcome = .noAccept ∨ outcome = .checkFail → e.presence = .lost →
            u.nodeEntry? g x = some { e with presence := .present, misses := 0, probe := none, points := e.points - 1 } ∧
            ∀ j q, j ≠ i → s.point? j = some q → q.names g x = true → q.state = .active → q.period ≠ none →
              q.inFlight = none → s.entryOf? g j = none → u.entryOf? g j = some ⟨j, ⟨s.clock, false⟩, true⟩) ∧
          (outcome = .noNode → e.presence ≠ .lost → 7 ≤ e.misses →
            u.nodeEntry? g x = some
              { e with presence := .lost, misses := 8, probe := some ⟨s.clock + 1000, false⟩, points := e.points - 1 } ∧
            ∀ j q, j ≠ i → s.point? j = some q → q.names g x = true → u.entryOf? g j = none ∧
              ∃ q', u.point? j = some q' ∧ q'.rhythmDue = none ∧ q'.fresh = ⟨false, false⟩) ∧
          (outcome = .noNode ∨ outcome.fault? ≠ none → e.presence = .lost →
            u.nodeEntry? g x = some { e with points := e.points - 1 })) ∧
      (∀ cause, outcome.fault? = some cause → (u.segment g).state = .recovering ∧ (u.segment g).cause = some cause) ∧
      ((s.notifyOf requester).enabled = true → (s.notifyOf requester).queue.length + s.pointsNaming g x + 2 ≤ 64 →
        ∃ e, (u.notifyOf requester).queue.getLast? = some e ∧ e.time = s.clock ∧ e.note = .retired (s.handle i))) ∧
    ∀ v retired : State, v = s.setSegment g { s.segment g with transaction := none } →
    (retired = offerSystem requester (.retired (s.handle i)) (freeSlot i
      (v.setDirectory (s.directory.map fun e =>
        if e.hasKey g x = true then
          (match outcome with
          | .done _ | .noAccept | .checkFail => { e with presence := .present, misses := 0 }
          | .noNode => { e with misses := e.misses + 1 }
          | _ => e)
        else e)))) →
    (∀ e, s.nodeEntry? g x = some e → e.presence ≠ .lost ∧ (outcome = .noNode → e.misses < 7)) →
      (outcome.fault? = none → exec c s = .next retired) ∧
      (∀ cause, outcome.fault? = some cause → exec c s = .next (retired.setSegment g
        { retired.segment g with
          state := .recovering, cause := some cause, attempts := 0, retryTime := none, fairness := 0 }))

/-! ### Reading -/

/-- READ answers the record as it stands by the layout of TABLE 11-6, and changes no record (R50). The reported quality (R50):
FAULT at a failure count of 4 or more; otherwise STALE for an INPUT that is GOOD or STALE and whose value's age has reached
its stale limit; otherwise the stored quality. GOOD is reported of no other value. That an age is at most 65,535 also before
the age cap is taken is log entry 20. -/
def Obligations.ReadReportsTheRecordAndNeverVouchesForAnOldOrFailingValue : Prop :=
  (∀ (p : Port) (tag : Byte) (i : SlotNo) (pt : Point) (s : State), s.ready p = true → s.point? i = some pt →
    exec (.read p tag (s.rawHandle i)) s = .next (responded p tag
      ⟨.ok, [BitVec.ofFin i, (s.generation i).zeroExtend 8,
        flagBit pt.value.isSome 0 ||| flagBit (pt.command.bind (·.stand.desired)).isSome 1
          ||| flagBit (pt.command.bind (·.confirmedValue)).isSome 2 ||| flagBit pt.command.isSome 3]
        ++ bytes32 ((pt.value.map (·.value)).getD 0)
        ++ bytes16 (BitVec.ofNat 16 ((pt.value.map (·.age s.clock)).getD 0))
        ++ [(pt.reportedQuality s.clock).code, pt.alarm.code, if pt.late then 1 else 0, BitVec.ofNat 8 pt.failures,
          (pt.command.map (·.stand.code.code)).getD 0]
        ++ bytes32 ((pt.command.bind (·.stand.desired)).getD 0)
        ++ bytes32 ((pt.command.bind (·.confirmedValue)).getD 0)⟩ (s.served p))) ∧
  (∀ (v : StoredValue) (now : Time),
    v.age now = if v.capped then 65535 else min 65535 ((now.toNat + 2 ^ 32 - v.time.toNat) % 2 ^ 32)) ∧
  (∀ (pt : Point) (now : Time),
    (4 ≤ pt.failures → pt.reportedQuality now = .fault) ∧
    (∀ v l, pt.failures < 4 → pt.command = none → pt.value = some v → pt.staleLimit = some l →
      (pt.quality = .good ∨ pt.quality = .stale) →
      (l.toNat ≤ v.age now → pt.reportedQuality now = .stale) ∧
      (v.age now < l.toNat → pt.reportedQuality now = pt.quality)) ∧
    (pt.failures < 4 → (pt.quality = .empty ∨ pt.quality = .fault ∨ pt.command ≠ none ∨ pt.value = none ∨
      pt.staleLimit = none) → pt.reportedQuality now = pt.quality) ∧
    (pt.reportedQuality now = .good → pt.quality = .good ∧ pt.failures < 4 ∧
      ∀ v l, pt.command = none → pt.value = some v → pt.staleLimit = some l →
        v.capped = false ∧ ((now.toNat + 2 ^ 32 - v.time.toNat) % 2 ^ 32) < l.toNat))

/-- The codes of TABLE 11-2, TABLE 11-4, TABLE 11-6 and TABLE 11-8, a flag at its bit position, and the record of every kind
of notification by TABLE 11-7 and TABLE 11-8 (R188, R190): kind with generation, slot or segment, the time, and the payload.
-/
def Obligations.NotificationRecordsFollowTheirTables : Prop :=
  ([Quality.empty, .good, .stale, .fault].map Quality.code = [0, 1, 2, 3] ∧
    [Alarm.normal, .low, .high].map Alarm.code = [0, 1, 2] ∧
    [CommandCode.noCommand, .pending, .queued, .writing, .verifying, .confirmed, .failed].map CommandCode.code
      = [0, 1, 2, 3, 4, 5, 6] ∧
    [FailCause.noNode, .noAccept, .check, .mismatch, .expired].map FailCause.code = [1, 2, 3, 4, 5] ∧
    [SegState.off, .up, .recovering, .down].map SegState.code = [0, 1, 2, 3] ∧
    [Port.host, .console].map portCode = [0, 1] ∧ [SegId.a, .b].map segmentCode = [0, 1] ∧
    [Speed.kbit100, .kbit400].map Speed.code = [0, 1] ∧
    [RecoveryCause.contest, .timeout, .stuck, .enable, .restart].map RecoveryCause.code = [0, 1, 2, 3, 4] ∧
    [Presence.unconfirmed, .present, .lost].map Presence.code = [0, 1, 2] ∧
    [Status.ok, .accepted, .frameError, .unknownKind, .badLength, .badHandle, .staleHandle, .wrongKind, .wrongState,
      .notOwner, .heldByOther, .hostOnly, .badField, .duplicate, .noSlot, .noNodeSlot, .nodeFull, .segmentOff,
      .busy].map Status.code
      = [0x00, 0x01, 0x10, 0x11, 0x12, 0x13, 0x14, 0x15, 0x16, 0x17, 0x18, 0x19, 0x1A, 0x1B, 0x1C, 0x1D, 0x1E, 0x1F, 0x20] ∧
    (∀ (b : Bool) (n : Nat), flagBit b n = if b then (1 : Byte) <<< n else 0) ∧
    ∀ r x, [ScanState.idle, .running r x, .done r, .aborted r].map ScanState.code = [0, 1, 2, 3]) ∧
  ∀ (seq : SeqNo) (t : Time) (h : Handle) (v u : Value) (q q' : Quality) (al al' : Alarm) (n : Nat) (g : SegId)
    (x : Address) (sa sb : SegState) (p : Port) (cause : FailCause) (ov : Option Value) (cmd : Option CommandCode),
    ∀ gives : Byte → Note → List Byte → Prop,
    (gives = fun (kind : Byte) note payload => Entry.record ⟨seq, t, note⟩ =
      ((kind <<< 4) ||| h.generation.zeroExtend 8) :: BitVec.ofFin h.slot :: bytes32 t ++ payload) →
    ∀ system : Byte → Byte → Note → List Byte → Prop,
    (system = fun (kind place : Byte) note payload => Entry.record ⟨seq, t, note⟩ = (kind <<< 4) :: place :: bytes32 t ++ payload) →
    gives 1 (.value h v q) (bytes32 v ++ [q.code]) ∧
    gives 2 (.alarm h v al al' .limit) (bytes32 v ++ [al.code ||| (al'.code <<< 2)]) ∧
    gives 2 (.alarm h v al al' .hostReset) (bytes32 v ++ [al.code ||| (al'.code <<< 2) ||| 16]) ∧
    (∀ y : QualityCause × Byte, y ∈ [(.firstValue, 0), (.recovered, 1), (.failureLimit, 2), (.staleLimit, 3)] →
      gives 3 (.quality h q q' n y.1) [q.code, q'.code, BitVec.ofNat 8 n, y.2, 0]) ∧
    gives 4 (.command h v (.confirmed n)) (bytes32 v ++ [BitVec.ofNat 8 n <<< 5]) ∧
    gives 4 (.command h v (.failed cause n)) (bytes32 v ++ [1 ||| (cause.code <<< 2) ||| (BitVec.ofNat 8 n <<< 5)]) ∧
    gives 4 (.command h v .superseded) (bytes32 v ++ [2]) ∧ gives 4 (.command h v .withdrawn) (bytes32 v ++ [3]) ∧
    gives 5 (.drift h v u) (bytes32 v ++ bytes32 u) ∧ gives 6 (.fresh h (.done v) q) (bytes32 v ++ [q.code <<< 2]) ∧
    (∀ y : FreshOutcome × Byte, y ∈ [(.noNode, 1), (.noAccept, 2), (.checkFail, 3)] →
      gives 6 (.fresh h y.1 q) [0, 0, 0, 0, y.2 ||| (q.code <<< 2)]) ∧
    gives 7 (.retired h) [0, 0, 0, 0, 0] ∧ gives 8 (.claimLost h p) [portCode p, 0, 0, 0, 0] ∧
    system 9 (segmentCode g) (.node (.lost n) g x) [0, x.zeroExtend 8, BitVec.ofNat 8 n, 0, 0] ∧
    system 9 (segmentCode g) (.node (.back n) g x) [1, x.zeroExtend 8, BitVec.ofNat 8 n, 0, 0] ∧
    system 9 (segmentCode g) (.node .strayAlert g x) [2, x.zeroExtend 8, 0, 0, 0] ∧
    (∀ (y : SegmentEvent × Byte) c, y ∈ [(.up, 0), (.recovered, 1), (.down, 2)] →
      system 10 (segmentCode g) (.segment g y.1 c) [y.2, c.code, 0, 0, 0]) ∧
    system 11 (segmentCode g) (.scanDone g true n) [0, BitVec.ofNat 8 n, 0, 0, 0] ∧
    system 11 (segmentCode g) (.scanDone g false n) [1, BitVec.ofNat 8 n, 0, 0, 0] ∧
    gives 12 (.summaryPoint h ov q al cmd) (bytes32 (ov.getD 0) ++
      [q.code ||| (al.code <<< 2) ||| flagBit ov.isSome 4 ||| (((cmd.map CommandCode.code).getD 0) <<< 5)]) ∧
    system 13 0 (.summarySystem sa sb n) [sa.code, sb.code, BitVec.ofNat 8 n, 0, 0]

/-- The inquiries that answer OK from the records change no record, and each body is the one of TABLE 11-6: DESCRIBE (R26),
READ_MANY (R51), NODE_QUERY (R102), NODE_LIST (R103), SCAN_RESULT (R144), FETCH with as many whole records as the count,
the queue and the 96 bytes allow (R153, R190), STATUS (R172). The ones whose fields are out of range are BAD_FIELD at step
9 (R51, R102, R103, R144, R153), a READ_MANY of up to the 47 handles that a frame holds among them. That every FETCH starts
at the oldest entry of the queue, also one that follows a FETCH with no ACK between, is log entry 27. -/
def Obligations.InquiriesAnswerFromTheRecordsAndChangeNone : Prop :=
  ∀ (p : Port) (tag : Byte) (s : State), s.ready p = true →
    ∀ gives : Instr → Status → List Byte → Prop,
    (gives = fun c status body => exec c s = .next (responded p tag ⟨status, body⟩ (s.served p))) →
    ∀ (handle : SlotNo → List Byte), (handle = fun i => [BitVec.ofFin i, (s.generation i).zeroExtend 8]) →
    ∀ setByte : SubSet → Byte,
    (setByte = fun x => flagBit x.value 0 ||| flagBit x.alarm 1 ||| flagBit x.quality 2 ||| flagBit x.command 3) →
    (∀ i pt, s.point? i = some pt →
      ∀ due : Option Time, due = (s.entryOf? pt.segment i).map (·.due.time) →
      gives (.describe p tag (s.rawHandle i)) .ok (handle i
        ++ [match pt.state with
            | .held => 1
            | .active => 2
            | .retiring _ => 3,
          if pt.command.isSome then 1 else 0, segmentCode pt.segment, pt.address.zeroExtend 8, pt.item,
          match pt.width with
            | .one => 1
            | .two => 2
            | .four => 4,
          flagBit pt.signed 0 ||| flagBit pt.alertDriven 1 ||| flagBit (pt.command.any (·.restore)) 2 ||| flagBit pt.late 3
            ||| flagBit pt.limits.isSome 4 ||| flagBit pt.deadband.isSome 5 ||| flagBit pt.owner.isSome 6
            ||| flagBit due.isSome 7]
        ++ bytes16 (pt.period.getD 0) ++ bytes16 (pt.staleLimit.getD 0) ++ bytes32 ((pt.limits.map (·.low)).getD 0)
        ++ bytes32 ((pt.limits.map (·.high)).getD 0) ++ bytes32 ((pt.limits.map (·.hysteresis)).getD 0)
        ++ bytes32 (pt.deadband.getD 0)
        ++ [(pt.owner.map portCode).getD 0, setByte pt.subscriptions.host, setByte pt.subscriptions.console,
          match pt.inFlight.map (·.kind) with
            | none => 0
            | some FlightKind.poll => 1
            | some FlightKind.refreshPoll => 2
            | some FlightKind.guard => 3
            | some FlightKind.write => 4
            | some FlightKind.verify => 5]
        ++ bytes32 (due.getD 0)
        ++ [match pt.state with
            | .retiring q => portCode q
            | _ => 0])) ∧
    (∀ (count : Byte) hs, count.toNat = hs.length →
      (1 ≤ hs.length → hs.length ≤ 16 → ∀ result : RawHandle → List Byte,
        (result = fun h => match s.point? h.slot.toFin with
          | none => [0x13, 0, 0, 0, 0, 0]
          | some pt =>
            if h.generation.toNat = (s.generation h.slot.toFin).toNat then
              [(0x00 : Byte), (pt.reportedQuality s.clock).code ||| (pt.alarm.code <<< 2) ||| flagBit pt.late 4
                ||| flagBit pt.value.isSome 5] ++ bytes32 ((pt.value.map (·.value)).getD 0)
            else [0x14, 0, 0, 0, 0, 0]) →
        gives (.readMany p tag count hs) .ok (hs.flatMap result)) ∧
      (hs.length = 0 ∨ (16 < hs.length ∧ hs.length ≤ 47) → gives (.readMany p tag count hs) .badField [])) ∧
    (∀ b g x, segmentOf b = some g → 0x10 ≤ x.toNat → x.toNat ≤ 0x6F →
      (∀ e, s.nodeEntry? g (x.truncate 7) = some e → gives (.nodeQuery p tag b x) .ok
        ([1 ||| flagBit e.probe.isSome 1, e.presence.code, BitVec.ofNat 8 e.points, BitVec.ofNat 8 e.misses]
          ++ bytes32 ((e.probe.map (·.time)).getD 0)
          ++ (allSlots.filter fun i => (s.point? i).any (·.names g (x.truncate 7))).flatMap handle)) ∧
      (s.nodeEntry? g (x.truncate 7) = none → gives (.nodeQuery p tag b x) .ok [0]) ∧
      (∀ l : List NodeEntry, l = (s.directory.filter fun e => e.segment = g ∧ x.toNat ≤ e.address.toNat) →
        gives (.nodeList p tag b x) .ok
          ([if 16 < l.length then 1 else 0, (l[16]?.map (·.address.zeroExtend 8)).getD 0]
            ++ (l.take 16).flatMap fun e =>
              [e.address.zeroExtend 8, e.presence.code, BitVec.ofNat 8 e.points, BitVec.ofNat 8 e.misses]))) ∧
    (∀ b x, 2 ≤ b.toNat ∨ x.toNat < 0x10 ∨ 0x6F < x.toNat →
      gives (.nodeQuery p tag b x) .badField [] ∧ gives (.nodeList p tag b x) .badField []) ∧
    (∀ b g x found, segmentOf b = some g → x.toNat ≤ 95 → (s.segment g).scan.found = found →
      ∀ range : Byte → Option ScanRange → Byte → List Byte,
      (range = fun state r next => state :: (match r with
          | none => [0, 0, 0]
          | some r => [portCode r.requester, r.low.zeroExtend 8, r.high.zeroExtend 8])
        ++ next :: BitVec.ofNat 8 found.length :: ((found.drop x.toNat).take 64).map (·.zeroExtend 8)) →
      gives (.scanResult p tag b x) .ok (match (s.segment g).scan.state with
        | .idle => range 0 none 0
        | .running r next => range 1 (some r) (next.zeroExtend 8)
        | .done r => range 2 (some r) 0
        | .aborted r => range 3 (some r) 0)) ∧
    (∀ b x, 2 ≤ b.toNat ∨ 95 < x.toNat → gives (.scanResult p tag b x) .badField []) ∧
    (∀ n, 1 ≤ n.toNat → n.toNat ≤ 8 → ∀ q, q = (s.notifyOf p).queue →
      ∃ k, k ≤ n.toNat ∧ k ≤ q.length ∧ ((q.take k).flatMap Entry.record).length ≤ 92 ∧
        (k = n.toNat ∨ k = q.length ∨ 92 < ((q.take (k + 1)).flatMap Entry.record).length) ∧
        gives (.fetch p tag n) .ok
          ((if k = 0 then [0, 0] else bytes16 ((q.head?.map (·.seq)).getD 0))
            ++ [BitVec.ofNat 8 q.length ||| flagBit ((s.notifyOf p).systemMark || allSlots.any (s.marked p)) 7,
              BitVec.ofNat 8 k] ++ (q.take k).flatMap Entry.record)) ∧
    (∀ n, n = 0 ∨ 8 < n.toNat → gives (.fetch p tag n) .badField []) ∧
    ∀ count : (Point → Bool) → List Byte,
    (count = fun f => bytes16 (BitVec.ofNat 16 (allSlots.countP fun i => (s.point? i).any f))) →
    ∀ segment : SegId → List Byte,
    (segment = fun g => [(s.segment g).state.code, (s.segment g).speed.code,
      ((s.segment g).cause.map RecoveryCause.code).getD 0, BitVec.ofNat 8 (s.segment g).attempts,
      (s.segment g).scan.state.code]) →
    ∀ port : Port → List Byte,
    (port = fun q => [BitVec.ofNat 8 (s.notifyOf q).queue.length,
      flagBit (s.notifyOf q).systemMark 0 ||| flagBit (allSlots.any (s.marked q)) 1 ||| flagBit (s.notifyOf q).enabled 2
        ||| flagBit (s.notifyOf q).nodeEvents 3]) →
    gives (.status p tag) .ok (bytes32 s.clock ++ count (fun _ => true) ++ count (fun pt => pt.state = .held)
      ++ count (fun pt => pt.state = .active) ++ count (fun pt => pt.state ≠ .held ∧ pt.state ≠ .active)
      ++ [BitVec.ofNat 8 s.directory.length, BitVec.ofNat 8 (s.directory.countP fun e => e.presence = .lost)]
      ++ segment .a ++ segment .b ++ port .host ++ port .console)

/-- R173: TIME has an empty body and answers OK with the roster clock reading; it changes no record, and both ports are told
the same reading. -/
def Obligations.TimeReportsTheRosterClock : Prop :=
  Request.body .time = [] ∧
    ∀ (p : Port) (tag : Byte) (s : State), s.ready p = true →
      exec (.time p tag) s = .next (responded p tag
        ⟨.ok, [s.clock.extractLsb' 24 8, s.clock.extractLsb' 16 8, s.clock.extractLsb' 8 8, s.clock.extractLsb' 0 8]⟩
        (s.served p))

/-- Whatever a well-formed request of a directory that keeps its law answers, the body of its response fits a frame of at
most 96 bytes (R187). -/
def Obligations.ResponseBodiesFitAFrame : Prop :=
  ∀ (p : Port) (r : Request) (s : State), r.wellFormed = true → s.directoryOk → (carryOut p r s).2.body.length ≤ 96

/-! ### Refreshing, limits, commanded values -/

/-- REFRESH of an ACTIVE input sets the requesting port's flag and acts on the schedule: the entry moves to the present
reading, its old due time kept as the rhythm due unless one is kept already; with a transaction in flight nothing moves;
out of the schedule with nothing in flight the flag is answered NO_NODE at once (R52, R53). -/
def Obligations.RefreshBringsTheNextReadForward : Prop :=
  ∀ (p : Port) (tag : Byte) (i : SlotNo) (pt : Point) (s : State), s.ready p = true → s.point? i = some pt →
    pt.state = .active → pt.command = none →
    (pt.inFlight ≠ none → exec (.refresh p tag (s.rawHandle i)) s = .next (responded p tag ⟨.accepted, []⟩
      ((s.served p).setPoint i { pt with fresh := pt.fresh.set p true }))) ∧
    (∀ e, pt.inFlight = none → s.entryOf? pt.segment i = some e → pt.rhythmDue = none →
      exec (.refresh p tag (s.rawHandle i)) s = .next (responded p tag ⟨.accepted, []⟩
        (((s.served p).setPoint i { pt with fresh := pt.fresh.set p true, rhythmDue := some e.due }).setSegment pt.segment
          { s.segment pt.segment with
            schedule := insertEntry ⟨i, ⟨s.clock, false⟩, true⟩
              ((s.segment pt.segment).schedule.filter (·.slot ≠ i)) }))) ∧
    (∀ e d, pt.inFlight = none → s.entryOf? pt.segment i = some e → pt.rhythmDue = some d →
      exec (.refresh p tag (s.rawHandle i)) s = .next (responded p tag ⟨.accepted, []⟩
        (((s.served p).setPoint i { pt with fresh := pt.fresh.set p true }).setSegment pt.segment
          { s.segment pt.segment with
            schedule :=
              if e.marked = true ∨ e.due.capped = true ∨ reached e.due.time s.clock = true then (s.segment pt.segment).schedule
              else insertEntry ⟨i, ⟨s.clock, false⟩, true⟩
                ((s.segment pt.segment).schedule.filter (·.slot ≠ i)) }))) ∧
    (pt.inFlight = none → s.entryOf? pt.segment i = none →
      ∃ u, u = offerPoint p i (.fresh (s.handle i) .noNode pt.quality)
          ((s.served p).setPoint i { pt with fresh := pt.fresh.set p true }) ∧
        exec (.refresh p tag (s.rawHandle i)) s = .next (responded p tag ⟨.accepted, []⟩
          (u.modPoint i fun x => { x with fresh := x.fresh.set p false })))

/-- Each SET_LIMITS group alone: a limits group that is not KEEP sets or removes the limits and restarts the alarm, with ALARM
HOST_RESET when it was LOW or HIGH; a deadband group that is not KEEP sets or removes the deadband and discards the
reported value; KEEP leaves its group alone (R63, R64, R65). That ALARM HOST_RESET carries the value 0 on a point that holds
no value, which no run reaches, is log entry 26. -/
def Obligations.SetLimitsActsOnEachGroup : Prop :=
  ∀ (p : Port) (tag : Byte) (i : SlotNo) (pt : Point) (f : LimitsFields) (s : State), s.ready p = true →
    s.point? i = some pt → pt.command = none → (∀ q, pt.state ≠ .retiring q) → pt.mayChange p = true →
    (f.limitsAction.toNat < 3 → f.deadbandAction.toNat < 3 →
      (f.limitsAction = 1 → asInt pt.signed f.low < asInt pt.signed f.high ∧
        (f.hysteresis.toNat : Int) ≤ asInt pt.signed f.high - asInt pt.signed f.low) →
      (f.deadbandAction = 1 → 1 ≤ f.deadband.toNat ∧ f.deadband.toNat ≤ 2 ^ 31 - 1) →
      ∀ u, u = (if f.limitsAction = 0 then s.served p
          else if pt.alarm = .normal then
            (s.served p).setPoint i { pt with limits := if f.limitsAction = 1 then some ⟨f.low, f.high, f.hysteresis⟩ else none }
          else
            offerSubscribers (·.alarm) i
              (.alarm (s.handle i) ((pt.value.map (·.value)).getD 0) pt.alarm .normal .hostReset)
              ((s.served p).setPoint i
                { pt with
                  limits := if f.limitsAction = 1 then some ⟨f.low, f.high, f.hysteresis⟩ else none
                  alarm := .normal })) →
        exec (.setLimits p tag (s.rawHandle i) f) s = .next (responded p tag ⟨.ok, []⟩
          (if f.deadbandAction = 0 then u
          else u.modPoint i fun x =>
            { x with deadband := if f.deadbandAction = 1 then some f.deadband else none, reported := none }))) ∧
    (2 < f.limitsAction.toNat ∨ 2 < f.deadbandAction.toNat ∨
        (f.limitsAction = 1 ∧ (asInt pt.signed f.high ≤ asInt pt.signed f.low ∨
          asInt pt.signed f.high - asInt pt.signed f.low < (f.hysteresis.toNat : Int))) ∨
        (f.deadbandAction = 1 ∧ (f.deadband = 0 ∨ 2 ^ 31 ≤ f.deadband.toNat)) →
      exec (.setLimits p tag (s.rawHandle i) f) s = .next (responded p tag ⟨.badField, []⟩ (s.served p)))

/-- WRITE by point state and command state (TABLE 4-3), with COMMAND SUPERSEDED for each value it replaces (R71, R72, R73): a
value outside the range of TABLE 4-2 for the point's width and signedness, or a deadline above 60,000 ms, is BAD_FIELD. -/
def Obligations.WriteStoresTheValueByCommandState : Prop :=
  ∀ (p : Port) (tag : Byte) (i : SlotNo) (pt : Point) (v : Value) (d : Interval) (s : State), s.ready p = true →
    s.point? i = some pt → pt.command ≠ none → (∀ q, pt.state ≠ .retiring q) → pt.mayChange p = true →
    ∀ due : Option Time, due = (if d = 0 then none else some (s.clock + d.zeroExtend 32)) →
    ∀ fit : Prop, (fit = match pt.width, pt.signed with
      | .one, false => v.toNat ≤ 255
      | .one, true => -128 ≤ v.toInt ∧ v.toInt ≤ 127
      | .two, false => v.toNat ≤ 65535
      | .two, true => -32768 ≤ v.toInt ∧ v.toInt ≤ 32767
      | .four, _ => True) →
    (¬fit ∨ 60000 < d.toNat →
      exec (.write p tag (s.rawHandle i) v d) s = .next (responded p tag ⟨.badField, []⟩ (s.served p))) ∧
    (fit → d.toNat ≤ 60000 →
      ((s.stand i).openValues = [] → pt.state = .held →
        exec (.write p tag (s.rawHandle i) v d) s = .next (responded p tag ⟨.ok, [0]⟩
          (modCommand i (fun c => { c with stand := .pending ⟨v, p⟩ due, attempts := 0 }) (s.served p)))) ∧
      ((s.stand i).openValues = [] → pt.state = .active →
        exec (.write p tag (s.rawHandle i) v d) s = .next (responded p tag ⟨.ok, [1]⟩
          ((modCommand i (fun c => { c with stand := .queued ⟨v, p⟩ due, attempts := 0 }) (s.served p)).setSegment pt.segment
            { s.segment pt.segment with commandQueue := (s.segment pt.segment).commandQueue ++ [i] }))) ∧
      (∀ old od, s.stand i = .pending old od →
        exec (.write p tag (s.rawHandle i) v d) s = .next (responded p tag ⟨.ok, [0]⟩
          (modCommand i (fun c => { c with stand := .pending ⟨v, p⟩ due, attempts := 0 })
            (closeCommand i old .superseded (s.served p))))) ∧
      (∀ old od, s.stand i = .queued old od →
        exec (.write p tag (s.rawHandle i) v d) s = .next (responded p tag ⟨.ok, [1]⟩
          (modCommand i (fun c => { c with stand := .queued ⟨v, p⟩ due, attempts := 0 })
            (closeCommand i old .superseded (s.served p))))) ∧
      (∀ w, s.stand i = .writing w none ∨ s.stand i = .verifying w none →
        exec (.write p tag (s.rawHandle i) v d) s = .next (responded p tag ⟨.ok, [2]⟩
          (modCommand i (fun c => { c with stand := match c.stand with
            | .writing w _ => .writing w (some ⟨⟨v, p⟩, due, false⟩)
            | .verifying w _ => .verifying w (some ⟨⟨v, p⟩, due, false⟩)
            | x => x }) (s.served p)))) ∧
      (∀ w nv, s.stand i = .writing w (some nv) ∨ s.stand i = .verifying w (some nv) →
        exec (.write p tag (s.rawHandle i) v d) s = .next (responded p tag ⟨.ok, [2]⟩
          (modCommand i (fun c => { c with stand := match c.stand with
            | .writing w _ => .writing w (some ⟨⟨v, p⟩, due, false⟩)
            | .verifying w _ => .verifying w (some ⟨⟨v, p⟩, due, false⟩)
            | x => x }) (closeCommand i nv.issued .superseded (s.served p))))))

/-- CANCEL by command state (TABLE 4-5): a waiting command is withdrawn, a next value is withdrawn beside a delivery that goes
on, and with nothing waiting the request is WRONG_STATE; each withdrawn value makes COMMAND WITHDRAWN (R83). -/
def Obligations.CancelWithdrawsWhatStillWaits : Prop :=
  ∀ (p : Port) (tag : Byte) (i : SlotNo) (pt : Point) (s : State), s.ready p = true → s.point? i = some pt →
    pt.command ≠ none → (∀ q, pt.state ≠ .retiring q) → pt.mayChange p = true →
    (∀ v d, s.stand i = .pending v d → exec (.cancel p tag (s.rawHandle i)) s = .next (responded p tag ⟨.ok, []⟩
      (modCommand i (fun c => { c with stand := .noCommand, attempts := 0 })
        (closeCommand i v .withdrawn (s.served p))))) ∧
    (∀ v d, s.stand i = .queued v d → exec (.cancel p tag (s.rawHandle i)) s = .next (responded p tag ⟨.ok, []⟩
      ((modCommand i (fun c => { c with stand := .noCommand, attempts := 0 })
        (closeCommand i v .withdrawn (s.served p))).setSegment pt.segment
          { s.segment pt.segment with commandQueue := (s.segment pt.segment).commandQueue.filter (· ≠ i) }))) ∧
    (∀ v nv, s.stand i = .writing v (some nv) → exec (.cancel p tag (s.rawHandle i)) s =
      .next (responded p tag ⟨.ok, []⟩ (modCommand i (fun c => { c with stand := .writing v none })
        (closeCommand i nv.issued .withdrawn (s.served p))))) ∧
    (∀ v nv, s.stand i = .verifying v (some nv) → exec (.cancel p tag (s.rawHandle i)) s =
      .next (responded p tag ⟨.ok, []⟩ (modCommand i (fun c => { c with stand := .verifying v none })
        (closeCommand i nv.issued .withdrawn (s.served p))))) ∧
    ((∀ v d, s.stand i ≠ .pending v d ∧ s.stand i ≠ .queued v d) →
      (∀ v nv, s.stand i ≠ .writing v (some nv) ∧ s.stand i ≠ .verifying v (some nv)) →
      exec (.cancel p tag (s.rawHandle i)) s = .next (responded p tag ⟨.wrongState, []⟩ (s.served p)))

/-! ### Ownership, subscriptions, queues, ports -/

/-- CLAIM by owner and requester (TABLE 9-4), the take of a CONSOLE's point with CLAIM_LOST (R168, R169), and RELEASE (R170);
a take value that is neither yes nor no passes step 8 as no and is then BAD_FIELD. SUBSCRIBE replaces the requesting port's
set when the point's kind can produce each category of it, and answers the new set; otherwise, a bit of 7 to 4 among them,
it is BAD_FIELD (R152, R188, TABLE 8-4). -/
def Obligations.ClaimReleaseAndSubscribeActForTheRequestingPort : Prop :=
  ∀ (p : Port) (tag set : Byte) (i : SlotNo) (pt : Point) (s : State), s.ready p = true → s.point? i = some pt →
    (∀ q, pt.state ≠ .retiring q) →
    (pt.owner ≠ some p.other → exec (.claim p tag (s.rawHandle i) 0) s =
      .next (responded p tag ⟨.ok, [portCode p]⟩ ((s.served p).setPoint i { pt with owner := some p }))) ∧
    (∀ take, take ≠ 0 → take ≠ 1 → pt.owner ≠ some p.other → exec (.claim p tag (s.rawHandle i) take) s =
      .next (responded p tag ⟨.badField, []⟩ (s.served p))) ∧
    (∀ take, take ≠ 1 → pt.owner = some p.other → exec (.claim p tag (s.rawHandle i) take) s =
      .next (responded p tag ⟨.heldByOther, []⟩ (s.served p))) ∧
    (p = .console → exec (.claim p tag (s.rawHandle i) 1) s =
      .next (responded p tag ⟨.hostOnly, []⟩ (s.served p))) ∧
    (p = .host → pt.owner ≠ some .console → exec (.claim p tag (s.rawHandle i) 1) s =
      .next (responded p tag ⟨.ok, [0]⟩ ((s.served p).setPoint i { pt with owner := some .host }))) ∧
    (p = .host → pt.owner = some .console → exec (.claim p tag (s.rawHandle i) 1) s =
      .next (responded p tag ⟨.ok, [0]⟩ (offerPoint .console i (.claimLost (s.handle i) .host)
        ((s.served p).setPoint i { pt with owner := some .host })))) ∧
    (pt.owner = some p → exec (.release p tag (s.rawHandle i)) s =
      .next (responded p tag ⟨.ok, []⟩ ((s.served p).setPoint i { pt with owner := none }))) ∧
    (pt.owner ≠ some p → exec (.release p tag (s.rawHandle i)) s =
      .next (responded p tag ⟨.notOwner, []⟩ (s.served p))) ∧
    ((pt.command = none ∧ set.toNat < 8) ∨ (pt.command ≠ none ∧ set ∈ [0, 4, 8, 12]) →
      exec (.subscribe p tag (s.rawHandle i) set) s = .next (responded p tag ⟨.ok, [set]⟩ ((s.served p).setPoint i
        { pt with
          subscriptions :=
            pt.subscriptions.set p ⟨set.getLsbD 0, set.getLsbD 1, set.getLsbD 2, set.getLsbD 3⟩ }))) ∧
    ((pt.command = none ∧ 8 ≤ set.toNat) ∨ (pt.command ≠ none ∧ set ∉ [0, 4, 8, 12]) →
      exec (.subscribe p tag (s.rawHandle i) set) s = .next (responded p tag ⟨.badField, []⟩ (s.served p)))

/-- What becomes of a notification offered to a port (R147, R150): nothing while the port's notifications are off; an entry at
the tail with the next sequence number and the present time while the queue holds fewer than 64; on a full queue the
point's pending mark, or the port's system mark, and no number is used. And to which ports it is offered (R149, TABLE 8-3): a
closing COMMAND to its issuing port whatever that port's set, and to the other port when its set has COMMAND, each once
(R85); a notification of a category to each port whose set accepts it; NODE and SEGMENT to each port whose node events are
on (R101). -/
def Obligations.OfferedNotificationIsMadeOrMarked : Prop :=
  ∀ (i : SlotNo) (pt : Point) (n : Note) (s : State), s.point? i = some pt →
    (∀ p : Port,
      ((s.notifyOf p).enabled = false → offerPoint p i n s = s ∧ offerSystem p n s = s) ∧
      ((s.notifyOf p).enabled = true → (s.notifyOf p).queue.length < 64 →
        ∀ u, u = s.setNotify p
            { s.notifyOf p with
              queue := (s.notifyOf p).queue ++ [⟨(s.notifyOf p).nextSeq, s.clock, n⟩]
              nextSeq := (s.notifyOf p).nextSeq + 1 } → offerPoint p i n s = u ∧ offerSystem p n s = u) ∧
      ((s.notifyOf p).enabled = true → 64 ≤ (s.notifyOf p).queue.length →
        offerPoint p i n s = s.setPoint i { pt with marks := pt.marks.set p true } ∧
        offerSystem p n s = s.setNotify p { s.notifyOf p with systemMark := true })) ∧
    (∀ (route : State) (note : Note) (named : Port → Bool),
      (∃ v close, route = closeCommand i v close s ∧ note = .command (s.handle i) v.value close ∧
          named = fun p => decide (v.issuer = p) || (pt.subscriptions.get p).command) ∨
        (∃ category, route = offerSubscribers category i n s ∧ note = n ∧
          named = fun p => category (pt.subscriptions.get p)) →
      (∀ p, route.notifyOf p = if named p then (offerPoint p i note s).notifyOf p else s.notifyOf p) ∧
      (∀ m : Port → Bool,
        (m = fun p => pt.marks.get p ||
          (named p && (s.notifyOf p).enabled && decide (64 ≤ (s.notifyOf p).queue.length))) →
        route = { s.setPoint i { pt with marks := ⟨m .host, m .console⟩ } with notify := route.notify })) ∧
    ∀ route, route = offerNodeEvents n s →
      route = { s with notify := route.notify } ∧
      ∀ p, route.notifyOf p = if (s.notifyOf p).nodeEvents then (offerSystem p n s).notifyOf p else s.notifyOf p

/-- ACK of a number that an entry carries removes that entry and every older one and drains the port's marks; the response
counts the removed and the remaining ones. Of any other number it is BAD_FIELD (R154, R155). The drain of a port whose
queue keeps its law makes one SUMMARY for a mark and clears it, the system mark first and then the marked slots in
ascending order, until the queue holds 64 entries or no mark remains; a SUMMARY says how the records then stand: of a point
its handle, value, reported quality, alarm state and command state, of the system both segment states and the count of LOST
nodes (R155, R156). -/
def Obligations.AckRemovesEntriesAndDrainsTheMarks : Prop :=
  (∀ (p : Port) (tag : Byte) (seq : SeqNo) (s : State), s.ready p = true →
    (∀ older e newer, (s.notifyOf p).queue = older ++ e :: newer → e.seq = seq → (∀ x ∈ older, x.seq ≠ seq) →
      ∀ u, u = drain p ((s.served p).setNotify p { s.notifyOf p with queue := newer }) →
        exec (.ack p tag seq) s = .next (responded p tag
          ⟨.ok, [BitVec.ofNat 8 (older.length + 1), BitVec.ofNat 8 (u.notifyOf p).queue.length]⟩ u)) ∧
    ((∀ e ∈ (s.notifyOf p).queue, e.seq ≠ seq) →
      exec (.ack p tag seq) s = .next (responded p tag ⟨.badField, []⟩ (s.served p)))) ∧
  (∀ (p : Port) (s : State), (s.notifyOf p).queue.length ≤ 64 →
    ∀ system : Note,
    system = .summarySystem (s.segment .a).state (s.segment .b).state (s.directory.countP fun e => e.presence = .lost) →
    ∀ summary : SlotNo → Point → Note,
    (summary = fun i pt => .summaryPoint (s.handle i) (pt.value.map (·.value)) (pt.reportedQuality s.clock) pt.alarm
      (pt.command.map fun c => match c.stand with
        | .noCommand => .noCommand
        | .pending _ _ => .pending
        | .queued _ _ => .queued
        | .writing _ _ => .writing
        | .verifying _ _ => .verifying
        | .confirmed _ => .confirmed
        | .failed _ _ => .failed)) →
    ∀ due : List (Option SlotNo),
      due = (if (s.notifyOf p).systemMark then [none] else []) ++ (allSlots.filter (s.marked p ·)).map some →
    ∀ taken, taken = due.take (64 - (s.notifyOf p).queue.length) →
      (drain p s).notifyOf p =
        { s.notifyOf p with
          queue := (s.notifyOf p).queue ++
            (taken.zipIdx.map fun x => ⟨(s.notifyOf p).nextSeq + BitVec.ofNat 16 x.2, s.clock,
              match x.1 with
              | none => system
              | some i => (s.point? i).elim system (summary i)⟩)
          nextSeq := (s.notifyOf p).nextSeq + BitVec.ofNat 16 taken.length
          systemMark := (s.notifyOf p).systemMark && !(taken.contains none) } ∧
      (drain p s).notifyOf p.other = s.notifyOf p.other ∧
      (∀ i, (drain p s).point? i = (s.point? i).map fun pt =>
        if taken.contains (some i) then { pt with marks := pt.marks.set p false } else pt) ∧
      { drain p s with slots := s.slots, notify := s.notify } = s)

/-- PORT_SET sets the requesting port's own enables; notifications turned off empty its queue and clear its marks, keeping the
sequence number; an enable set to the value it has changes nothing (R158, R176). -/
def Obligations.PortSetActsOnItsOwnPort : Prop :=
  ∀ (p : Port) (tag a b : Byte) (s : State), s.ready p = true →
    (a.toNat < 3 → b.toNat < 3 →
      ∀ u : State, (∃ on events : Bool,
        on = (if a = 0 then (s.notifyOf p).enabled else a == 1) ∧
        events = (if b = 0 then (s.notifyOf p).nodeEvents else b == 1) ∧
        u = (if (s.notifyOf p).enabled = true ∧ on = false then
            { s.served p with
              slots := s.slots.map fun x => { x with point := x.point.map fun pt => { pt with marks := pt.marks.set p false } }
              notify := s.notify.set p ⟨[], (s.notifyOf p).nextSeq, false, events, false⟩ }
          else (s.served p).setNotify p { s.notifyOf p with enabled := on, nodeEvents := events })) →
        exec (.portSet p tag a b) s = .next (responded p tag
          ⟨.ok, [if (u.notifyOf p).enabled then 1 else 0, if (u.notifyOf p).nodeEvents then 1 else 0,
            BitVec.ofNat 8 (u.notifyOf p).queue.length]⟩ u)) ∧
    (2 < a.toNat ∨ 2 < b.toNat → exec (.portSet p tag a b) s = .next (responded p tag ⟨.badField, []⟩ (s.served p)))

/-- CLEAR from HOST empties the table, the directory, the schedules, the command queues, the scans and the notification queues
in one step, advancing the generation of each non-FREE slot alone; a transaction in the line check is ended, one on the wires
names no record any more; the rest is kept. That a line check is ended in the same step, and that a transaction on the wires
stays in flight, marked as cleared, is the model's choice (log entry 9). From CONSOLE it is HOST_ONLY (R28, R29, R120, R174).
-/
def Obligations.ClearEmptiesTheRecords : Prop :=
  ∀ (tag : Byte) (s : State),
    (s.ready .host = true → ∃ u, exec (.clear .host tag) s = .next (responded .host tag ⟨.ok, []⟩ u) ∧
      (∀ i, u.point? i = none ∧
        u.generation i = if s.point? i = none then s.generation i else s.generation i + 1) ∧
      u.directory = [] ∧
      (∀ g, u.segment g =
        { s.segment g with
          schedule := [], commandQueue := [], scan := { state := .idle, found := [] }
          transaction :=
            match (s.segment g).transaction with
            | none => none
            | some t =>
              match t.phase with
              | .lineCheck _ => none
              | .onWires _ _ _ => some { t with cleared := true } }) ∧
      (∀ p, u.notifyOf p = { s.notifyOf p with queue := [], systemMark := false }) ∧
      { u with slots := s.slots, directory := s.directory, segments := s.segments, notify := s.notify } = s.served .host) ∧
    (s.ready .console = true →
      exec (.clear .console tag) s = .next (responded .console tag ⟨.hostOnly, []⟩ (s.served .console)))

/-! ### Segment control, scans and recovery -/

/-- ENABLE and SET_SPEED by segment state (TABLE 7-2): ENABLE of an OFF segment makes it UP when FC and FD read high and
RECOVERING with cause ENABLE otherwise; in every other state it changes nothing; that the levels it brings are stored as
those last observed, in every state, is the model's choice (log entry 7). SET_SPEED is carried out on an OFF segment alone. A
segment byte of 2 or more, an action of 4 or more and a speed that is neither are BAD_FIELD in every one of the four actions
(R128, R129, R131, R188). -/
def Obligations.EnableAndSetSpeedFollowTheSegmentState : Prop :=
  (∀ (p : Port) (tag b : Byte) (g : SegId) (s : State), s.ready p = true → segmentOf b = some g →
    (∀ fc fd : Bool, ∀ x : Segment, x = { s.segment g with lines := { (s.segment g).lines with fc := fc, fd := fd } } →
      (x.state = .off → fc = true → fd = true → exec (.enable p tag b fc fd) s =
        .next (responded p tag ⟨.ok, [1, x.speed.code]⟩ ((s.served p).setSegment g { x with state := .up, fairness := 0 }))) ∧
      (x.state = .off → (fc = false ∨ fd = false) → exec (.enable p tag b fc fd) s =
        .next (responded p tag ⟨.ok, [2, x.speed.code]⟩ ((s.served p).setSegment g
          { x with state := .recovering, cause := some .enable, attempts := 0, retryTime := none, fairness := 0 }))) ∧
      (x.state ≠ .off → exec (.enable p tag b fc fd) s =
        .next (responded p tag ⟨.ok, [x.state.code, x.speed.code]⟩ ((s.served p).setSegment g x)))) ∧
    (∀ v : Byte, ∀ speed, speedOf v = some speed →
      ((s.segment g).state = .off → exec (.setSpeed p tag b v) s =
        .next (responded p tag ⟨.ok, [0, speed.code]⟩ ((s.served p).setSegment g { s.segment g with speed := speed }))) ∧
      ((s.segment g).state ≠ .off → exec (.setSpeed p tag b v) s =
        .next (responded p tag ⟨.wrongState, []⟩ (s.served p)))) ∧
    (∀ v : Byte, 2 ≤ v.toNat → exec (.setSpeed p tag b v) s = .next (responded p tag ⟨.badField, []⟩ (s.served p)))) ∧
  (∀ (p : Port) (tag b v : Byte) (fc fd : Bool) (s : State), s.ready p = true → 2 ≤ b.toNat →
    ∀ c ∈ [.enable p tag b fc fd, .disable p tag b, .segmentRestart p tag b, Instr.setSpeed p tag b v],
      exec c s = .next (responded p tag ⟨.badField, []⟩ (s.served p))) ∧
  (∀ (p : Port) (b action v : Byte) (s : State), 2 ≤ b.toNat ∨ 4 ≤ action.toNat →
    carryOut p (.segmentControl b action v) s = (s, ⟨.badField, []⟩)) ∧
  ∀ b : Byte, (b = 0 → segmentOf b = some .a ∧ speedOf b = some .kbit100) ∧
    (b = 1 → segmentOf b = some .b ∧ speedOf b = some .kbit400)

/-- DISABLE and RESTART by segment state (TABLE 7-2): the transaction in flight is abandoned first; DISABLE then makes the
segment OFF with recovery, suppression and fairness ended and aborts a RUNNING scan; RESTART makes it RECOVERING with
cause RESTART and touches neither the scan nor the suppression (R121, R130, R132). A scan that is aborted, here or by a DOWN
segment, was RUNNING: it is ABORTED with its range and its found list kept, and SCAN_DONE ABORTED with the count found goes
to its requester; another scan stays as it is (R143). That the abandonment's
notifications come before SCAN_DONE is the model's choice (log entry 25); what an abandonment makes of the records is
FaultsAndAbandonmentsReachTheRecords. -/
def Obligations.DisableAndRestartAbandonTheTransaction : Prop :=
  (∀ (g : SegId) (v : State),
    (∀ range next found, (v.segment g).scan = ⟨.running range next, found⟩ →
      abortScan g v = offerSystem range.requester (.scanDone g false found.length)
        (v.setSegment g { v.segment g with scan := ⟨.aborted range, found⟩ })) ∧
    ((∀ range next, (v.segment g).scan.state ≠ .running range next) → abortScan g v = v)) ∧
  ∀ (p : Port) (tag b : Byte) (g : SegId) (s : State), s.ready p = true → segmentOf b = some g →
    ∀ w, w = abandon g (s.served p) →
    ((s.segment g).state = .off → exec (.disable p tag b) s =
      .next (responded p tag ⟨.ok, [0, (s.segment g).speed.code]⟩ (s.served p))) ∧
    ((s.segment g).state ≠ .off →
      (w.segment g).transaction = none ∧ (w.segment g).speed = (s.segment g).speed ∧
      exec (.disable p tag b) s = .next (responded p tag ⟨.ok, [0, (s.segment g).speed.code]⟩
        (abortScan g (w.setSegment g
          { w.segment g with
            state := .off, attempts := 0, cause := none, retryTime := none, suppression := none, fairness := 0 })))) ∧
    ((s.segment g).state = .off → exec (.segmentRestart p tag b) s =
      .next (responded p tag ⟨.segmentOff, []⟩ (s.served p))) ∧
    ((s.segment g).state = .recovering → exec (.segmentRestart p tag b) s =
      .next (responded p tag ⟨.busy, []⟩ (s.served p))) ∧
    ((s.segment g).state = .up ∨ (s.segment g).state = .down → exec (.segmentRestart p tag b) s =
      .next (responded p tag ⟨.accepted, [2, (s.segment g).speed.code]⟩ (w.setSegment g
        { w.segment g with
          state := .recovering, cause := some .restart, attempts := 0, retryTime := none, fairness := 0 })))

/-- SCAN: a segment byte of 2 or more, or a range out of order, is BAD_FIELD, then an OFF or DOWN segment SEGMENT_OFF, then a
RUNNING scan BUSY; otherwise the scan context is replaced and the request ACCEPTED (R142). -/
def Obligations.ScanReplacesTheScanContext : Prop :=
  ∀ (p : Port) (tag b low high : Byte) (s : State), s.ready p = true →
    (2 ≤ b.toNat → exec (.scan p tag b low high) s = .next (responded p tag ⟨.badField, []⟩ (s.served p))) ∧
    ∀ g, segmentOf b = some g →
    (low.toNat < 0x10 ∨ 0x6F < low.toNat ∨ high.toNat < 0x10 ∨ 0x6F < high.toNat ∨ high.toNat < low.toNat →
      exec (.scan p tag b low high) s = .next (responded p tag ⟨.badField, []⟩ (s.served p))) ∧
    (0x10 ≤ low.toNat → low.toNat ≤ high.toNat → high.toNat ≤ 0x6F →
      ((s.segment g).state = .off ∨ (s.segment g).state = .down →
        exec (.scan p tag b low high) s = .next (responded p tag ⟨.segmentOff, []⟩ (s.served p))) ∧
      ((s.segment g).state = .up ∨ (s.segment g).state = .recovering →
        (∀ r x, (s.segment g).scan.state = .running r x →
          exec (.scan p tag b low high) s = .next (responded p tag ⟨.busy, []⟩ (s.served p))) ∧
        ((∀ r x, (s.segment g).scan.state ≠ .running r x) →
          exec (.scan p tag b low high) s = .next (responded p tag ⟨.accepted, []⟩ ((s.served p).setSegment g
            { s.segment g with
              scan :=
                { state := .running ⟨p, low.truncate 7, high.truncate 7⟩ (low.truncate 7), found := [] } })))))

/-- The recovery attempt step by step (R137): FC must rise; FD low is pulsed free at most twelve times, a held pulse failing;
the STOP must read FD high and the last reading both lines. That an FC held beyond 2 ms in that STOP fails the attempt as a
FD that reads low does is the model's choice (log entry 12). The end of an attempt (R138, R140): success makes the segment UP
with SEGMENT RECOVERED or UP, and both lines stand as last observed high, as step 5 has read them (that these levels are
stored is log entry 7); a failure below the third sets the retry time 50 ms on; the third makes it DOWN with SEGMENT
DOWN and aborts a RUNNING scan; that SEGMENT DOWN comes before SCAN_DONE is the model's choice (log entry 25). The retry
expiry makes the retry time absent. -/
def Obligations.RecoveryAttemptsFollowTheirStepsAndTheirEnds : Prop :=
  (∀ (r : RecoveryReads),
    (r.fcRises = false → attemptResult r = some false) ∧
    (r.fcRises = true → r.fd = true →
      (attemptResult r = some true ↔ r.stop = some true ∧ r.lastFc = true ∧ r.lastFd = true) ∧ attemptResult r ≠ none) ∧
    (∀ n rest, r.fcRises = true → r.fd = false → n < 12 → r.pulses = List.replicate n (some false) ++ some true :: rest →
      (attemptResult r = some true ↔ r.stop = some true ∧ r.lastFc = true ∧ r.lastFd = true) ∧ attemptResult r ≠ none) ∧
    (∀ n rest, r.fcRises = true → r.fd = false → n < 12 → r.pulses = List.replicate n (some false) ++ none :: rest →
      attemptResult r = some false) ∧
    (∀ rest, r.fcRises = true → r.fd = false → r.pulses = List.replicate 12 (some false) ++ rest →
      attemptResult r = some false)) ∧
  (∀ (g : SegId) (r : RecoveryReads) (cause : RecoveryCause) (s : State), (s.segment g).state = .recovering →
    (s.segment g).cause = some cause →
    ((s.segment g).retryTime = none → attemptResult r = some true →
      exec (.recoveryAttemptEnd g r) s = .next (offerNodeEvents
        (.segment g (if cause = .enable ∨ cause = .restart then .up else .recovered) cause)
        (s.setSegment g
          { s.segment g with
            lines := { (s.segment g).lines with fc := true, fd := true }
            state := .up, attempts := 0, cause := none, fairness := 0 }))) ∧
    ((s.segment g).retryTime = none → attemptResult r = some false → (s.segment g).attempts < 2 →
      exec (.recoveryAttemptEnd g r) s = .next (s.setSegment g
        { s.segment g with
          attempts := (s.segment g).attempts + 1, retryTime := some (s.clock + 50) })) ∧
    ((s.segment g).retryTime = none → attemptResult r = some false → 2 ≤ (s.segment g).attempts →
      exec (.recoveryAttemptEnd g r) s = .next (abortScan g (offerNodeEvents (.segment g .down cause)
        (s.setSegment g { s.segment g with state := .down, attempts := 3 })))) ∧
    (∀ due, (s.segment g).retryTime = some due → reached due s.clock = true →
      exec (.recoveryRetryExpiry g) s = .next (s.setSegment g { s.segment g with retryTime := none })))

/-! ### The two ports -/

/-- The first byte of a host transaction says what it is (R179), and what its bytes amount to settles the rest (R180, R186):
with another first byte than 0xA5 or 0x5A nothing changes; a request frame that is not complete waits for HSEL_N, whose rise
discards it; a body length above 96 drops it; a complete frame, whatever its kind and its CRC and whatever follows its last
CRC byte, is stored when both slots of the port are empty and dropped, the dropped flag set, when one is full (R177). A
response transaction shifts out 0x00, the presence byte and, from a full slot, the frame, then zeros; the slot empties when
its last CRC byte has been shifted out and not before (R181, R182). A transaction that was under way when hard reset ended is
ignored, whatever its bytes, until HSEL_N rises (R186); while hard reset lasts a transaction has no effect (R191, log entry
14). Of the pins, HSDO is at high impedance while HSEL_N is high (R191), RDY follows the response slot (R182) and ATTN the
HOST queue (R151). That a transaction is one command with all its bytes, after which HSEL_N has risen and the port is idle,
that a frame which is not complete is held until HOST_PORT_RESYNC instead, and that a command which finds the port ignoring is
more bytes of the old transaction, is log entry 11; that the pins are read from the records, and that the bytes shifted out
are recorded, is log entry 13. -/
def Obligations.HostTransactionsFollowTheirFirstByte : Prop :=
  ∀ (n : Nat) (bytes : List Byte) (s : State),
    (s.pins.hsdoDriven = decide (s.hostRx ≠ .idle) ∧ s.pins.rdy = decide ((s.portOf .host).response ≠ none) ∧
      s.pins.attn = decide ((s.notifyOf .host).queue ≠ [])) ∧
    (s.inReset = true →
      exec (.hostRequestTransaction bytes) s = .next s ∧ exec (.hostResponseTransaction n) s = .next s) ∧
    (s.inReset = false → s.hostRx = .ignoring →
      exec (.hostRequestTransaction bytes) s = .next { s with hsdo := List.replicate bytes.length 0 } ∧
      exec (.hostResponseTransaction n) s = .next { s with hsdo := List.replicate (n + 1) 0 }) ∧
    (s.inReset = false → s.hostRx ≠ .ignoring →
      (∀ b rest, b ≠ 0xA5 → b ≠ 0x5A → exec (.hostRequestTransaction (b :: rest)) s =
        .next { s with hostRx := .idle, hsdo := List.replicate (rest.length + 1) 0 }) ∧
      (∀ got : List Byte, got.length < 3 ∨ (∃ tag kind n rest, got = tag :: kind :: n :: rest ∧ n.toNat ≤ 96 ∧
          rest.length < n.toNat + 2) →
        exec (.hostRequestTransaction (0xA5 :: got)) s =
          .next { s with hostRx := .partialFrame got, hsdo := List.replicate (got.length + 1) 0 }) ∧
      (∀ tag kind n : Byte, ∀ rest, 96 < n.toNat →
        exec (.hostRequestTransaction (0xA5 :: tag :: kind :: n :: rest)) s =
          .next (({ s with hostRx := .idle, hsdo := List.replicate (rest.length + 4) 0 } : State).setPort .host
            { s.portOf .host with dropped := true })) ∧
      (∀ (tag kind n hi lo : Byte) (body further : List Byte), n.toNat ≤ 96 → body.length = n.toNat →
        exec (.hostRequestTransaction (0xA5 :: tag :: kind :: n :: body ++ hi :: lo :: further)) s =
          .next (({ s with
              hostRx := .idle, hsdo := List.replicate (6 + body.length + further.length) 0 } : State).setPort .host
            (if (s.portOf .host).response = none ∧ (s.portOf .host).request = none then
              { s.portOf .host with request := some ⟨tag, kind, body, hi ++ lo⟩ }
            else { s.portOf .host with dropped := true }))) ∧
      exec (.hostRequestTransaction []) s = .next { s with hostRx := .idle, hsdo := [] } ∧
      exec (.hostRequestTransaction (0x5A :: bytes)) s = exec (.hostResponseTransaction bytes.length) s ∧
      ((s.portOf .host).response = none →
        exec (.hostResponseTransaction n) s = .next { s with hostRx := .idle, hsdo := List.replicate (n + 1) 0 }) ∧
      (∀ f, (s.portOf .host).response = some f →
        (n ≤ f.bytes.length → ∃ t, exec (.hostResponseTransaction n) s = .next t ∧
          t = { s with hostRx := .idle, hsdo := 0 :: (1 :: f.bytes).take n } ∧ t.rdy = true) ∧
        (f.bytes.length < n → ∃ t, exec (.hostResponseTransaction n) s = .next t ∧
          t = ({ s with
              hostRx := .idle
              hsdo := 0 :: 1 :: f.bytes ++ List.replicate (n - 1 - f.bytes.length) 0 } : State).setPort .host
            { s.portOf .host with response := none } ∧ t.rdy = false))) ∧
    exec .hostPortResync s = .next { s with hostRx := .idle }

/-- The console receive assembly, state by state (R184, TABLE 10-2), for a byte, a framing error and the gap expiry. A byte
received in HUNT sets no gap, the sync byte among them; while hard reset lasts no byte is received (R186, R191). CTXD is high
but while a response goes out on it, behind its sync byte; its slot empties when it has been sent (R183, R185, R191). That no
byte is received while hard reset lasts is log entry 14; that CTXD is read from the response slot, and that the response sent
is recorded, is log entry 13. -/
def Obligations.ConsolePortFollowsItsTables : Prop :=
  ∀ (b : Byte) (s : State), ∀ at5 : State → Assembly → State,
    (at5 = fun t x => { t with assembly := x, gapDue := some (s.clock + 5) }) →
    (s.assembly = .hunt →
      (b = 0xC3 → s.inReset = false → exec (.consoleByteReceived b) s = .next { s with assembly := .header [] }) ∧
      (b ≠ 0xC3 ∨ s.inReset = true → exec (.consoleByteReceived b) s = .next s) ∧ exec .consoleFramingError s = .next s) ∧
    (∀ got, s.assembly = .header got → got.length < 2 →
      exec (.consoleByteReceived b) s = .next (at5 s (.header (got ++ [b])))) ∧
    (∀ tag kind, s.assembly = .header [tag, kind] →
      (b = 0 → exec (.consoleByteReceived b) s = .next (at5 s (.crc tag kind [] none))) ∧
      (1 ≤ b.toNat → b.toNat ≤ 96 → exec (.consoleByteReceived b) s = .next (at5 s (.body tag kind b.toNat []))) ∧
      (96 < b.toNat → exec (.consoleByteReceived b) s =
        .next (at5 (s.setPort .console { s.portOf .console with dropped := true }) .skip))) ∧
    (∀ tag kind left got, s.assembly = .body tag kind left got →
      (2 ≤ left → exec (.consoleByteReceived b) s = .next (at5 s (.body tag kind (left - 1) (got ++ [b])))) ∧
      (left = 1 → exec (.consoleByteReceived b) s = .next (at5 s (.crc tag kind (got ++ [b]) none)))) ∧
    (∀ tag kind body, s.assembly = .crc tag kind body none →
      exec (.consoleByteReceived b) s = .next (at5 s (.crc tag kind body (some b)))) ∧
    (∀ tag kind body hi, s.assembly = .crc tag kind body (some hi) →
      exec (.consoleByteReceived b) s = .next
        { s.setPort .console
            (if (s.portOf .console).response = none ∧ (s.portOf .console).request = none then
              { s.portOf .console with request := some ⟨tag, kind, body, hi ++ b⟩ }
            else { s.portOf .console with dropped := true }) with
          assembly := .hunt, gapDue := none }) ∧
    (s.assembly = .skip →
      exec (.consoleByteReceived b) s = .next (at5 s .skip) ∧ exec .consoleFramingError s = .next (at5 s .skip)) ∧
    (s.assembly ≠ .hunt → s.assembly ≠ .skip →
      exec .consoleFramingError s = .next { s with assembly := .hunt, gapDue := none }) ∧
    (∀ due, s.gapDue = some due → reached due s.clock = true →
      exec .consoleGapExpiry s = .next { s with assembly := .hunt, gapDue := none }) ∧
    ((s.portOf .console).response = none → s.pins.ctxd = .idle) ∧
    ∀ f, (s.portOf .console).response = some f → s.pins.ctxd = .sending (0xC3 :: f.bytes) ∧
      exec .consoleResponseSent s = .next
        { s.setPort .console { s.portOf .console with response := none } with ctxd := 0xC3 :: f.bytes }

/-- Two ports that offer a request are served in turn: the unit takes the one that was not served last, the only one that
offers otherwise, and the port it takes is then the one served last with its request taken out of its slot (R161). A frame
that arrives at the same port while the request is carried out finds both slots empty and is stored; a further one is
dropped, and the response placed behind it reports that (R177, R178; that the frames come with the command is log entry
15). The request is judged, carried out and answered with the port as the one served last, its slot emptied and the levels
brought stored (log entry 7). With no offer nothing is taken, which is log entry 4. -/
def Obligations.RequestUnitServesThePortsInTurn : Prop :=
  ∀ (la lb : Lines) (arriving : List RequestFrame) (s : State),
    (∀ p f, (s.portOf p).request = some f → (s.portOf p).response = none →
      (s.lastServed = p.other ∨ (s.portOf p.other).request = none ∨ (s.portOf p.other).response ≠ none) →
      (∀ a ∈ arriving, a.body.length ≤ 96) →
      ∃ t, exec (.requestTaken ⟨la, lb⟩ arriving) s = .next t ∧ t.lastServed = p ∧
        (t.portOf p).request = arriving.head? ∧ (t.portOf p).dropped = false ∧
        (∃ v w r, v = (s.setLines .a la).setLines .b lb ∧
          w = { v.setPort p { v.portOf p with request := none } with lastServed := p } ∧
          (t.portOf p).response = some r ∧ r.tag = f.tag ∧ r.status = (judge p f w).2.status ∧
          r.body = (judge p f w).2.body ∧ r.queueFlag = decide (((judge p f w).1.notifyOf p).queue ≠ []) ∧
          r.droppedFlag = ((s.portOf p).dropped || decide (2 ≤ arriving.length)) ∧
          { t with ports := s.ports } = { (judge p f w).1 with ports := s.ports }) ∧
        t.portOf p.other = s.portOf p.other) ∧
    ((∀ p, (s.portOf p).request = none ∨ (s.portOf p).response ≠ none) →
      exec (.requestTaken ⟨la, lb⟩ arriving) s = .next s)

/-! ### The field link -/

/-- What the engine does on the lines (R105, R106, R107, R108): it pulls FC low, sets FD while FC is low, releases FC, waits for
it to read high, and samples FD; a START, a RESTART and a STOP move FD while FC is high. In a bit it sends FD is released
for a 1, in a node's bit it drives nothing, to accept a node's byte it pulls FD low. What the engine then samples, and where
the sample is another driver's (R115). While a transaction is on the wires the segment's drivers are those of the cycle it
waits in, in a line check and outside a transaction both lines are released; that a transaction between two commands stands
where its engine has released FC and waits for it, so that FC is released, is log entry 16. The pins carry these drivers, read
from the transaction and not stored (log entry 13). -/
def Obligations.EngineDrivesTheLinesCycleByCycle : Prop :=
  (startActs = [.fd false, .fc false] ∧
    (∀ b, (Cycle.bit b).acts = [.fc false, .fd b, .fc true, .awaitFc, .sampleFd]) ∧
    Cycle.listen.acts = [.fc false, .fd true, .fc true, .awaitFc, .sampleFd] ∧
    (∀ accept, (Cycle.answer accept).acts = [.fc false, .fd (!accept), .fc true, .awaitFc, .sampleFd]) ∧
    Cycle.restart.acts = [.fc false, .fd true, .fc true, .awaitFc, .sampleFd, .fd false, .fc false] ∧
    Cycle.stop.acts = [.fc false, .fd false, .fc true, .awaitFc, .fd true, .sampleFd]) ∧
  (∀ (c : Cycle) (nodes : Bool),
    (c.fought (c.sampled nodes) = true ↔ nodes = false ∧ (c = .bit true ∨ c = .restart ∨ c = .stop)) ∧
    (∀ b, c = .bit b → c.sampled nodes = (b && nodes)) ∧ (c = .listen ∨ c = .restart ∨ c = .stop → c.sampled nodes = nodes)) ∧
  ∀ (s : State) (g : SegId),
    (s.pins.fieldA = (s.segment .a).drivers ∧ s.pins.fieldB = (s.segment .b).drivers) ∧
    ((s.segment g).transaction = none → (s.segment g).drivers = { fc := true, fd := true }) ∧
    ∀ t, (s.segment g).transaction = some t →
      (∀ since, t.phase = .lineCheck since → (s.segment g).drivers = { fc := true, fd := true }) ∧
      ∀ start released pos, t.phase = .onWires start released pos → (s.segment g).drivers.fc = true ∧
        (∀ n k, pos = .sending n k → (s.segment g).drivers.fd = if k < 8 then wireBit (t.work.sends.getD n 0) k else true) ∧
        (pos = .restart → (s.segment g).drivers.fd = true) ∧
        (∀ outcome, pos = .stop outcome → (s.segment g).drivers.fd = false) ∧
        ∀ got bits, pos = .receiving got bits → (s.segment g).drivers.fd =
          if bits.length < 8 then true else t.cleared || decide (t.work.receives ≤ got.length + 1)

/-- A read on the wires (R108, R113, R115, R119): address byte with direction write, item index, RESTART, address byte with
direction read; then the width data bytes and the check byte, of which the engine refuses the last alone. It ends with its
STOP and not before: NO_NODE when the first byte is refused, NO_ACCEPT when another one is, DONE with the data when the check
byte agrees, CHECK_FAIL otherwise, CONTEST when the STOP reads FD low; or at a 1 of the engine's that a node holds low, or a
RESTART that reads FD low, with CONTEST at once. That the nodes leave FD at one level in each cycle is log entry 8. -/
def Obligations.ReadEndsByItsTableOnTheWires : Prop :=
  ∀ (kind : ReadKind) (i : SlotNo) (x : Address) (item : Byte) (w : Width) (l1 l2 l3 l4 : List Bool) (data : List Byte)
    (check : Byte) (stop : Bool),
    ∀ work : Work, work = .read kind i x item w →
    ∀ wr rd : Byte, wr = x ++ 0#1 → rd = x ++ 1#1 →
    ∀ width : Nat, (width = match w with
      | .one => 1
      | .two => 2
      | .four => 4) →
    ∀ ends : List Bool → TxOutcome → Prop,
    (ends = fun l o => work.afterCycles false (.sending 0 0) l = .ended o ∧
      ∀ q r, l = q ++ r → r ≠ [] → ∃ pos, work.afterCycles false (.sending 0 0) q = .going pos) →
    (answered wr true l1 → ends (l1 ++ [stop]) (if stop then .noNode else .contest)) ∧
    (fights wr l1 → ends l1 .contest) ∧
    (answered wr false l1 →
      (answered item true l2 → ends (l1 ++ l2 ++ [stop]) (if stop then .noAccept else .contest)) ∧
      (fights item l2 → ends (l1 ++ l2) .contest) ∧
      (answered item false l2 →
        ends (l1 ++ l2 ++ [false]) .contest ∧
        (answered rd true l3 → ends (l1 ++ l2 ++ [true] ++ l3 ++ [stop]) (if stop then .noAccept else .contest)) ∧
        (fights rd l3 → ends (l1 ++ l2 ++ [true] ++ l3) .contest) ∧
        (answered rd false l3 → nodesSend (data ++ [check]) l4 → data.length = width →
          ends (l1 ++ l2 ++ [true] ++ l3 ++ l4 ++ [stop])
            (if stop then (if check = crc8 (item :: data) then .done data else .checkFail) else .contest)))) ∧
    ∀ got bits, bits.length = 8 → work.cycle false (.receiving got bits) = .answer (decide (got.length < width))

/-- A write on the wires (R108, R110, R112, R115, R119): address byte with direction write, item index, the low width bytes of
the value with the most significant first, and their check byte. It ends with its STOP and not before: DONE when every byte is
accepted, NO_NODE when the first one is refused, NO_ACCEPT when another one is, CONTEST when the STOP reads FD low; or at a 1
that a node holds low, with CONTEST at once; that the nodes leave FD at one level in each cycle is log entry 8. The check byte
is the register of R110, eight steps for each byte. -/
def Obligations.WriteEndsByItsTableOnTheWires : Prop :=
  (crc8 [] = 0 ∧ ∀ (l : List Byte) (b : Byte), crc8 (l ++ [b]) =
    Nat.repeat (fun r : Byte => if r.getLsbD 7 then (r <<< 1) ^^^ 0x07 else r <<< 1) 8 (crc8 l ^^^ b)) ∧
  ∀ (i : SlotNo) (x : Address) (item : Byte) (w : Width) (v : Value) (before rest : List Byte) (b : Byte)
    (l m : List Bool) (stop : Bool),
    ∀ work : Work, work = .write i x item w v →
    ∀ data bytes : List Byte, (data = match w with
      | .one => [v.extractLsb' 0 8]
      | .two => [v.extractLsb' 8 8, v.extractLsb' 0 8]
      | .four => [v.extractLsb' 24 8, v.extractLsb' 16 8, v.extractLsb' 8 8, v.extractLsb' 0 8]) →
    bytes = [x ++ 0#1, item] ++ data ++ [crc8 ([x ++ 0#1, item] ++ data)] →
    ∀ ends : List Bool → TxOutcome → Prop,
    (ends = fun l o => work.afterCycles false (.sending 0 0) l = .ended o ∧
      ∀ q r, l = q ++ r → r ≠ [] → ∃ pos, work.afterCycles false (.sending 0 0) q = .going pos) →
    (accepted bytes l → ends (l ++ [stop]) (if stop then .done [] else .contest)) ∧
    (bytes = before ++ b :: rest → accepted before l →
      (answered b true m →
        ends (l ++ m ++ [stop]) (if stop then (if before = [] then .noNode else .noAccept) else .contest)) ∧
      (fights b m → ends (l ++ m) .contest))

/-- A probe on the wires, a directory probe's or a scan step's (R108, R114, R115, R119): the address byte with direction write
alone. It ends with its STOP and not before: DONE when the byte is accepted, NO_NODE when it is refused, CONTEST when the
STOP reads FD low; or at a 1 that a node holds low, with CONTEST at once. That the nodes leave FD at one level in each cycle is
log entry 8. -/
def Obligations.ProbeEndsByItsTableOnTheWires : Prop :=
  ∀ (x : Address) (l : List Bool) (stop : Bool) (work : Work), work ∈ [Work.probe x, .scanStep x] →
    ∀ ends : List Bool → TxOutcome → Prop,
    (ends = fun l o => work.afterCycles false (.sending 0 0) l = .ended o ∧
      ∀ q r, l = q ++ r → r ≠ [] → ∃ pos, work.afterCycles false (.sending 0 0) q = .going pos) →
    (answered (x ++ 0#1) false l → ends (l ++ [stop]) (if stop then .done [] else .contest)) ∧
    (answered (x ++ 0#1) true l → ends (l ++ [stop]) (if stop then .noNode else .contest)) ∧
    (fights (x ++ 0#1) l → ends l .contest)

/-- An alert roll on the wires (R108, R115, R119, R123, R124): the roll address byte 0x11; then the winner's byte, which the
engine accepts, and its check byte, which it refuses. It ends with its STOP and not before: EMPTY when the roll address is
refused; WINNER with the upper seven bits of the byte when its direction bit is 1, the address lies from 0x10 to 0x6F and the
check byte is that of the byte, EMPTY otherwise; CONTEST when the STOP reads FD low; or at a 1 of 0x11 that a node holds low,
with CONTEST at once. That the nodes leave FD at one level in each cycle is log entry 8. -/
def Obligations.RollEndsByItsTableOnTheWires : Prop :=
  ∀ (l m : List Bool) (b check : Byte) (stop : Bool),
    ∀ ends : List Bool → TxOutcome → Prop,
    (ends = fun l o => Work.roll.afterCycles false (.sending 0 0) l = .ended o ∧
      ∀ q r, l = q ++ r → r ≠ [] → ∃ pos, Work.roll.afterCycles false (.sending 0 0) q = .going pos) →
    (answered 0x11 true l → ends (l ++ [stop]) (if stop then .empty else .contest)) ∧
    (fights 0x11 l → ends l .contest) ∧
    (answered 0x11 false l → nodesSend [b, check] m →
      (stop = false → ends (l ++ m ++ [stop]) .contest) ∧
      (stop = true → b.getLsbD 0 = true → 0x10 ≤ b.toNat / 2 → b.toNat / 2 ≤ 0x6F → check = crc8 [b] →
        ends (l ++ m ++ [stop]) (.winner (b.extractLsb' 1 7))) ∧
      (stop = true → b.getLsbD 0 = false ∨ b.toNat / 2 < 0x10 ∨ 0x6F < b.toNat / 2 ∨ check ≠ crc8 [b] →
        ends (l ++ m ++ [stop]) .empty)) ∧
    ∀ got bits, bits.length = 8 → Work.roll.cycle false (.receiving got bits) = .answer (decide (got.length = 0))

/-! ### The arbiter and the transactions -/

/-- The arbiter's choice, in the order of R134 with the fairness rule of R135: the lowest-numbered point whose verification read
is owed; the first command in the queue whose node is not LOST, or at a fairness count of 4 the first entry marked due; a
roll; the first entry marked due; the due probe of the LOST node with the earliest next probe time, the lowest address among
equals (R97), in a directory held in its order of keys (log entry 28); the next scan step. A refused claim changes nothing, and the engine chooses again by R134 at once (R136); that the choice refused is then passed over for the one after
it is the model's choice (log entry 7). -/
def Obligations.ArbiterChoosesInItsOrder : Prop :=
  ∀ (g : SegId) (s : State),
    ∀ owed : SlotNo → Prop,
    (owed = fun i => ∃ pt cmd v next, s.point? i = some pt ∧ pt.segment = g ∧ pt.command = some cmd ∧
      cmd.stand = .verifying v next ∧ ∀ f, pt.inFlight = some f → f.kind ≠ .verify) →
    ∀ eligible : SlotNo → Prop,
    (eligible = fun i => i ∈ (s.segment g).commandQueue ∧
      ∃ pt, s.point? i = some pt ∧ s.nodeLost pt.segment pt.address = false) →
    ∀ commandFirst pollFirst : SlotNo → Prop,
    (commandFirst = fun i => ∃ before after, (s.segment g).commandQueue = before ++ i :: after ∧ eligible i ∧
      ∀ j ∈ before, ¬eligible j) →
    (pollFirst = fun i => ∃ before e after, (s.segment g).schedule = before ++ e :: after ∧ e.slot = i ∧ e.marked = true ∧
      ∀ f ∈ before, f.marked = false) →
    ∀ probeDue : NodeEntry → Time → Prop,
    (probeDue = fun e t => e ∈ s.directory ∧ e.segment = g ∧ e.presence = .lost ∧ e.probe = some ⟨t, true⟩) →
    ∀ first : Choice → Prop, (first = fun c => (s.candidates g).head? = some c) →
    (∀ i, owed i → (∀ j, j < i → ¬owed j) → first (.verify i)) ∧
    ((∀ i, ¬owed i) →
      (∀ i, commandFirst i → ((s.segment g).fairness < 4 ∨ ∀ e ∈ (s.segment g).schedule, e.marked = false) →
        first (.command i)) ∧
      (∀ i j, eligible i → 4 ≤ (s.segment g).fairness → pollFirst j → first (.poll j)) ∧
      ((∀ i, ¬eligible i) →
        ((s.segment g).lines.fa = false → (s.segment g).suppression = none → first .roll) ∧
        ((s.segment g).lines.fa = true ∨ (s.segment g).suppression ≠ none →
          (∀ j, pollFirst j → first (.poll j)) ∧
          ((∀ e ∈ (s.segment g).schedule, e.marked = false) →
            (∀ e t, s.directory.Pairwise (fun e f => e.before f = true) → probeDue e t →
              (∀ f u, probeDue f u → f ≠ e → laterThan u t = true ∨ (u = t ∧ e.address.toNat < f.address.toNat)) →
              first (.probe e.address)) ∧
            ((∀ e t, ¬probeDue e t) →
              (∀ r x, (s.segment g).scan.state = .running r x → first (.scanStep x)) ∧
              ((∀ r x, (s.segment g).scan.state ≠ .running r x) → s.candidates g = [])))))) ∧
    ((s.segment g).state = .up → (s.segment g).transaction = none →
      (∀ before c after work t, s.candidates g = before ++ c :: after → (∀ d ∈ before, claimStart g d s = none) →
        claimStart g c s = some (work, t) →
        exec (.arbiterChoose g (s.segment g).lines) s = .next (beginTransaction g work t)) ∧
      ((∀ c ∈ s.candidates g, claimStart g c s = none) →
        exec (.arbiterChoose g (s.segment g).lines) s = .next s))

/-- ARBITER_CHOOSE on an idle engine whose choice is a command, a due poll or a verification of an ACTIVE point with nothing
in flight, a roll, a due probe or a scan step: the start is granted, the point leaves its collections with its due time kept
as the start due, the probe's next probe time becomes absent, the fairness count counts the write, returns to 0 at the poll
or stays; on lines that both read high the START is made at once, on a low line the line check begins (R19, R37, R75, R97,
R118, R135, R142). An engine that is not idle starts nothing. That the command brings the levels of the three lines, and that
they are stored as those last observed, also by an engine that is not idle, is log entry 7. -/
def Obligations.GrantedStartTakesThePointFromItsCollection : Prop :=
  ∀ (g : SegId) (l : Lines) (s w : State), w = s.setLines g l →
    ∀ phase : TxPhase,
    (phase = if l.fc = true ∧ l.fd = true then .onWires s.clock s.clock (.sending 0 0) else .lineCheck s.clock) →
    ∀ chosen : Choice → Prop, (chosen = fun c => (w.candidates g).head? = some c) →
    ((s.segment g).state ≠ .up ∨ (s.segment g).transaction ≠ none → exec (.arbiterChoose g l) s = .next w) ∧
    ((s.segment g).state = .up → (s.segment g).transaction = none →
      (∀ i pt v d, chosen (.command i) → s.point? i = some pt → pt.state = .active → pt.inFlight = none →
        s.stand i = .queued v d →
        exec (.arbiterChoose g l) s = .next ((s.setPoint i
          { pt with
            inFlight := some ⟨.write, (s.entryOf? g i).map (·.due)⟩
            command := pt.command.map fun c => { c with stand := .writing v none } }).setSegment g
          { s.segment g with
            lines := l
            schedule := (s.segment g).schedule.filter (·.slot ≠ i)
            commandQueue := (s.segment g).commandQueue.filter (· ≠ i)
            fairness := min 4 ((s.segment g).fairness + 1)
            transaction := some ⟨.write i pt.address pt.item pt.width v.value, phase, false⟩ })) ∧
      (∀ i pt e, chosen (.poll i) → s.point? i = some pt → pt.state = .active → pt.inFlight = none →
        s.entryOf? g i = some e → ∀ kind : ReadKind,
        (kind = if pt.command ≠ none then .guard else if pt.fresh.host ∨ pt.fresh.console then .refreshPoll else .poll) →
        exec (.arbiterChoose g l) s = .next ((s.setPoint i
          { pt with inFlight := some ⟨kind.flight, some e.due⟩ }).setSegment g
          { s.segment g with
            lines := l
            schedule := (s.segment g).schedule.filter (·.slot ≠ i)
            fairness := 0
            transaction := some ⟨.read kind i pt.address pt.item pt.width, phase, false⟩ })) ∧
      (∀ i pt, chosen (.verify i) → s.point? i = some pt → pt.state = .active → pt.inFlight = none →
        exec (.arbiterChoose g l) s = .next ((s.setPoint i
          { pt with inFlight := some ⟨.verify, (s.entryOf? g i).map (·.due)⟩ }).setSegment g
          { s.segment g with
            lines := l
            schedule := (s.segment g).schedule.filter (·.slot ≠ i)
            transaction := some ⟨.read .verify i pt.address pt.item pt.width, phase, false⟩ })) ∧
      (chosen .roll → exec (.arbiterChoose g l) s = .next (s.setSegment g
        { s.segment g with lines := l, transaction := some ⟨.roll, phase, false⟩ })) ∧
      (∀ x e t, chosen (.probe x) → s.nodeEntry? g x = some e → e.presence = .lost → e.probe = some ⟨t, true⟩ →
        exec (.arbiterChoose g l) s = .next ((s.setDirectory (s.directory.map fun f =>
            if f.segment = g ∧ f.address = x then { f with probe := none } else f)).setSegment g
          { s.segment g with lines := l, transaction := some ⟨.probe x, phase, false⟩ })) ∧
      (∀ x, chosen (.scanStep x) → exec (.arbiterChoose g l) s = .next (s.setSegment g
        { s.segment g with lines := l, transaction := some ⟨.scanStep x, phase, false⟩ })))

/-- The line events: a fall of FA is seen on the line; that the choice it brings (R133) is the step's and not this command's is
log entry 7. A START after the line check puts the transaction on the wires within 2 ms of the check's beginning and not
later (R118); that both lines then stand stored as high is log entry 7, and that an untimely START changes nothing is log
entry 4. A completion whose levels do not reach the transaction's end leaves it further on, FC last released then (R116);
that a completion may bring a part of the cycles is log entry 8, and that the FA level a ROLL_COMPLETION brings is stored then
too log entry 7. -/
def Obligations.LineEventsMoveTheTransactionOn : Prop :=
  ∀ (g : SegId) (s : State) (t : Transaction),
    exec (.faFall g) s = .next (s.setSegment g
      { s.segment g with lines := { (s.segment g).lines with fa := false } }) ∧
    ((s.segment g).transaction = some t →
      (∀ since, t.phase = .lineCheck since →
        (laterThan s.clock (since + 2) = false → exec (.startAfterLineCheck g) s = .next (s.setSegment g
          { s.segment g with
            lines := { (s.segment g).lines with fc := true, fd := true }
            transaction := some { t with phase := .onWires s.clock s.clock (.sending 0 0) } })) ∧
        (laterThan s.clock (since + 2) = true → exec (.startAfterLineCheck g) s = .next s)) ∧
      (∀ start released pos levels further fa, t.phase = .onWires start released pos → t.cleared = false → levels ≠ [] →
        t.work.afterCycles false pos levels = .going further →
        ∀ moved : Lines → State, (moved = fun l => s.setSegment g
          { s.segment g with
            lines := l, transaction := some { t with phase := .onWires start s.clock further } }) →
        (∀ i x item w kind c, t.work = .read kind i x item w →
          (c, kind) ∈ [(.pollCompletion g levels, .poll), (.refreshPollCompletion g levels, .refreshPoll),
            (.guardCompletion g levels, .guard), (.verifyCompletion g levels, ReadKind.verify)] →
          exec c s = .next (moved (s.segment g).lines)) ∧
        (∀ i x item w v, t.work = .write i x item w v →
          exec (.writeCompletion g levels) s = .next (moved (s.segment g).lines)) ∧
        (∀ x, t.work = .probe x → exec (.probeCompletion g levels) s = .next (moved (s.segment g).lines)) ∧
        (∀ x, t.work = .scanStep x → exec (.scanStepCompletion g levels) s = .next (moved (s.segment g).lines)) ∧
        (t.work = .roll →
          exec (.rollCompletion g levels fa) s = .next (moved { (s.segment g).lines with fa := fa }))))

/-- The expiry of the line check, the hold allowance, the transaction limit and the end of a cleared transaction: each leaves
nothing in flight on its segment, and one that is a segment fault makes the segment RECOVERING with the fault as its
cause, attempt count and fairness count 0 (R116, R117, R118, R120, R137), which is all that it does where the transaction was
cleared: no point, no node entry, no scan and no queue is reached (R120); that before its 2 ms or 20 ms none has an effect is
log entry 4, and that the allowance counts from the reading of the last command that moved the transaction log entry 8. A
cleared transaction completes the byte or the RESTART it stands in, at its first bit or in its midst, refusing a node's byte
as the end marker, and makes its STOP, at once when CLEAR was taken between two bytes; its end reaches no record. That
CLEAR_END_TRANSACTION tells whether CLEAR was taken between two bytes, and brings the levels of the cycles, is log entry
9. -/
def Obligations.SegmentFaultsBeginARecovery : Prop :=
  ([TxOutcome.contest, .timeout, .stuck].map TxOutcome.fault? = [some .contest, some .timeout, some .stuck] ∧
    ∀ data x, [TxOutcome.done data, .noNode, .noAccept, .checkFail, .winner x, .empty].all (·.fault? = none) = true) ∧
  ∀ (g : SegId) (s : State) (t : Transaction), (s.segment g).transaction = some t →
    ∀ (faulted : Instr → RecoveryCause → Prop),
    (faulted = fun c cause => ∃ u, exec c s = .next u ∧ (u.segment g).transaction = none ∧
      (u.segment g).state = .recovering ∧ (u.segment g).cause = some cause ∧ (u.segment g).attempts = 0 ∧
      (u.segment g).fairness = 0 ∧ (u.segment g).retryTime = none ∧
      (t.cleared = true → u = s.setSegment g
        { s.segment g with
          transaction := none, state := .recovering, cause := some cause, attempts := 0, retryTime := none
          fairness := 0 })) →
    (∀ since, t.phase = .lineCheck since →
      (reached (since + 2) s.clock = true → faulted (.lineCheckExpiry g) .stuck) ∧
      (reached (since + 2) s.clock = false → exec (.lineCheckExpiry g) s = .next s)) ∧
    (∀ start released pos, t.phase = .onWires start released pos →
      (reached (released + 2) s.clock = true → faulted (.holdAllowanceExpiry g) .timeout) ∧
      (reached (released + 2) s.clock = false → exec (.holdAllowanceExpiry g) s = .next s) ∧
      (reached (start + 20) s.clock = true → faulted (.transactionLimitExpiry g) .timeout) ∧
      (reached (start + 20) s.clock = false → exec (.transactionLimitExpiry g) s = .next s) ∧
      (t.cleared = true → ∀ (between stop : Bool) (levels : List Bool) (b : Byte),
        ∀ ends : List Bool → Prop,
        (ends = fun l => (stop = true → exec (.clearEndTransaction g between (l ++ [stop])) s =
            .next (s.setSegment g { s.segment g with transaction := none })) ∧
          (stop = false → faulted (.clearEndTransaction g between (l ++ [stop])) .contest)) →
        (∀ n, pos = .sending n 0 → between = true → ends []) ∧
        (∀ n made, pos = .sending n made.length → made.length ≤ 8 → between = false ∨ made ≠ [] →
          (∀ refuse, answered (t.work.sends.getD n 0) refuse (made ++ levels) → ends levels) ∧
          (levels ≠ [] → fights (t.work.sends.getD n 0) (made ++ levels) →
            faulted (.clearEndTransaction g between levels) .contest)) ∧
        (pos = .restart → (between = true → ends []) ∧ (between = false → ends [true]) ∧
          (between = false → faulted (.clearEndTransaction g between [false]) .contest)) ∧
        (∀ got, pos = .receiving got [] → between = true → ends []) ∧
        (∀ got bits, pos = .receiving got bits → bits.length ≤ 8 → between = false ∨ bits ≠ [] →
          nodesSend [b] (bits ++ levels) → ends levels) ∧
        (∀ got bits, bits.length = 8 → t.work.cycle true (.receiving got bits) = .answer false) ∧
        (∀ outcome, pos = .stop outcome → outcome.fault? = none → ends [])))

/-- What a segment fault or an abandonment makes of the transaction's record. A POLL, REFRESH-POLL or GUARD leaves its point's
record alone, and the point is due now again (R42, TABLE 2-2). A WRITE or VERIFY is no attempt: the value goes back to the
head of its queue, or waits on a HELD point, or gives way to a stored next value; a guarded OUTPUT is due now again (R79, R80,
R89). A LOST node's probe is due now again (R98). A scan step and a roll reach no record (R121, R142). A RETIRING point's slot
is freed, with RETIRED to the requester (R25). The abandonment itself does no more (R121); the end of the line check's 2 ms is
STUCK, the hold allowance's or the transaction limit's is TIMEOUT, and each makes the segment RECOVERING (R116, R117, R118,
R137). That FAILED EXPIRED of a next value reports attempts 0 is log entry 21, and that the allowance counts from the reading
of the last command that moved the transaction log entry 8. -/
def Obligations.FaultsAndAbandonmentsReachTheRecords : Prop :=
  ∀ (g : SegId) (t : Transaction) (s v : State), (s.segment g).transaction = some t → t.cleared = false →
    v = s.setSegment g { s.segment g with transaction := none } →
    ∀ becomes : State → Prop,
    (becomes = fun r => abandon g s = r ∧
      ∀ (c : Instr) (cause : RecoveryCause),
        (c = .lineCheckExpiry g ∧ cause = .stuck ∧
            ∃ since, t.phase = .lineCheck since ∧ reached (since + 2) s.clock = true) ∨
          (c = .holdAllowanceExpiry g ∧ cause = .timeout ∧
            ∃ start released pos, t.phase = .onWires start released pos ∧ reached (released + 2) s.clock = true) ∨
          (c = .transactionLimitExpiry g ∧ cause = .timeout ∧
            ∃ start released pos, t.phase = .onWires start released pos ∧ reached (start + 20) s.clock = true) →
        exec c s = .next (r.setSegment g
          { r.segment g with
            state := .recovering, cause := some cause, attempts := 0, retryTime := none, fairness := 0 })) →
    (∀ i pt, s.point? i = some pt → pt.segment = g →
      (∃ kind x item w, t.work = .read kind i x item w) ∨ (∃ x item w value, t.work = .write i x item w value) →
      (∀ requester, pt.state = .retiring requester →
        becomes (offerSystem requester (.retired (s.handle i)) (freeSlot i v))) ∧
      ((∀ q, pt.state ≠ .retiring q) →
        ∀ dueAgain : List SchedEntry,
        (dueAgain = if pt.state = .active ∧ pt.period ≠ none ∧ s.nodeLost g pt.address = false ∧ s.entryOf? g i = none then
            insertEntry ⟨i, ⟨s.clock, false⟩, true⟩ (s.segment g).schedule
          else (s.segment g).schedule) →
        (∀ kind x item w, t.work = .read kind i x item w → kind ≠ .verify →
          becomes ((v.setPoint i { pt with inFlight := none }).setSegment g
            { v.segment g with schedule := dueAgain })) ∧
        (∀ d next, (s.stand i = .writing d next ∨ s.stand i = .verifying d next) →
          (∃ x item w, t.work = .read .verify i x item w) ∨ (∃ x item w value, t.work = .write i x item w value) →
          ∀ waiting : Issued → Option Time → Stand,
          (waiting = fun value due => if pt.state = .active then .queued value due else .pending value due) →
          ∀ queue : List SlotNo,
          (queue = if pt.state = .active then i :: (s.segment g).commandQueue else (s.segment g).commandQueue) →
          (next = none → becomes ((v.setPoint i
              { pt with
                inFlight := none, command := pt.command.map fun c => { c with stand := waiting d none } }).setSegment g
            { v.segment g with schedule := dueAgain, commandQueue := queue })) ∧
          ∀ nv, next = some nv →
            ∀ u, u = closeCommand i d .superseded (v.setPoint i { pt with inFlight := none }) →
            (nv.expired = true → becomes ((closeCommand i nv.issued (.failed .expired 0)
                (modCommand i (fun c => { c with stand := .failed nv.issued .expired, attempts := 0 }) u)).setSegment g
              { v.segment g with schedule := dueAgain })) ∧
            (nv.expired = false → becomes
              ((modCommand i (fun c => { c with stand := waiting nv.issued nv.deadline, attempts := 0 }) u).setSegment g
                { v.segment g with schedule := dueAgain, commandQueue := queue }))))) ∧
    (∀ x, t.work = .probe x → becomes (v.setDirectory (s.directory.map fun f =>
      if f.segment = g ∧ f.address = x ∧ f.presence = .lost then { f with probe := some ⟨s.clock, true⟩ } else f))) ∧
    ((∃ x, t.work = .scanStep x) ∨ t.work = .roll → becomes v)

/-! ### The outcomes of the transactions -/

/-- A read taken from the schedule ends (R40, R41, R42, R43, R45, R56, R61, R87, R88): a good read stores the value with the
present time, failure count 0 and quality GOOD, sets the stale expiry of an ACTIVE input, evaluates the alarm and the
deadband, and on a guarded output compares with the confirmed value, a restore QUEUED at the tail of its segment's command
queue (R70, R88); a failed read counts a failure and is FAULT at the fourth (that FAULT comes when the count becomes exactly 4 is
log entry 10); a segment fault leaves the record alone. A POLL or REFRESH-POLL that is no segment fault leaves both fresh wanted
flags cleared, a GUARD leaves them as they are (R53). No other outcome of a read changes a command queue, no other record's
standing changes, and what `transactionFrame` names stays; a point that is HELD keeps its late flag, rhythm due and place in
the schedule, unless its node returns or is lost. The value of a read's data bytes, most significant first (R4, R40): a signed point's extended
by the top bit of the first byte, an unsigned one's with zeros; and the number that a comparison reads in it (R55): two's
complement on a signed point, from 0 to 2^32 - 1 on an unsigned one. -/
def Obligations.ReadOutcomesReachThePointsRecord : Prop :=
  (∀ b3 b2 b1 b0 : Byte,
    extendValue .one false (assembleBytes [b0]) = 0#24 ++ b0 ∧
    extendValue .one true (assembleBytes [b0]) = (if b0.getLsbD 7 then 0xFFFFFF#24 else 0#24) ++ b0 ∧
    extendValue .two false (assembleBytes [b1, b0]) = 0#16 ++ b1 ++ b0 ∧
    extendValue .two true (assembleBytes [b1, b0]) = (if b1.getLsbD 7 then 0xFFFF#16 else 0#16) ++ b1 ++ b0 ∧
    ∀ signed, extendValue .four signed (assembleBytes [b3, b2, b1, b0]) = b3 ++ b2 ++ b1 ++ b0) ∧
  (∀ v : Value, asInt false v = v.toNat ∧
    asInt true v = if v.toNat < 2 ^ 31 then (v.toNat : Int) else (v.toNat : Int) - 2 ^ 32) ∧
  ∀ (g : SegId) (kind : ReadKind) (i : SlotNo) (x : Address) (item : Byte) (w : Width) (start released : Time)
    (pos : LinkPos) (levels : List Bool) (outcome : TxOutcome) (pt : Point) (s : State) (c : Instr),
    (c, kind) ∈ [(.pollCompletion g levels, .poll), (.refreshPollCompletion g levels, .refreshPoll),
      (.guardCompletion g levels, ReadKind.guard)] →
    (s.segment g).transaction = some ⟨.read kind i x item w, .onWires start released pos, false⟩ →
    (Work.read kind i x item w).afterCycles false pos levels = .ended outcome → s.point? i = some pt → (∀ q, pt.state ≠ .retiring q) →
    ∃ u q, exec c s = .next u ∧ u.point? i = some q ∧ (u.segment g).transaction = none ∧ standingsKept i s u ∧
      transactionFrame g x (.read kind i x item w) outcome s u ∧
      q.inFlight = none ∧ q.state = pt.state ∧ q.identity = pt.identity ∧ q.owner = pt.owner ∧
      q.subscriptions = pt.subscriptions ∧ q.limits = pt.limits ∧ q.deadband = pt.deadband ∧
      (pt.state = .held ∨ pt.period = none → s.nodeStays g x outcome →
        q.late = pt.late ∧ q.rhythmDue = pt.rhythmDue ∧ ∀ h, u.entryOf? h i = s.entryOf? h i) ∧
      ∀ queues : (SegId → List SlotNo) → Prop, (queues = fun after => ∀ h, (u.segment h).commandQueue = after h) →
      ∀ before : SegId → List SlotNo, (before = fun h => (s.segment h).commandQueue) →
      (∀ data v, outcome = .done data → v = extendValue pt.width pt.signed (assembleBytes data) →
        q.value = some ⟨v, s.clock, false⟩ ∧ q.failures = 0 ∧ q.quality = .good ∧
        q.fresh = (if kind = .guard then pt.fresh else ⟨false, false⟩) ∧
        (pt.state = .active → pt.command = none → q.staleDue = pt.staleLimit.map (s.clock + ·.zeroExtend 32)) ∧
        (pt.state = .held ∨ pt.command ≠ none → q.staleDue = pt.staleDue) ∧
        (pt.limits = none → q.alarm = pt.alarm) ∧
        (∀ l, pt.limits = some l → q.alarm = evaluateAlarm pt.signed l pt.alarm v) ∧
        (pt.deadband = none → q.reported = pt.reported) ∧
        (∀ d, pt.deadband = some d →
          (pt.reported = none → q.reported = some v) ∧
          ∀ r, pt.reported = some r → q.reported =
            if (d.toNat : Int) ≤ ((asInt pt.signed v - asInt pt.signed r).natAbs : Int) then some v else some r) ∧
        (∀ cmd d cv, kind = .guard → pt.command = some cmd → cmd.stand = .confirmed d → cmd.confirmedValue = some cv →
          v ≠ cv → cmd.restore = true →
          q.command = some
            { cmd with
              attempts := 0
              stand := if pt.state = .active then .queued ⟨cv, pt.owner.getD .host⟩ none
                else .pending ⟨cv, pt.owner.getD .host⟩ none } ∧
          queues fun h => if pt.state = .active ∧ h = pt.segment then before h ++ [i] else before h) ∧
        (kind ≠ .guard ∨ (∀ cmd, pt.command = some cmd →
            (∀ d, cmd.stand ≠ .confirmed d) ∨ cmd.confirmedValue = none ∨ cmd.confirmedValue = some v ∨
              cmd.restore = false) →
          q.command = pt.command ∧ queues before)) ∧
      (outcome = .noNode ∨ outcome = .noAccept ∨ outcome = .checkFail →
        q.failures = min 255 (pt.failures + 1) ∧ q.quality = (if pt.failures = 3 then .fault else pt.quality) ∧
        q.value = pt.value ∧ q.staleDue = pt.staleDue ∧ q.alarm = pt.alarm ∧ q.reported = pt.reported ∧
        q.fresh = (if kind = .guard then pt.fresh else ⟨false, false⟩) ∧ q.command = pt.command ∧ queues before) ∧
      (∀ cause, outcome.fault? = some cause → q = { pt with inFlight := none } ∧ queues before ∧
        (u.segment g).state = .recovering ∧ (u.segment g).cause = some cause)

/-- The notifications of a POLL, REFRESH-POLL or GUARD that ends for a HELD or ACTIVE point, for one port whose queue has room,
and their order (R46): QUALITY when the quality changed (R45), ALARM when the alarm changed (R58), VALUE when the deadband
test passed (R62), DRIFT for a GUARD that found a difference (R87), each where the port subscribes to it; FRESH where the port's
fresh wanted flag is set, for a POLL or REFRESH-POLL (R53). They are stamped with the completion time and numbered on. A
segment fault makes none (R42). The node's entry, if any, neither returns nor is lost by the outcome. -/
def Obligations.ReadCompletionNotifiesInOrder : Prop :=
  ∀ (g : SegId) (kind : ReadKind) (i : SlotNo) (x : Address) (item : Byte) (w : Width) (start released : Time)
    (pos : LinkPos) (levels : List Bool) (outcome : TxOutcome) (pt : Point) (p : Port) (s : State) (c : Instr),
    (c, kind) ∈ [(.pollCompletion g levels, .poll), (.refreshPollCompletion g levels, .refreshPoll),
      (.guardCompletion g levels, ReadKind.guard)] →
    (s.segment g).transaction = some ⟨.read kind i x item w, .onWires start released pos, false⟩ →
    (Work.read kind i x item w).afterCycles false pos levels = .ended outcome → s.point? i = some pt →
    (∀ q, pt.state ≠ .retiring q) → s.nodeStays g x outcome →
    (s.notifyOf p).enabled = true → (s.notifyOf p).queue.length ≤ 59 →
    ∀ makes : List Note → Prop,
    (makes = fun notes => ∃ u, exec c s = .next u ∧ (u.notifyOf p).queue = (s.notifyOf p).queue ++
      notes.zipIdx.map fun n => ⟨(s.notifyOf p).nextSeq + BitVec.ofNat 16 n.2, s.clock, n.1⟩) →
    ∀ only : Bool → Note → List Note, (only = fun b n => if b then [n] else []) →
    ∀ sub : SubSet, sub = pt.subscriptions.get p →
    ∀ fresh : Bool, fresh = (pt.fresh.get p && decide (kind ≠ .guard)) →
    (∀ data v, outcome = .done data → v = extendValue pt.width pt.signed (assembleBytes data) →
      ∀ alarm : Alarm, (alarm = match pt.limits with
        | none => pt.alarm
        | some l => evaluateAlarm pt.signed l pt.alarm v) →
      ∀ passes : Bool, (passes = match pt.deadband, pt.reported with
        | none, _ => false
        | some _, none => true
        | some d, some r => decide ((d.toNat : Int) ≤ ((asInt pt.signed v - asInt pt.signed r).natAbs : Int))) →
      ∀ drift : Option Value, (drift = match kind, s.stand i, pt.command.bind (·.confirmedValue) with
        | .guard, .confirmed _, some cv => if v = cv then none else some cv
        | _, _, _ => none) →
      makes (only (pt.quality ≠ .good && sub.quality) (.quality (s.handle i) pt.quality .good 0
            (if pt.quality = .empty then .firstValue else .recovered))
          ++ only (alarm ≠ pt.alarm && sub.alarm) (.alarm (s.handle i) v pt.alarm alarm .limit)
          ++ only (passes && sub.value) (.value (s.handle i) v .good)
          ++ only (drift.isSome && sub.command) (.drift (s.handle i) v (drift.getD 0))
          ++ only fresh (.fresh (s.handle i) (.done v) .good))) ∧
    (∀ answer : FreshOutcome,
      (outcome, answer) ∈ [(.noNode, .noNode), (.noAccept, .noAccept), (.checkFail, FreshOutcome.checkFail)] →
      ∀ after : Quality, (after = if pt.failures = 3 then .fault else pt.quality) →
      makes (only (after ≠ pt.quality && sub.quality) (.quality (s.handle i) pt.quality after 4 .failureLimit)
        ++ only fresh (.fresh (s.handle i) answer after))) ∧
    (outcome.fault? ≠ none → makes [])

/-- Where the read's point re-enters its schedule, a guarded OUTPUT's after a GUARD of any outcome among them (R38, R39, R42,
R89): one period after its start due, or, with the late flag
set, one period after the completion when that is not later than the completion; a refresh takes the rhythm due instead
and leaves one that still lies ahead; after a segment fault it is due now. A due time that lies ahead is not marked due, one
that is now is marked at once (R36). No point has the period 0 (R5), as `Obligations.StepsKeepPointsApartAndFixed` says. -/
def Obligations.ReadsReenterTheScheduleByTheirRhythm : Prop :=
  ∀ (g : SegId) (kind : ReadKind) (i : SlotNo) (x : Address) (item : Byte) (w : Width) (start released : Time)
    (pos : LinkPos) (levels : List Bool) (outcome : TxOutcome) (pt : Point) (period : Interval) (k : FlightKind) (d : Due) (s : State)
    (c : Instr),
    (c, kind) ∈ [(.pollCompletion g levels, .poll), (.refreshPollCompletion g levels, .refreshPoll),
      (.guardCompletion g levels, ReadKind.guard)] →
    (s.segment g).transaction = some ⟨.read kind i x item w, .onWires start released pos, false⟩ →
    (Work.read kind i x item w).afterCycles false pos levels = .ended outcome → s.point? i = some pt → pt.state = .active → pt.period = some period →
    pt.inFlight = some ⟨k, some d⟩ → s.entryOf? pt.segment i = none →
    ∃ u q, exec c s = .next u ∧ u.point? i = some q ∧
      (u.nodeLost pt.segment pt.address = true → u.entryOf? pt.segment i = none ∧ q.late = pt.late) ∧
      (u.nodeLost pt.segment pt.address = false → ∃ e, u.entryOf? pt.segment i = some e ∧
        ∀ rhythm : Due → Prop,
        (rhythm = fun b =>
          (b.capped = false ∧ laterThan (b.time + period.zeroExtend 32) s.clock = true →
            e.due = ⟨b.time + period.zeroExtend 32, false⟩ ∧ e.marked = false ∧ q.late = false) ∧
          (b.capped = true ∨ laterThan (b.time + period.zeroExtend 32) s.clock = false →
            e.due = ⟨s.clock + period.zeroExtend 32, false⟩ ∧ (period ≠ 0 → e.marked = false) ∧ q.late = true)) →
        (outcome.fault? = none → q.rhythmDue = none ∧
          (kind ≠ .refreshPoll ∨ pt.rhythmDue = none → rhythm d) ∧
          (∀ r, kind = .refreshPoll → pt.rhythmDue = some r →
            (r.capped = false ∧ laterThan r.time s.clock = true → e.due = r ∧ e.marked = false ∧ q.late = pt.late) ∧
            (r.capped = true ∨ laterThan r.time s.clock = false → rhythm r))) ∧
        (outcome.fault? ≠ none → e.due = ⟨s.clock, false⟩ ∧ e.marked = true ∧ q.late = pt.late ∧
          q.rhythmDue = pt.rhythmDue ∧ q.fresh = pt.fresh))

/-- A WRITE or VERIFY ends (R76, R77, R78, R79, R80): an accepted write waits for its verification, a read of the same value
confirms, another outcome counts an attempt, the third one fails the command, a segment fault or a HELD point's write counts
none; a stored next value then takes the closed value's place. The command goes back to wait at the head of its queue. The
notifications to one port whose queue has room, behind those of the node's entry if it returns or is lost: QUALITY when a good
VERIFY changed the quality and the port subscribes to it (R44, R45), then the closing COMMAND of the desired value, then
FAILED EXPIRED of a next value that is promoted expired (R46, R80, R82, R85), each to its issuer and to a port that subscribes
to COMMAND. That FAILED EXPIRED of a promotion reports attempts 0 is log entry 21. A guarded OUTPUT re-enters its schedule at
its start due, after a segment fault at the present reading, its late flag as it was (R89, TABLE 2-2). What `transactionFrame`
names stays, and so do the point's fresh wanted flags and, unless its node returns or is lost, its rhythm due and, on a HELD or
unguarded OUTPUT, its place in the schedule. That a next value is
promoted on a HELD point's accepted write is log entry 10. -/
def Obligations.DeliveryStepMovesTheCommand : Prop :=
  ∀ (g : SegId) (i : SlotNo) (x : Address) (item : Byte) (w : Width) (start released : Time) (pos : LinkPos)
    (levels : List Bool) (pt : Point) (cmd : Command) (d : Issued) (next : Option NextValue) (s : State),
    s.point? i = some pt → pt.command = some cmd → (∀ q, pt.state ≠ .retiring q) →
    ∀ waiting : Issued → Option Time → Stand,
    (waiting = fun v due => if pt.state = .active then .queued v due else .pending v due) →
    ∀ closed : Stand → Nat → Close → Stand × Nat × Option Close,
    (closed = fun stand n close =>
      match next with
      | none => (stand, n, some close)
      | some nv =>
        (if nv.expired then .failed nv.issued .expired else waiting nv.issued nv.deadline, 0, some close)) →
    ∀ undone : Nat → Stand × Nat × Option Close,
    (undone = fun n => if next = none then (waiting d none, n, none) else closed .noCommand 0 .superseded) →
    ∀ attempt : FailCause → Stand × Nat × Option Close,
    (attempt = fun cause =>
      if cmd.attempts < 2 then undone (cmd.attempts + 1)
      else closed (.failed d cause) (cmd.attempts + 1) (.failed cause (cmd.attempts + 1))) →
    ∀ ends : Instr → TxOutcome → Option Value → Option Value → Stand × Nat × Option Close → Prop,
    (ends = fun c outcome value confirmed r => ∃ u q, exec c s = .next u ∧ u.point? i = some q ∧
      (u.segment g).transaction = none ∧ standingsKept i s u ∧
      (∀ work t, (s.segment g).transaction = some t → work = t.work → transactionFrame g x work outcome s u) ∧
      q.fresh = pt.fresh ∧
      (s.nodeStays g x outcome → q.rhythmDue = pt.rhythmDue ∧
        (pt.state = .held ∨ pt.period = none → ∀ h, u.entryOf? h i = s.entryOf? h i)) ∧
      q.standing =
        { pt.standing with
          inFlight := none
          command := some { cmd with stand := r.1, attempts := r.2.1, confirmedValue := confirmed }
          value := value.elim pt.value fun v => some ⟨v, s.clock, false⟩
          failures := if value = none then pt.failures else 0
          quality := if value = none then pt.quality else .good } ∧
      (∀ v due, r.1 = .queued v due →
        (u.segment pt.segment).commandQueue = i :: (s.segment pt.segment).commandQueue) ∧
      ((∀ v due, r.1 ≠ .queued v due) → (u.segment pt.segment).commandQueue = (s.segment pt.segment).commandQueue) ∧
      (∀ h, h ≠ pt.segment → (u.segment h).commandQueue = (s.segment h).commandQueue) ∧
      (∀ cause, outcome.fault? = some cause → (u.segment g).state = .recovering ∧ (u.segment g).cause = some cause) ∧
      (∀ k began period, pt.inFlight = some ⟨k, some began⟩ → pt.period = some period → pt.state = .active →
        s.entryOf? pt.segment i = none →
        (u.nodeLost pt.segment pt.address = true → u.entryOf? pt.segment i = none) ∧
        (u.nodeLost pt.segment pt.address = false →
          (outcome.fault? = none → u.entryOf? pt.segment i = some ⟨i, began, began.capped || reached began.time s.clock⟩) ∧
          (outcome.fault? ≠ none → u.entryOf? pt.segment i = some ⟨i, ⟨s.clock, false⟩, true⟩))) ∧
      ∀ p, (s.notifyOf p).enabled = true → (s.notifyOf p).queue.length + s.pointsNaming g x + 4 ≤ 64 →
        ∀ reaches : Issued → Bool,
        (reaches = fun v => decide (v.issuer = p) || (pt.subscriptions.get p).command) →
        ∃ ofNode : List Note,
          (s.nodeStays g x outcome → ofNode = []) ∧
          (u.notifyOf p).queue = (s.notifyOf p).queue ++
            ((ofNode
              ++ (if value ≠ none ∧ pt.quality ≠ .good ∧ (pt.subscriptions.get p).quality = true then
                  [Note.quality (s.handle i) pt.quality .good 0
                    (if pt.quality = .empty then .firstValue else .recovered)]
                else [])
              ++ (match r.2.2 with
                | some close => if reaches d then [Note.command (s.handle i) d.value close] else []
                | none => [])
              ++ (match r.2.2, next with
                | some _, some nv =>
                  if nv.expired = true ∧ reaches nv.issued = true then
                    [Note.command (s.handle i) nv.issued.value (.failed .expired 0)]
                  else []
                | _, _ => [])).zipIdx.map
              fun n => ⟨(s.notifyOf p).nextSeq + BitVec.ofNat 16 n.2, s.clock, n.1⟩)) →
    (∀ v outcome, (s.segment g).transaction = some ⟨.write i x item w v, .onWires start released pos, false⟩ →
      cmd.stand = .writing d next → (Work.write i x item w v).afterCycles false pos levels = .ended outcome →
      (∀ data, outcome = .done data → pt.state = .active →
        ends (.writeCompletion g levels) outcome none cmd.confirmedValue (.verifying d next, cmd.attempts, none)) ∧
      (∀ data, outcome = .done data → pt.state = .held →
        ends (.writeCompletion g levels) outcome none cmd.confirmedValue (undone cmd.attempts)) ∧
      (outcome = .noNode → ends (.writeCompletion g levels) outcome none cmd.confirmedValue (attempt .noNode)) ∧
      (outcome = .noAccept → ends (.writeCompletion g levels) outcome none cmd.confirmedValue (attempt .noAccept)) ∧
      (outcome.fault? ≠ none →
        ends (.writeCompletion g levels) outcome none cmd.confirmedValue (undone cmd.attempts))) ∧
    (∀ outcome, (s.segment g).transaction = some ⟨.read .verify i x item w, .onWires start released pos, false⟩ →
      cmd.stand = .verifying d next → (Work.read .verify i x item w).afterCycles false pos levels = .ended outcome →
      (∀ data v, outcome = .done data → v = extendValue pt.width pt.signed (assembleBytes data) →
        (v = d.value → ends (.verifyCompletion g levels) outcome (some v) (some v)
          (closed (.confirmed d) cmd.attempts (.confirmed cmd.attempts))) ∧
        (v ≠ d.value → ends (.verifyCompletion g levels) outcome (some v) cmd.confirmedValue (attempt .mismatch))) ∧
      (outcome = .noNode → ends (.verifyCompletion g levels) outcome none cmd.confirmedValue (attempt .noNode)) ∧
      (outcome = .noAccept → ends (.verifyCompletion g levels) outcome none cmd.confirmedValue (attempt .noAccept)) ∧
      (outcome = .checkFail → ends (.verifyCompletion g levels) outcome none cmd.confirmedValue (attempt .check)) ∧
      (outcome.fault? ≠ none →
        ends (.verifyCompletion g levels) outcome none cmd.confirmedValue (undone cmd.attempts)))

/-- What a node's directory entry counts, whichever transaction the outcome is of (R94, R95, R96, R98, R99): an accepted address
makes it PRESENT with miss count 0, and a LOST one returns, NODE BACK first among the notifications and its points due now;
a refused one counts a miss, and the eighth makes it LOST, NODE LOST first among the notifications, its points out of the
schedule with their rhythm dues (R37) and fresh wanted flags gone, each flag answered NO_NODE (R53), and its probe 1,000 ms on
(that the completing point's own rhythm due goes too is log entry 17); a
probe refused or lost to a segment fault sets the next probe time. Every other entry of the directory, the standing of every
point but the one the transaction serves (of every point, for a probe or a scan step), and what else `transactionFrame` names
stay as they were; a probe that neither returns the node nor loses it changes no record and notifies nobody. -/
def Obligations.NodeEntryCountsTheOutcomes : Prop :=
  ∀ (g : SegId) (x : Address) (start released : Time) (pos : LinkPos) (levels : List Bool) (outcome : TxOutcome)
    (e : NodeEntry) (i : SlotNo) (item : Byte) (w : Width) (value : Value) (work : Work) (s : State) (c : Instr),
    (s.segment g).transaction = some ⟨work, .onWires start released pos, false⟩ → s.nodeEntry? g x = some e →
    work.afterCycles false pos levels = .ended outcome →
    (c, work) ∈ [(.probeCompletion g levels, .probe x), (.scanStepCompletion g levels, Work.scanStep x)] ∨
      (c, work) ∈ [(.pollCompletion g levels, .read .poll i x item w),
        (.refreshPollCompletion g levels, .read .refreshPoll i x item w),
        (.guardCompletion g levels, .read .guard i x item w), (.writeCompletion g levels, .write i x item w value),
        (.verifyCompletion g levels, Work.read .verify i x item w)] ∧
        (∀ pt q, s.point? i = some pt → pt.state ≠ .retiring q) →
    ∃ u, exec c s = .next u ∧ (u.segment g).transaction = none ∧ transactionFrame g x work outcome s u ∧
      (work = .probe x → s.nodeStays g x outcome → u.slots = s.slots ∧ u.notify = s.notify) ∧
      (∀ data, outcome = .done data ∨ outcome = .noAccept ∨ outcome = .checkFail →
        (e.presence ≠ .lost → u.nodeEntry? g x = some { e with presence := .present, misses := 0 }) ∧
        (e.presence = .lost → u.nodeEntry? g x = some { e with presence := .present, misses := 0, probe := none } ∧
          (∀ j pt, s.point? j = some pt → pt.names g x = true → pt.state = .active → pt.period ≠ none →
            pt.inFlight = none → s.entryOf? g j = none → u.entryOf? g j = some ⟨j, ⟨s.clock, false⟩, true⟩) ∧
          ∀ p, (s.notifyOf p).enabled = true → (s.notifyOf p).nodeEvents = true → (s.notifyOf p).queue.length < 64 →
            ∃ later, (u.notifyOf p).queue =
              (s.notifyOf p).queue ++ ⟨(s.notifyOf p).nextSeq, s.clock, .node (.back e.points) g x⟩ :: later)) ∧
      (outcome = .noNode →
        (e.presence ≠ .lost → e.misses < 7 → u.nodeEntry? g x = some { e with misses := e.misses + 1 }) ∧
        (e.presence ≠ .lost → 7 ≤ e.misses →
          u.nodeEntry? g x = some
            { e with presence := .lost, misses := 8, probe := some ⟨s.clock + 1000, false⟩ } ∧
          (∀ j pt, s.point? j = some pt → pt.names g x = true → u.entryOf? g j = none ∧
            ∃ pt', u.point? j = some pt' ∧ pt'.rhythmDue = none ∧
              (some j ≠ work.flight.map (·.1) → pt'.fresh = ⟨false, false⟩)) ∧
          ∀ p, (s.notifyOf p).enabled = true →
            ((s.notifyOf p).nodeEvents = true → (s.notifyOf p).queue.length < 64 →
              ∃ later, (u.notifyOf p).queue =
                (s.notifyOf p).queue ++ ⟨(s.notifyOf p).nextSeq, s.clock, .node (.lost e.points) g x⟩ :: later) ∧
            ((s.notifyOf p).queue.length + s.pointsNaming g x + 1 ≤ 64 →
              ∀ j pt, s.point? j = some pt → pt.names g x = true → pt.fresh.get p = true →
                some j ≠ work.flight.map (·.1) →
                ∃ n ∈ (u.notifyOf p).queue, n.time = s.clock ∧ n.note = .fresh (s.handle j) .noNode pt.quality)) ∧
        (e.presence = .lost → u.nodeEntry? g x = some
          (if work = .probe x then { e with probe := some ⟨s.clock + 1000, false⟩ } else e))) ∧
      (∀ cause, outcome.fault? = some cause →
        u.nodeEntry? g x = some
          (if work = .probe x ∧ e.presence = .lost then { e with probe := some ⟨s.clock, true⟩ } else e) ∧
        (u.segment g).state = .recovering ∧ (u.segment g).cause = some cause)

/-- A scan step records an address that accepts and goes on to the next one; past the high address, accepted or refused, the
scan is DONE with SCAN_DONE to its requester; a segment fault leaves the scan where it stands (R142, R143). A roll that ends
EMPTY suppresses the next ones for 10 ms; a winner is counted for its node, a LOST one returning with NODE BACK and its points
due now, and its alert-driven points in the schedule are due now; a winner that nothing names is a stray alert (R99, R122,
R124, R125). A scan step leaves alone what `transactionFrame` names and,
unless it returns or loses a node, every record and every queue but for SCAN_DONE; a winner's roll leaves every record, every other directory
entry, the schedule entries of points that do not name the node, the command queues and the scans. That ROLL_COMPLETION brings the level of FA after the roll, and that it is stored as the one last observed,
whatever the outcome, is log entry 7. -/
def Obligations.ScanStepsAndRollsHaveTheirEffects : Prop :=
  ∀ (g : SegId) (x : Address) (start released : Time) (pos : LinkPos) (levels : List Bool) (s : State),
    (∀ range found outcome, (s.segment g).transaction = some ⟨.scanStep x, .onWires start released pos, false⟩ →
      (s.segment g).scan = ⟨.running range x, found⟩ → (Work.scanStep x).afterCycles false pos levels = .ended outcome →
      ∃ u, exec (.scanStepCompletion g levels) s = .next u ∧ (u.segment g).transaction = none ∧
        transactionFrame g x (.scanStep x) outcome s u ∧
        (outcome = .done [] ∨ outcome = .noNode → (u.segment g).scan =
          ⟨if x = range.high then .done range else .running range (x + 1),
            found ++ if outcome = .noNode then [] else [x]⟩) ∧
        (outcome = .done [] ∨ outcome = .noNode → x = range.high → (s.notifyOf range.requester).enabled = true →
          (s.notifyOf range.requester).queue.length + s.pointsNaming g x + 2 ≤ 64 →
          ∃ e, (u.notifyOf range.requester).queue.getLast? = some e ∧ e.time = s.clock ∧
            e.note = .scanDone g true (if outcome = .noNode then found.length else found.length + 1)) ∧
        (s.nodeStays g x outcome → u.slots = s.slots ∧
          (∀ p, p ≠ range.requester ∨ x ≠ range.high ∨ outcome.fault? ≠ none → u.notifyOf p = s.notifyOf p) ∧
          (outcome = .done [] ∨ outcome = .noNode → x = range.high → (s.notifyOf range.requester).enabled = true →
            (s.notifyOf range.requester).queue.length < 64 →
            (u.notifyOf range.requester).queue = (s.notifyOf range.requester).queue ++
              [⟨(s.notifyOf range.requester).nextSeq, s.clock,
                .scanDone g true (if outcome = .noNode then found.length else found.length + 1)⟩])) ∧
        (∀ cause, outcome.fault? = some cause → (u.segment g).scan = (s.segment g).scan ∧
          (u.segment g).state = .recovering ∧ (u.segment g).cause = some cause)) ∧
    (∀ (fa : Bool) outcome, (s.segment g).transaction = some ⟨.roll, .onWires start released pos, false⟩ →
      Work.roll.afterCycles false pos levels = .ended outcome →
      ∀ v, v = s.setSegment g
          { s.segment g with transaction := none, lines := { (s.segment g).lines with fa := fa } } →
      (outcome = .empty → exec (.rollCompletion g levels fa) s =
        .next (v.setSegment g { v.segment g with suppression := some (s.clock + 10) })) ∧
      (∀ cause, outcome.fault? = some cause → exec (.rollCompletion g levels fa) s = .next (v.setSegment g
        { v.segment g with
          state := .recovering, cause := some cause, attempts := 0, retryTime := none, fairness := 0 })) ∧
      (outcome = .winner x → s.nodeEntry? g x = none → exec (.rollCompletion g levels fa) s =
        .next (offerNodeEvents (.node .strayAlert g x) v)) ∧
      (∀ e, outcome = .winner x → s.nodeEntry? g x = some e → ∃ u, exec (.rollCompletion g levels fa) s = .next u ∧
        u.nodeEntry? g x = some
          { e with presence := .present, misses := 0, probe := if e.presence = .lost then none else e.probe } ∧
        (∀ j pt en, s.point? j = some pt → s.entryOf? g j = some en →
          u.entryOf? g j =
            if pt.names g x = true ∧ pt.state = .active ∧ pt.alertDriven = true then
              some ⟨j, ⟨s.clock, false⟩, true⟩
            else some en) ∧
        (e.presence ≠ .lost → ∀ j, s.entryOf? g j = none → u.entryOf? g j = none) ∧
        (∀ j, (∀ pt, s.point? j = some pt → pt.names g x = false) → u.entryOf? g j = s.entryOf? g j) ∧
        u = { v with directory := u.directory, segments := u.segments, notify := u.notify } ∧
        (∀ h, u.segment h = { v.segment h with schedule := (u.segment h).schedule }) ∧
        (∀ h, h ≠ g → u.segment h = s.segment h) ∧
        (∀ h y, (h, y) ≠ (g, x) → u.nodeEntry? h y = s.nodeEntry? h y) ∧
        (∀ p, (s.notifyOf p).extends (u.notifyOf p) ∧ (e.presence ≠ .lost → u.notifyOf p = s.notifyOf p)) ∧
        (∀ j, (u.point? j).map Point.standing = (s.point? j).map Point.standing) ∧
        (e.presence = .lost →
          (∀ j pt, s.point? j = some pt → pt.names g x = true → pt.state = .active → pt.period ≠ none →
            pt.inFlight = none → s.entryOf? g j = none → u.entryOf? g j = some ⟨j, ⟨s.clock, false⟩, true⟩) ∧
          ∀ p, (s.notifyOf p).enabled = true → (s.notifyOf p).nodeEvents = true → (s.notifyOf p).queue.length < 64 →
            (u.notifyOf p).queue =
              (s.notifyOf p).queue ++ [⟨(s.notifyOf p).nextSeq, s.clock, .node (.back e.points) g x⟩])))

/-! ### The expiries -/

/-- What each expiry does when its due time has been reached: the earliest unmarked entry is marked due (R36), a GOOD value
goes STALE (R47), the age cap and the due caps are taken (R37, R48), a waiting command fails EXPIRED (R81), a next value
is marked expired (R82), a LOST node's probe is due (R97), the alert suppression ends (R122). That taking a due cap leaves the
entry in its place and marks it due is log entry 22; that FAILED EXPIRED reports the attempts field as it stands is log entry
21. -/
def Obligations.ExpiriesHaveTheirEffects : Prop :=
  ∀ (g : SegId) (i : SlotNo) (s : State),
    (∀ before e later, (s.segment g).schedule = before ++ e :: later → (∀ f ∈ before, f.marked = true) →
      e.marked = false → e.due.capped = true ∨ reached e.due.time s.clock = true →
      exec (.pollDueExpiry g) s = .next (s.setSegment g
        { s.segment g with
          schedule := (s.segment g).schedule.map fun f =>
            if f.slot = e.slot then { f with marked := true } else f })) ∧
    (∀ due, (s.segment g).suppression = some due → reached due s.clock = true →
      exec (.alertSuppressionExpiry g) s = .next (s.setSegment g { s.segment g with suppression := none })) ∧
    (∀ x e t, s.nodeEntry? g x = some e → e.presence = .lost → e.probe = some ⟨t, false⟩ → reached t s.clock = true →
      exec (.probeExpiry g x) s = .next (s.setDirectory (s.directory.map fun f =>
        if f.segment = g ∧ f.address = x then { f with probe := f.probe.map fun p => { p with due := true } } else f))) ∧
    ∀ pt, s.point? i = some pt →
      (∀ due, pt.staleDue = some due → reached due s.clock = true →
        (pt.quality = .good → exec (.staleExpiry i) s =
          .next (offerSubscribers (·.quality) i (.quality (s.handle i) .good .stale pt.failures .staleLimit)
            (s.setPoint i { pt with staleDue := none, quality := .stale }))) ∧
        (pt.quality ≠ .good → exec (.staleExpiry i) s = .next (s.setPoint i { pt with staleDue := none }))) ∧
      (∀ v, pt.value = some v → v.capped = false → reached (v.time + 65535) s.clock = true →
        exec (.ageCapExpiry i) s = .next (s.setPoint i { pt with value := some { v with capped := true } })) ∧
      (∀ e, s.entryOf? pt.segment i = some e → e.due.capped = false → reached (e.due.time + 65535) s.clock = true →
        exec (.dueCapExpiry i .entry) s = .next (s.setSegment pt.segment
          { s.segment pt.segment with
            schedule := (s.segment pt.segment).schedule.map fun f =>
              if f.slot = i then { f with due := ⟨f.due.time, true⟩, marked := true } else f })) ∧
      (∀ k t, pt.inFlight = some ⟨k, some ⟨t, false⟩⟩ → reached (t + 65535) s.clock = true →
        exec (.dueCapExpiry i .startDue) s = .next (s.setPoint i { pt with inFlight := some ⟨k, some ⟨t, true⟩⟩ })) ∧
      (∀ t, pt.rhythmDue = some ⟨t, false⟩ → reached (t + 65535) s.clock = true →
        exec (.dueCapExpiry i .rhythmDue) s = .next (s.setPoint i { pt with rhythmDue := some ⟨t, true⟩ })) ∧
      ∀ cmd, pt.command = some cmd →
        ∀ stood : Stand → State, (stood = fun x => s.setPoint i { pt with command := some { cmd with stand := x } }) →
        (∀ v due, cmd.stand = .pending v (some due) → reached due s.clock = true →
          exec (.deadlineExpiry i) s =
            .next (closeCommand i v (.failed .expired cmd.attempts) (stood (.failed v .expired)))) ∧
        (∀ v due, cmd.stand = .queued v (some due) → reached due s.clock = true →
          exec (.deadlineExpiry i) s =
            .next (closeCommand i v (.failed .expired cmd.attempts) ((stood (.failed v .expired)).setSegment pt.segment
              { s.segment pt.segment with commandQueue := (s.segment pt.segment).commandQueue.filter (· ≠ i) }))) ∧
        (∀ v n due, cmd.stand = .writing v (some ⟨n, some due, false⟩) → reached due s.clock = true →
          exec (.nextValueDeadlineExpiry i) s = .next (stood (.writing v (some ⟨n, some due, true⟩)))) ∧
        (∀ v n due, cmd.stand = .verifying v (some ⟨n, some due, false⟩) → reached due s.clock = true →
          exec (.nextValueDeadlineExpiry i) s = .next (stood (.verifying v (some ⟨n, some due, true⟩))))

/-- R57, the alarm evaluation of TABLE 3-1: for each starting state the conditions in their order, one notification for
a change, and what they give at the boundaries for limits that SET_LIMITS accepts. -/
def Obligations.AlarmEvaluationFollowsItsTable : Prop :=
  ∀ (signed : Bool) (l : Limits) (v : Value) (n low high h : Int), n = asInt signed v → low = asInt signed l.low →
    high = asInt signed l.high → h = l.hysteresis.toNat →
    ∀ ev : Alarm → Alarm, (ev = fun a => evaluateAlarm signed l a v) →
    (ev .normal = if n < low then .low else if high < n then .high else .normal) ∧
    (ev .low = if high < n then .high else if low + h ≤ n then .normal else .low) ∧
    (ev .high = if n < low then .low else if n ≤ high - h then .normal else .high) ∧
    (∀ i pt s, s.point? i = some pt → pt.limits = some l → pt.signed = signed → evaluate i v s =
      if ev pt.alarm = pt.alarm then s
      else offerSubscribers (·.alarm) i (.alarm (s.handle i) v pt.alarm (ev pt.alarm) .limit)
        (s.setPoint i { pt with alarm := ev pt.alarm })) ∧
    (low < high → h ≤ high - low →
      (¬(n < low ∧ high < n)) ∧ (high < n → low + h ≤ n ∧ ev .low = .high) ∧ (n < low → n ≤ high - h ∧ ev .high = .low) ∧
      (n = low ∨ n = high → ev .normal = .normal) ∧
      (h = 0 → (n = low → ev .low = .normal) ∧ (n = high → ev .high = .normal)) ∧
      (h = high - low → (ev .low = .normal ↔ n = high) ∧ (ev .high = .normal ↔ n = low)) ∧
      (n < low + h → ev .low = .low) ∧ (high - h < n → ev .high = .high))

/-! ### What every step keeps -/

/-- No step makes two points name the same item (R13), and no command but hard reset moves a slot otherwise than by filling it
while FREE, or by freeing it with its generation advanced: a point keeps its fixed fields (R3, R4, R5). Every step keeps
the relations between them: the range of its node address and its period, the stale limit of an INPUT, what is optional only
with a period (R5, R12). -/
def Obligations.StepsKeepPointsApartAndFixed : Prop :=
  (∀ s t : State, s.noDuplicates → step s = .next t → t.noDuplicates) ∧
    (∀ s t : State, s.fieldsOk → step s = .next t → t.fieldsOk) ∧
    ∀ (c : Instr) (s t : State), (∀ x y e, c ≠ .hardReset x y e) → exec c s = .next t → ∀ i, slotRule s t i

/-- Every step keeps a notification queue at no more than 64 entries, numbered consecutively, and lets a mark stand only
while its port's queue is full (R146, R147, R150, R155). -/
def Obligations.StepsKeepTheQueuesNumberedAndTheMarksTrue : Prop :=
  ∀ s t : State, s.queuesOk → s.marksOk → step s = .next t → t.queuesOk ∧ t.marksOk

/-- Every step keeps the node directory: one entry for each node that a point names, each with the number of those points,
from 1 to 32, at most 64 entries (R91, R92, R93), in the order of their keys, which is the model's choice (log entry 28). -/
def Obligations.StepsKeepTheDirectoryOfTheNodes : Prop :=
  ∀ s t : State, s.directoryOk → step s = .next t → t.directoryOk

/-- Every step keeps together the schedules (R33), the command queues (R69, R70) and the in flight fields (R7): an entry for
exactly the points that want one, a place in the queue for exactly the QUEUED ones, and an in flight field for exactly
the point that its segment's transaction serves. -/
def Obligations.StepsKeepTheCollectionsAndTheTransactionsInFlight : Prop :=
  ∀ s t : State, s.directoryOk → s.schedulesOk → s.commandQueuesOk → s.flightsOk → step s = .next t →
    t.schedulesOk ∧ t.commandQueuesOk ∧ t.flightsOk

/-- Every step keeps each segment engine's fields together as TABLE 7-1 has them: a transaction only while UP, a recovery cause
exactly while RECOVERING or DOWN, an attempt count and a retry time that agree with the state, a fairness count of at most 4
that is 0 unless UP, no alert suppression while OFF (R122, R126, R127, R130, R135, R138); so both lines are released in every
state but UP (R105), a recovery attempt being made within the one command of its end (log entry 24). -/
def Obligations.StepsKeepTheEnginesInTheirStates : Prop :=
  ∀ s t : State, s.enginesOk → step s = .next t → t.enginesOk ∧
    ∀ g, (t.segment g).state ≠ .up → (t.segment g).drivers = { fc := true, fd := true }
end

