-- ==== Sys2Proof/Laws/State.lean ====
section
/-! SUPPORT. Laws/State.lean: one lemma for each field under each named update of the state, true by rfl, and what a slot,
a port or a segment reads as after it is written. -/

namespace Sys2Proof

@[simp] theorem PerPort.get_host {α : Type} (x : PerPort α) : x.get .host = x.host := rfl
@[simp] theorem PerPort.get_console {α : Type} (x : PerPort α) : x.get .console = x.console := rfl
@[simp] theorem PerPort.get_set {α : Type} (x : PerPort α) (p q : Port) (v : α) :
    (x.set p v).get q = if p = q then v else x.get q := by cases p <;> cases q <;> rfl
@[simp] theorem PerPort.set_get {α : Type} (x : PerPort α) (p : Port) : x.set p (x.get p) = x := by cases p <;> rfl
@[simp] theorem PerSegment.get_a {α : Type} (x : PerSegment α) : x.get .a = x.a := rfl
@[simp] theorem PerSegment.get_b {α : Type} (x : PerSegment α) : x.get .b = x.b := rfl
@[simp] theorem PerSegment.get_set {α : Type} (x : PerSegment α) (g h : SegId) (v : α) :
    (x.set g v).get h = if g = h then v else x.get h := by cases g <;> cases h <;> rfl
@[simp] theorem PerSegment.set_get {α : Type} (x : PerSegment α) (g : SegId) : x.set g (x.get g) = x := by
  cases g <;> rfl

namespace Machine

/-! ### setSlot -/

@[simp] theorem State.setSlot_inReset (s : State) (i : SlotNo) (x : Slot) : (s.setSlot i x).inReset = s.inReset := rfl
@[simp] theorem State.setSlot_clock (s : State) (i : SlotNo) (x : Slot) : (s.setSlot i x).clock = s.clock := rfl
@[simp] theorem State.setSlot_directory (s : State) (i : SlotNo) (x : Slot) :
    (s.setSlot i x).directory = s.directory := rfl
@[simp] theorem State.setSlot_segments (s : State) (i : SlotNo) (x : Slot) :
    (s.setSlot i x).segments = s.segments := rfl
@[simp] theorem State.setSlot_notify (s : State) (i : SlotNo) (x : Slot) : (s.setSlot i x).notify = s.notify := rfl
@[simp] theorem State.setSlot_ports (s : State) (i : SlotNo) (x : Slot) : (s.setSlot i x).ports = s.ports := rfl
@[simp] theorem State.setSlot_lastServed (s : State) (i : SlotNo) (x : Slot) :
    (s.setSlot i x).lastServed = s.lastServed := rfl
@[simp] theorem State.setSlot_hostRx (s : State) (i : SlotNo) (x : Slot) : (s.setSlot i x).hostRx = s.hostRx := rfl
@[simp] theorem State.setSlot_hsdo (s : State) (i : SlotNo) (x : Slot) : (s.setSlot i x).hsdo = s.hsdo := rfl
@[simp] theorem State.setSlot_assembly (s : State) (i : SlotNo) (x : Slot) :
    (s.setSlot i x).assembly = s.assembly := rfl
@[simp] theorem State.setSlot_gapDue (s : State) (i : SlotNo) (x : Slot) : (s.setSlot i x).gapDue = s.gapDue := rfl
@[simp] theorem State.setSlot_consoleRate (s : State) (i : SlotNo) (x : Slot) :
    (s.setSlot i x).consoleRate = s.consoleRate := rfl
@[simp] theorem State.setSlot_ctxd (s : State) (i : SlotNo) (x : Slot) : (s.setSlot i x).ctxd = s.ctxd := rfl
@[simp] theorem State.setSlot_pending (s : State) (i : SlotNo) (x : Slot) : (s.setSlot i x).pending = s.pending := rfl

/-! ### setPoint -/

@[simp] theorem State.setPoint_inReset (s : State) (i : SlotNo) (pt : Point) : (s.setPoint i pt).inReset = s.inReset := rfl
@[simp] theorem State.setPoint_clock (s : State) (i : SlotNo) (pt : Point) : (s.setPoint i pt).clock = s.clock := rfl
@[simp] theorem State.setPoint_directory (s : State) (i : SlotNo) (pt : Point) :
    (s.setPoint i pt).directory = s.directory := rfl
@[simp] theorem State.setPoint_segments (s : State) (i : SlotNo) (pt : Point) :
    (s.setPoint i pt).segments = s.segments := rfl
@[simp] theorem State.setPoint_notify (s : State) (i : SlotNo) (pt : Point) :
    (s.setPoint i pt).notify = s.notify := rfl
@[simp] theorem State.setPoint_ports (s : State) (i : SlotNo) (pt : Point) : (s.setPoint i pt).ports = s.ports := rfl
@[simp] theorem State.setPoint_lastServed (s : State) (i : SlotNo) (pt : Point) :
    (s.setPoint i pt).lastServed = s.lastServed := rfl
@[simp] theorem State.setPoint_hostRx (s : State) (i : SlotNo) (pt : Point) :
    (s.setPoint i pt).hostRx = s.hostRx := rfl
@[simp] theorem State.setPoint_hsdo (s : State) (i : SlotNo) (pt : Point) : (s.setPoint i pt).hsdo = s.hsdo := rfl
@[simp] theorem State.setPoint_assembly (s : State) (i : SlotNo) (pt : Point) :
    (s.setPoint i pt).assembly = s.assembly := rfl
@[simp] theorem State.setPoint_gapDue (s : State) (i : SlotNo) (pt : Point) :
    (s.setPoint i pt).gapDue = s.gapDue := rfl
@[simp] theorem State.setPoint_consoleRate (s : State) (i : SlotNo) (pt : Point) :
    (s.setPoint i pt).consoleRate = s.consoleRate := rfl
@[simp] theorem State.setPoint_ctxd (s : State) (i : SlotNo) (pt : Point) : (s.setPoint i pt).ctxd = s.ctxd := rfl
@[simp] theorem State.setPoint_pending (s : State) (i : SlotNo) (pt : Point) :
    (s.setPoint i pt).pending = s.pending := rfl

/-! ### setSegment -/

@[simp] theorem State.setSegment_inReset (s : State) (g : SegId) (x : Segment) :
    (s.setSegment g x).inReset = s.inReset := rfl
@[simp] theorem State.setSegment_clock (s : State) (g : SegId) (x : Segment) :
    (s.setSegment g x).clock = s.clock := rfl
@[simp] theorem State.setSegment_slots (s : State) (g : SegId) (x : Segment) :
    (s.setSegment g x).slots = s.slots := rfl
@[simp] theorem State.setSegment_directory (s : State) (g : SegId) (x : Segment) :
    (s.setSegment g x).directory = s.directory := rfl
@[simp] theorem State.setSegment_notify (s : State) (g : SegId) (x : Segment) :
    (s.setSegment g x).notify = s.notify := rfl
@[simp] theorem State.setSegment_ports (s : State) (g : SegId) (x : Segment) :
    (s.setSegment g x).ports = s.ports := rfl
@[simp] theorem State.setSegment_lastServed (s : State) (g : SegId) (x : Segment) :
    (s.setSegment g x).lastServed = s.lastServed := rfl
@[simp] theorem State.setSegment_hostRx (s : State) (g : SegId) (x : Segment) :
    (s.setSegment g x).hostRx = s.hostRx := rfl
@[simp] theorem State.setSegment_hsdo (s : State) (g : SegId) (x : Segment) : (s.setSegment g x).hsdo = s.hsdo := rfl
@[simp] theorem State.setSegment_assembly (s : State) (g : SegId) (x : Segment) :
    (s.setSegment g x).assembly = s.assembly := rfl
@[simp] theorem State.setSegment_gapDue (s : State) (g : SegId) (x : Segment) :
    (s.setSegment g x).gapDue = s.gapDue := rfl
@[simp] theorem State.setSegment_consoleRate (s : State) (g : SegId) (x : Segment) :
    (s.setSegment g x).consoleRate = s.consoleRate := rfl
@[simp] theorem State.setSegment_ctxd (s : State) (g : SegId) (x : Segment) : (s.setSegment g x).ctxd = s.ctxd := rfl
@[simp] theorem State.setSegment_pending (s : State) (g : SegId) (x : Segment) :
    (s.setSegment g x).pending = s.pending := rfl

/-! ### modSegment -/

@[simp] theorem State.modSegment_inReset (s : State) (g : SegId) (f : Segment → Segment) :
    (s.modSegment g f).inReset = s.inReset := rfl
@[simp] theorem State.modSegment_clock (s : State) (g : SegId) (f : Segment → Segment) :
    (s.modSegment g f).clock = s.clock := rfl
@[simp] theorem State.modSegment_slots (s : State) (g : SegId) (f : Segment → Segment) :
    (s.modSegment g f).slots = s.slots := rfl
@[simp] theorem State.modSegment_directory (s : State) (g : SegId) (f : Segment → Segment) :
    (s.modSegment g f).directory = s.directory := rfl
@[simp] theorem State.modSegment_notify (s : State) (g : SegId) (f : Segment → Segment) :
    (s.modSegment g f).notify = s.notify := rfl
@[simp] theorem State.modSegment_ports (s : State) (g : SegId) (f : Segment → Segment) :
    (s.modSegment g f).ports = s.ports := rfl
@[simp] theorem State.modSegment_lastServed (s : State) (g : SegId) (f : Segment → Segment) :
    (s.modSegment g f).lastServed = s.lastServed := rfl
@[simp] theorem State.modSegment_hostRx (s : State) (g : SegId) (f : Segment → Segment) :
    (s.modSegment g f).hostRx = s.hostRx := rfl
@[simp] theorem State.modSegment_hsdo (s : State) (g : SegId) (f : Segment → Segment) :
    (s.modSegment g f).hsdo = s.hsdo := rfl
@[simp] theorem State.modSegment_assembly (s : State) (g : SegId) (f : Segment → Segment) :
    (s.modSegment g f).assembly = s.assembly := rfl
@[simp] theorem State.modSegment_gapDue (s : State) (g : SegId) (f : Segment → Segment) :
    (s.modSegment g f).gapDue = s.gapDue := rfl
@[simp] theorem State.modSegment_consoleRate (s : State) (g : SegId) (f : Segment → Segment) :
    (s.modSegment g f).consoleRate = s.consoleRate := rfl
@[simp] theorem State.modSegment_ctxd (s : State) (g : SegId) (f : Segment → Segment) :
    (s.modSegment g f).ctxd = s.ctxd := rfl
@[simp] theorem State.modSegment_pending (s : State) (g : SegId) (f : Segment → Segment) :
    (s.modSegment g f).pending = s.pending := rfl

/-! ### setLines -/

@[simp] theorem State.setLines_inReset (s : State) (g : SegId) (l : Lines) : (s.setLines g l).inReset = s.inReset := rfl
@[simp] theorem State.setLines_clock (s : State) (g : SegId) (l : Lines) : (s.setLines g l).clock = s.clock := rfl
@[simp] theorem State.setLines_slots (s : State) (g : SegId) (l : Lines) : (s.setLines g l).slots = s.slots := rfl
@[simp] theorem State.setLines_directory (s : State) (g : SegId) (l : Lines) :
    (s.setLines g l).directory = s.directory := rfl
@[simp] theorem State.setLines_notify (s : State) (g : SegId) (l : Lines) : (s.setLines g l).notify = s.notify := rfl
@[simp] theorem State.setLines_ports (s : State) (g : SegId) (l : Lines) : (s.setLines g l).ports = s.ports := rfl
@[simp] theorem State.setLines_lastServed (s : State) (g : SegId) (l : Lines) :
    (s.setLines g l).lastServed = s.lastServed := rfl
@[simp] theorem State.setLines_hostRx (s : State) (g : SegId) (l : Lines) : (s.setLines g l).hostRx = s.hostRx := rfl
@[simp] theorem State.setLines_hsdo (s : State) (g : SegId) (l : Lines) : (s.setLines g l).hsdo = s.hsdo := rfl
@[simp] theorem State.setLines_assembly (s : State) (g : SegId) (l : Lines) :
    (s.setLines g l).assembly = s.assembly := rfl
@[simp] theorem State.setLines_gapDue (s : State) (g : SegId) (l : Lines) : (s.setLines g l).gapDue = s.gapDue := rfl
@[simp] theorem State.setLines_consoleRate (s : State) (g : SegId) (l : Lines) :
    (s.setLines g l).consoleRate = s.consoleRate := rfl
@[simp] theorem State.setLines_ctxd (s : State) (g : SegId) (l : Lines) : (s.setLines g l).ctxd = s.ctxd := rfl
@[simp] theorem State.setLines_pending (s : State) (g : SegId) (l : Lines) :
    (s.setLines g l).pending = s.pending := rfl

/-! ### setNotify -/

@[simp] theorem State.setNotify_inReset (s : State) (p : Port) (x : Notify) : (s.setNotify p x).inReset = s.inReset := rfl
@[simp] theorem State.setNotify_clock (s : State) (p : Port) (x : Notify) : (s.setNotify p x).clock = s.clock := rfl
@[simp] theorem State.setNotify_slots (s : State) (p : Port) (x : Notify) : (s.setNotify p x).slots = s.slots := rfl
@[simp] theorem State.setNotify_directory (s : State) (p : Port) (x : Notify) :
    (s.setNotify p x).directory = s.directory := rfl
@[simp] theorem State.setNotify_segments (s : State) (p : Port) (x : Notify) :
    (s.setNotify p x).segments = s.segments := rfl
@[simp] theorem State.setNotify_ports (s : State) (p : Port) (x : Notify) : (s.setNotify p x).ports = s.ports := rfl
@[simp] theorem State.setNotify_lastServed (s : State) (p : Port) (x : Notify) :
    (s.setNotify p x).lastServed = s.lastServed := rfl
@[simp] theorem State.setNotify_hostRx (s : State) (p : Port) (x : Notify) : (s.setNotify p x).hostRx = s.hostRx := rfl
@[simp] theorem State.setNotify_hsdo (s : State) (p : Port) (x : Notify) : (s.setNotify p x).hsdo = s.hsdo := rfl
@[simp] theorem State.setNotify_assembly (s : State) (p : Port) (x : Notify) :
    (s.setNotify p x).assembly = s.assembly := rfl
@[simp] theorem State.setNotify_gapDue (s : State) (p : Port) (x : Notify) : (s.setNotify p x).gapDue = s.gapDue := rfl
@[simp] theorem State.setNotify_consoleRate (s : State) (p : Port) (x : Notify) :
    (s.setNotify p x).consoleRate = s.consoleRate := rfl
@[simp] theorem State.setNotify_ctxd (s : State) (p : Port) (x : Notify) : (s.setNotify p x).ctxd = s.ctxd := rfl
@[simp] theorem State.setNotify_pending (s : State) (p : Port) (x : Notify) :
    (s.setNotify p x).pending = s.pending := rfl

/-! ### setPort -/

@[simp] theorem State.setPort_inReset (s : State) (p : Port) (x : PortSlots) : (s.setPort p x).inReset = s.inReset := rfl
@[simp] theorem State.setPort_clock (s : State) (p : Port) (x : PortSlots) : (s.setPort p x).clock = s.clock := rfl
@[simp] theorem State.setPort_slots (s : State) (p : Port) (x : PortSlots) : (s.setPort p x).slots = s.slots := rfl
@[simp] theorem State.setPort_directory (s : State) (p : Port) (x : PortSlots) :
    (s.setPort p x).directory = s.directory := rfl
@[simp] theorem State.setPort_segments (s : State) (p : Port) (x : PortSlots) :
    (s.setPort p x).segments = s.segments := rfl
@[simp] theorem State.setPort_notify (s : State) (p : Port) (x : PortSlots) : (s.setPort p x).notify = s.notify := rfl
@[simp] theorem State.setPort_lastServed (s : State) (p : Port) (x : PortSlots) :
    (s.setPort p x).lastServed = s.lastServed := rfl
@[simp] theorem State.setPort_hostRx (s : State) (p : Port) (x : PortSlots) : (s.setPort p x).hostRx = s.hostRx := rfl
@[simp] theorem State.setPort_hsdo (s : State) (p : Port) (x : PortSlots) : (s.setPort p x).hsdo = s.hsdo := rfl
@[simp] theorem State.setPort_assembly (s : State) (p : Port) (x : PortSlots) :
    (s.setPort p x).assembly = s.assembly := rfl
@[simp] theorem State.setPort_gapDue (s : State) (p : Port) (x : PortSlots) : (s.setPort p x).gapDue = s.gapDue := rfl
@[simp] theorem State.setPort_consoleRate (s : State) (p : Port) (x : PortSlots) :
    (s.setPort p x).consoleRate = s.consoleRate := rfl
@[simp] theorem State.setPort_ctxd (s : State) (p : Port) (x : PortSlots) : (s.setPort p x).ctxd = s.ctxd := rfl
@[simp] theorem State.setPort_pending (s : State) (p : Port) (x : PortSlots) :
    (s.setPort p x).pending = s.pending := rfl

/-! ### setDirectory -/

@[simp] theorem State.setDirectory_inReset (s : State) (d : List NodeEntry) : (s.setDirectory d).inReset = s.inReset := rfl
@[simp] theorem State.setDirectory_clock (s : State) (d : List NodeEntry) : (s.setDirectory d).clock = s.clock := rfl
@[simp] theorem State.setDirectory_slots (s : State) (d : List NodeEntry) : (s.setDirectory d).slots = s.slots := rfl
@[simp] theorem State.setDirectory_segments (s : State) (d : List NodeEntry) :
    (s.setDirectory d).segments = s.segments := rfl
@[simp] theorem State.setDirectory_notify (s : State) (d : List NodeEntry) :
    (s.setDirectory d).notify = s.notify := rfl
@[simp] theorem State.setDirectory_ports (s : State) (d : List NodeEntry) : (s.setDirectory d).ports = s.ports := rfl
@[simp] theorem State.setDirectory_lastServed (s : State) (d : List NodeEntry) :
    (s.setDirectory d).lastServed = s.lastServed := rfl
@[simp] theorem State.setDirectory_hostRx (s : State) (d : List NodeEntry) :
    (s.setDirectory d).hostRx = s.hostRx := rfl
@[simp] theorem State.setDirectory_hsdo (s : State) (d : List NodeEntry) : (s.setDirectory d).hsdo = s.hsdo := rfl
@[simp] theorem State.setDirectory_assembly (s : State) (d : List NodeEntry) :
    (s.setDirectory d).assembly = s.assembly := rfl
@[simp] theorem State.setDirectory_gapDue (s : State) (d : List NodeEntry) :
    (s.setDirectory d).gapDue = s.gapDue := rfl
@[simp] theorem State.setDirectory_consoleRate (s : State) (d : List NodeEntry) :
    (s.setDirectory d).consoleRate = s.consoleRate := rfl
@[simp] theorem State.setDirectory_ctxd (s : State) (d : List NodeEntry) : (s.setDirectory d).ctxd = s.ctxd := rfl
@[simp] theorem State.setDirectory_pending (s : State) (d : List NodeEntry) :
    (s.setDirectory d).pending = s.pending := rfl

/-! ### modNode -/

@[simp] theorem State.modNode_inReset (s : State) (g : SegId) (x : Address) (f : NodeEntry → NodeEntry) :
    (s.modNode g x f).inReset = s.inReset := rfl
@[simp] theorem State.modNode_clock (s : State) (g : SegId) (x : Address) (f : NodeEntry → NodeEntry) :
    (s.modNode g x f).clock = s.clock := rfl
@[simp] theorem State.modNode_slots (s : State) (g : SegId) (x : Address) (f : NodeEntry → NodeEntry) :
    (s.modNode g x f).slots = s.slots := rfl
@[simp] theorem State.modNode_segments (s : State) (g : SegId) (x : Address) (f : NodeEntry → NodeEntry) :
    (s.modNode g x f).segments = s.segments := rfl
@[simp] theorem State.modNode_notify (s : State) (g : SegId) (x : Address) (f : NodeEntry → NodeEntry) :
    (s.modNode g x f).notify = s.notify := rfl
@[simp] theorem State.modNode_ports (s : State) (g : SegId) (x : Address) (f : NodeEntry → NodeEntry) :
    (s.modNode g x f).ports = s.ports := rfl
@[simp] theorem State.modNode_lastServed (s : State) (g : SegId) (x : Address) (f : NodeEntry → NodeEntry) :
    (s.modNode g x f).lastServed = s.lastServed := rfl
@[simp] theorem State.modNode_hostRx (s : State) (g : SegId) (x : Address) (f : NodeEntry → NodeEntry) :
    (s.modNode g x f).hostRx = s.hostRx := rfl
@[simp] theorem State.modNode_hsdo (s : State) (g : SegId) (x : Address) (f : NodeEntry → NodeEntry) :
    (s.modNode g x f).hsdo = s.hsdo := rfl
@[simp] theorem State.modNode_assembly (s : State) (g : SegId) (x : Address) (f : NodeEntry → NodeEntry) :
    (s.modNode g x f).assembly = s.assembly := rfl
@[simp] theorem State.modNode_gapDue (s : State) (g : SegId) (x : Address) (f : NodeEntry → NodeEntry) :
    (s.modNode g x f).gapDue = s.gapDue := rfl
@[simp] theorem State.modNode_consoleRate (s : State) (g : SegId) (x : Address) (f : NodeEntry → NodeEntry) :
    (s.modNode g x f).consoleRate = s.consoleRate := rfl
@[simp] theorem State.modNode_ctxd (s : State) (g : SegId) (x : Address) (f : NodeEntry → NodeEntry) :
    (s.modNode g x f).ctxd = s.ctxd := rfl
@[simp] theorem State.modNode_pending (s : State) (g : SegId) (x : Address) (f : NodeEntry → NodeEntry) :
    (s.modNode g x f).pending = s.pending := rfl

/-! ### served -/

@[simp] theorem State.served_inReset (s : State) (p : Port) : (s.served p).inReset = s.inReset := rfl
@[simp] theorem State.served_clock (s : State) (p : Port) : (s.served p).clock = s.clock := rfl
@[simp] theorem State.served_slots (s : State) (p : Port) : (s.served p).slots = s.slots := rfl
@[simp] theorem State.served_directory (s : State) (p : Port) : (s.served p).directory = s.directory := rfl
@[simp] theorem State.served_segments (s : State) (p : Port) : (s.served p).segments = s.segments := rfl
@[simp] theorem State.served_notify (s : State) (p : Port) : (s.served p).notify = s.notify := rfl
@[simp] theorem State.served_ports (s : State) (p : Port) : (s.served p).ports = s.ports := rfl
@[simp] theorem State.served_hostRx (s : State) (p : Port) : (s.served p).hostRx = s.hostRx := rfl
@[simp] theorem State.served_hsdo (s : State) (p : Port) : (s.served p).hsdo = s.hsdo := rfl
@[simp] theorem State.served_assembly (s : State) (p : Port) : (s.served p).assembly = s.assembly := rfl
@[simp] theorem State.served_gapDue (s : State) (p : Port) : (s.served p).gapDue = s.gapDue := rfl
@[simp] theorem State.served_consoleRate (s : State) (p : Port) : (s.served p).consoleRate = s.consoleRate := rfl
@[simp] theorem State.served_ctxd (s : State) (p : Port) : (s.served p).ctxd = s.ctxd := rfl
@[simp] theorem State.served_pending (s : State) (p : Port) : (s.served p).pending = s.pending := rfl

/-! ### emptyRequest -/

@[simp] theorem State.emptyRequest_inReset (s : State) (p : Port) : (s.emptyRequest p).inReset = s.inReset := rfl
@[simp] theorem State.emptyRequest_clock (s : State) (p : Port) : (s.emptyRequest p).clock = s.clock := rfl
@[simp] theorem State.emptyRequest_slots (s : State) (p : Port) : (s.emptyRequest p).slots = s.slots := rfl
@[simp] theorem State.emptyRequest_directory (s : State) (p : Port) : (s.emptyRequest p).directory = s.directory := rfl
@[simp] theorem State.emptyRequest_segments (s : State) (p : Port) : (s.emptyRequest p).segments = s.segments := rfl
@[simp] theorem State.emptyRequest_notify (s : State) (p : Port) : (s.emptyRequest p).notify = s.notify := rfl
@[simp] theorem State.emptyRequest_lastServed (s : State) (p : Port) :
    (s.emptyRequest p).lastServed = s.lastServed := rfl
@[simp] theorem State.emptyRequest_hostRx (s : State) (p : Port) : (s.emptyRequest p).hostRx = s.hostRx := rfl
@[simp] theorem State.emptyRequest_hsdo (s : State) (p : Port) : (s.emptyRequest p).hsdo = s.hsdo := rfl
@[simp] theorem State.emptyRequest_assembly (s : State) (p : Port) : (s.emptyRequest p).assembly = s.assembly := rfl
@[simp] theorem State.emptyRequest_gapDue (s : State) (p : Port) : (s.emptyRequest p).gapDue = s.gapDue := rfl
@[simp] theorem State.emptyRequest_consoleRate (s : State) (p : Port) :
    (s.emptyRequest p).consoleRate = s.consoleRate := rfl
@[simp] theorem State.emptyRequest_ctxd (s : State) (p : Port) : (s.emptyRequest p).ctxd = s.ctxd := rfl
@[simp] theorem State.emptyRequest_pending (s : State) (p : Port) : (s.emptyRequest p).pending = s.pending := rfl

/-! ### setDropped -/

@[simp] theorem State.setDropped_inReset (s : State) (p : Port) : (s.setDropped p).inReset = s.inReset := rfl
@[simp] theorem State.setDropped_clock (s : State) (p : Port) : (s.setDropped p).clock = s.clock := rfl
@[simp] theorem State.setDropped_slots (s : State) (p : Port) : (s.setDropped p).slots = s.slots := rfl
@[simp] theorem State.setDropped_directory (s : State) (p : Port) : (s.setDropped p).directory = s.directory := rfl
@[simp] theorem State.setDropped_segments (s : State) (p : Port) : (s.setDropped p).segments = s.segments := rfl
@[simp] theorem State.setDropped_notify (s : State) (p : Port) : (s.setDropped p).notify = s.notify := rfl
@[simp] theorem State.setDropped_lastServed (s : State) (p : Port) : (s.setDropped p).lastServed = s.lastServed := rfl
@[simp] theorem State.setDropped_hostRx (s : State) (p : Port) : (s.setDropped p).hostRx = s.hostRx := rfl
@[simp] theorem State.setDropped_hsdo (s : State) (p : Port) : (s.setDropped p).hsdo = s.hsdo := rfl
@[simp] theorem State.setDropped_assembly (s : State) (p : Port) : (s.setDropped p).assembly = s.assembly := rfl
@[simp] theorem State.setDropped_gapDue (s : State) (p : Port) : (s.setDropped p).gapDue = s.gapDue := rfl
@[simp] theorem State.setDropped_consoleRate (s : State) (p : Port) :
    (s.setDropped p).consoleRate = s.consoleRate := rfl
@[simp] theorem State.setDropped_ctxd (s : State) (p : Port) : (s.setDropped p).ctxd = s.ctxd := rfl
@[simp] theorem State.setDropped_pending (s : State) (p : Port) : (s.setDropped p).pending = s.pending := rfl

/-! ### storeRequest -/

@[simp] theorem State.storeRequest_inReset (s : State) (p : Port) (f : RequestFrame) :
    (s.storeRequest p f).inReset = s.inReset := rfl
@[simp] theorem State.storeRequest_clock (s : State) (p : Port) (f : RequestFrame) :
    (s.storeRequest p f).clock = s.clock := rfl
@[simp] theorem State.storeRequest_slots (s : State) (p : Port) (f : RequestFrame) :
    (s.storeRequest p f).slots = s.slots := rfl
@[simp] theorem State.storeRequest_directory (s : State) (p : Port) (f : RequestFrame) :
    (s.storeRequest p f).directory = s.directory := rfl
@[simp] theorem State.storeRequest_segments (s : State) (p : Port) (f : RequestFrame) :
    (s.storeRequest p f).segments = s.segments := rfl
@[simp] theorem State.storeRequest_notify (s : State) (p : Port) (f : RequestFrame) :
    (s.storeRequest p f).notify = s.notify := rfl
@[simp] theorem State.storeRequest_lastServed (s : State) (p : Port) (f : RequestFrame) :
    (s.storeRequest p f).lastServed = s.lastServed := rfl
@[simp] theorem State.storeRequest_hostRx (s : State) (p : Port) (f : RequestFrame) :
    (s.storeRequest p f).hostRx = s.hostRx := rfl
@[simp] theorem State.storeRequest_hsdo (s : State) (p : Port) (f : RequestFrame) :
    (s.storeRequest p f).hsdo = s.hsdo := rfl
@[simp] theorem State.storeRequest_assembly (s : State) (p : Port) (f : RequestFrame) :
    (s.storeRequest p f).assembly = s.assembly := rfl
@[simp] theorem State.storeRequest_gapDue (s : State) (p : Port) (f : RequestFrame) :
    (s.storeRequest p f).gapDue = s.gapDue := rfl
@[simp] theorem State.storeRequest_consoleRate (s : State) (p : Port) (f : RequestFrame) :
    (s.storeRequest p f).consoleRate = s.consoleRate := rfl
@[simp] theorem State.storeRequest_ctxd (s : State) (p : Port) (f : RequestFrame) :
    (s.storeRequest p f).ctxd = s.ctxd := rfl
@[simp] theorem State.storeRequest_pending (s : State) (p : Port) (f : RequestFrame) :
    (s.storeRequest p f).pending = s.pending := rfl

/-! ### setHostPort -/

@[simp] theorem State.setHostPort_inReset (s : State) (rx : HostRx) (out : List Byte) :
    (s.setHostPort rx out).inReset = s.inReset := rfl
@[simp] theorem State.setHostPort_clock (s : State) (rx : HostRx) (out : List Byte) :
    (s.setHostPort rx out).clock = s.clock := rfl
@[simp] theorem State.setHostPort_slots (s : State) (rx : HostRx) (out : List Byte) :
    (s.setHostPort rx out).slots = s.slots := rfl
@[simp] theorem State.setHostPort_directory (s : State) (rx : HostRx) (out : List Byte) :
    (s.setHostPort rx out).directory = s.directory := rfl
@[simp] theorem State.setHostPort_segments (s : State) (rx : HostRx) (out : List Byte) :
    (s.setHostPort rx out).segments = s.segments := rfl
@[simp] theorem State.setHostPort_notify (s : State) (rx : HostRx) (out : List Byte) :
    (s.setHostPort rx out).notify = s.notify := rfl
@[simp] theorem State.setHostPort_ports (s : State) (rx : HostRx) (out : List Byte) :
    (s.setHostPort rx out).ports = s.ports := rfl
@[simp] theorem State.setHostPort_lastServed (s : State) (rx : HostRx) (out : List Byte) :
    (s.setHostPort rx out).lastServed = s.lastServed := rfl
@[simp] theorem State.setHostPort_assembly (s : State) (rx : HostRx) (out : List Byte) :
    (s.setHostPort rx out).assembly = s.assembly := rfl
@[simp] theorem State.setHostPort_gapDue (s : State) (rx : HostRx) (out : List Byte) :
    (s.setHostPort rx out).gapDue = s.gapDue := rfl
@[simp] theorem State.setHostPort_consoleRate (s : State) (rx : HostRx) (out : List Byte) :
    (s.setHostPort rx out).consoleRate = s.consoleRate := rfl
@[simp] theorem State.setHostPort_ctxd (s : State) (rx : HostRx) (out : List Byte) :
    (s.setHostPort rx out).ctxd = s.ctxd := rfl
@[simp] theorem State.setHostPort_pending (s : State) (rx : HostRx) (out : List Byte) :
    (s.setHostPort rx out).pending = s.pending := rfl

/-! ### setAssembly -/

@[simp] theorem State.setAssembly_inReset (s : State) (x : Assembly) : (s.setAssembly x).inReset = s.inReset := rfl
@[simp] theorem State.setAssembly_clock (s : State) (x : Assembly) : (s.setAssembly x).clock = s.clock := rfl
@[simp] theorem State.setAssembly_slots (s : State) (x : Assembly) : (s.setAssembly x).slots = s.slots := rfl
@[simp] theorem State.setAssembly_directory (s : State) (x : Assembly) :
    (s.setAssembly x).directory = s.directory := rfl
@[simp] theorem State.setAssembly_segments (s : State) (x : Assembly) : (s.setAssembly x).segments = s.segments := rfl
@[simp] theorem State.setAssembly_notify (s : State) (x : Assembly) : (s.setAssembly x).notify = s.notify := rfl
@[simp] theorem State.setAssembly_ports (s : State) (x : Assembly) : (s.setAssembly x).ports = s.ports := rfl
@[simp] theorem State.setAssembly_lastServed (s : State) (x : Assembly) :
    (s.setAssembly x).lastServed = s.lastServed := rfl
@[simp] theorem State.setAssembly_hostRx (s : State) (x : Assembly) : (s.setAssembly x).hostRx = s.hostRx := rfl
@[simp] theorem State.setAssembly_hsdo (s : State) (x : Assembly) : (s.setAssembly x).hsdo = s.hsdo := rfl
@[simp] theorem State.setAssembly_consoleRate (s : State) (x : Assembly) :
    (s.setAssembly x).consoleRate = s.consoleRate := rfl
@[simp] theorem State.setAssembly_ctxd (s : State) (x : Assembly) : (s.setAssembly x).ctxd = s.ctxd := rfl
@[simp] theorem State.setAssembly_pending (s : State) (x : Assembly) : (s.setAssembly x).pending = s.pending := rfl

/-! ### tick -/

@[simp] theorem State.tick_inReset (s : State) : (s.tick).inReset = s.inReset := rfl
@[simp] theorem State.tick_slots (s : State) : (s.tick).slots = s.slots := rfl
@[simp] theorem State.tick_directory (s : State) : (s.tick).directory = s.directory := rfl
@[simp] theorem State.tick_segments (s : State) : (s.tick).segments = s.segments := rfl
@[simp] theorem State.tick_notify (s : State) : (s.tick).notify = s.notify := rfl
@[simp] theorem State.tick_ports (s : State) : (s.tick).ports = s.ports := rfl
@[simp] theorem State.tick_lastServed (s : State) : (s.tick).lastServed = s.lastServed := rfl
@[simp] theorem State.tick_hostRx (s : State) : (s.tick).hostRx = s.hostRx := rfl
@[simp] theorem State.tick_hsdo (s : State) : (s.tick).hsdo = s.hsdo := rfl
@[simp] theorem State.tick_assembly (s : State) : (s.tick).assembly = s.assembly := rfl
@[simp] theorem State.tick_gapDue (s : State) : (s.tick).gapDue = s.gapDue := rfl
@[simp] theorem State.tick_consoleRate (s : State) : (s.tick).consoleRate = s.consoleRate := rfl
@[simp] theorem State.tick_ctxd (s : State) : (s.tick).ctxd = s.ctxd := rfl
@[simp] theorem State.tick_pending (s : State) : (s.tick).pending = s.pending := rfl

/-! ### setPending -/

@[simp] theorem State.setPending_inReset (s : State) (l : List Instr) : (s.setPending l).inReset = s.inReset := rfl
@[simp] theorem State.setPending_clock (s : State) (l : List Instr) : (s.setPending l).clock = s.clock := rfl
@[simp] theorem State.setPending_slots (s : State) (l : List Instr) : (s.setPending l).slots = s.slots := rfl
@[simp] theorem State.setPending_directory (s : State) (l : List Instr) :
    (s.setPending l).directory = s.directory := rfl
@[simp] theorem State.setPending_segments (s : State) (l : List Instr) : (s.setPending l).segments = s.segments := rfl
@[simp] theorem State.setPending_notify (s : State) (l : List Instr) : (s.setPending l).notify = s.notify := rfl
@[simp] theorem State.setPending_ports (s : State) (l : List Instr) : (s.setPending l).ports = s.ports := rfl
@[simp] theorem State.setPending_lastServed (s : State) (l : List Instr) :
    (s.setPending l).lastServed = s.lastServed := rfl
@[simp] theorem State.setPending_hostRx (s : State) (l : List Instr) : (s.setPending l).hostRx = s.hostRx := rfl
@[simp] theorem State.setPending_hsdo (s : State) (l : List Instr) : (s.setPending l).hsdo = s.hsdo := rfl
@[simp] theorem State.setPending_assembly (s : State) (l : List Instr) : (s.setPending l).assembly = s.assembly := rfl
@[simp] theorem State.setPending_gapDue (s : State) (l : List Instr) : (s.setPending l).gapDue = s.gapDue := rfl
@[simp] theorem State.setPending_consoleRate (s : State) (l : List Instr) :
    (s.setPending l).consoleRate = s.consoleRate := rfl
@[simp] theorem State.setPending_ctxd (s : State) (l : List Instr) : (s.setPending l).ctxd = s.ctxd := rfl

/-! ### The reads under the updates of other fields -/

@[simp] theorem State.setSlot_read_segment (s : State) (i : SlotNo) (x : Slot) (h : SegId) :
    (s.setSlot i x).segment h = s.segment h := rfl
@[simp] theorem State.setSlot_read_notifyOf (s : State) (i : SlotNo) (x : Slot) (q : Port) :
    (s.setSlot i x).notifyOf q = s.notifyOf q := rfl
@[simp] theorem State.setSlot_read_portOf (s : State) (i : SlotNo) (x : Slot) (q : Port) :
    (s.setSlot i x).portOf q = s.portOf q := rfl
@[simp] theorem State.setSlot_read_nodeEntry (s : State) (i : SlotNo) (x : Slot) (h : SegId) (y : Address) :
    (s.setSlot i x).nodeEntry? h y = s.nodeEntry? h y := rfl
@[simp] theorem State.setPoint_read_segment (s : State) (i : SlotNo) (pt : Point) (h : SegId) :
    (s.setPoint i pt).segment h = s.segment h := rfl
@[simp] theorem State.setPoint_read_notifyOf (s : State) (i : SlotNo) (pt : Point) (q : Port) :
    (s.setPoint i pt).notifyOf q = s.notifyOf q := rfl
@[simp] theorem State.setPoint_read_portOf (s : State) (i : SlotNo) (pt : Point) (q : Port) :
    (s.setPoint i pt).portOf q = s.portOf q := rfl
@[simp] theorem State.setPoint_read_nodeEntry (s : State) (i : SlotNo) (pt : Point) (h : SegId) (y : Address) :
    (s.setPoint i pt).nodeEntry? h y = s.nodeEntry? h y := rfl
@[simp] theorem State.setSegment_read_point (s : State) (g : SegId) (x : Segment) (j : SlotNo) :
    (s.setSegment g x).point? j = s.point? j := rfl
@[simp] theorem State.setSegment_read_generation (s : State) (g : SegId) (x : Segment) (j : SlotNo) :
    (s.setSegment g x).generation j = s.generation j := rfl
@[simp] theorem State.setSegment_read_handle (s : State) (g : SegId) (x : Segment) (j : SlotNo) :
    (s.setSegment g x).handle j = s.handle j := rfl
@[simp] theorem State.setSegment_read_ident (s : State) (g : SegId) (x : Segment) (j : SlotNo) :
    (s.setSegment g x).ident j = s.ident j := rfl
@[simp] theorem State.setSegment_read_marked (s : State) (g : SegId) (x : Segment) (q : Port) (j : SlotNo) :
    (s.setSegment g x).marked q j = s.marked q j := rfl
@[simp] theorem State.setSegment_read_notifyOf (s : State) (g : SegId) (x : Segment) (q : Port) :
    (s.setSegment g x).notifyOf q = s.notifyOf q := rfl
@[simp] theorem State.setSegment_read_portOf (s : State) (g : SegId) (x : Segment) (q : Port) :
    (s.setSegment g x).portOf q = s.portOf q := rfl
@[simp] theorem State.setSegment_read_nodeEntry (s : State) (g : SegId) (x : Segment) (h : SegId) (y : Address) :
    (s.setSegment g x).nodeEntry? h y = s.nodeEntry? h y := rfl
@[simp] theorem State.modSegment_read_point (s : State) (g : SegId) (f : Segment → Segment) (j : SlotNo) :
    (s.modSegment g f).point? j = s.point? j := rfl
@[simp] theorem State.modSegment_read_generation (s : State) (g : SegId) (f : Segment → Segment) (j : SlotNo) :
    (s.modSegment g f).generation j = s.generation j := rfl
@[simp] theorem State.modSegment_read_handle (s : State) (g : SegId) (f : Segment → Segment) (j : SlotNo) :
    (s.modSegment g f).handle j = s.handle j := rfl
@[simp] theorem State.modSegment_read_ident (s : State) (g : SegId) (f : Segment → Segment) (j : SlotNo) :
    (s.modSegment g f).ident j = s.ident j := rfl
@[simp] theorem State.modSegment_read_marked (s : State) (g : SegId) (f : Segment → Segment) (q : Port) (j : SlotNo) :
    (s.modSegment g f).marked q j = s.marked q j := rfl
@[simp] theorem State.modSegment_read_notifyOf (s : State) (g : SegId) (f : Segment → Segment) (q : Port) :
    (s.modSegment g f).notifyOf q = s.notifyOf q := rfl
@[simp] theorem State.modSegment_read_portOf (s : State) (g : SegId) (f : Segment → Segment) (q : Port) :
    (s.modSegment g f).portOf q = s.portOf q := rfl
@[simp] theorem State.modSegment_read_nodeEntry (s : State) (g : SegId) (f : Segment → Segment) (h : SegId) (y : Address) :
    (s.modSegment g f).nodeEntry? h y = s.nodeEntry? h y := rfl
@[simp] theorem State.setLines_read_point (s : State) (g : SegId) (l : Lines) (j : SlotNo) :
    (s.setLines g l).point? j = s.point? j := rfl
@[simp] theorem State.setLines_read_generation (s : State) (g : SegId) (l : Lines) (j : SlotNo) :
    (s.setLines g l).generation j = s.generation j := rfl
@[simp] theorem State.setLines_read_handle (s : State) (g : SegId) (l : Lines) (j : SlotNo) :
    (s.setLines g l).handle j = s.handle j := rfl
@[simp] theorem State.setLines_read_ident (s : State) (g : SegId) (l : Lines) (j : SlotNo) :
    (s.setLines g l).ident j = s.ident j := rfl
@[simp] theorem State.setLines_read_marked (s : State) (g : SegId) (l : Lines) (q : Port) (j : SlotNo) :
    (s.setLines g l).marked q j = s.marked q j := rfl
@[simp] theorem State.setLines_read_notifyOf (s : State) (g : SegId) (l : Lines) (q : Port) :
    (s.setLines g l).notifyOf q = s.notifyOf q := rfl
@[simp] theorem State.setLines_read_portOf (s : State) (g : SegId) (l : Lines) (q : Port) :
    (s.setLines g l).portOf q = s.portOf q := rfl
@[simp] theorem State.setLines_read_nodeEntry (s : State) (g : SegId) (l : Lines) (h : SegId) (y : Address) :
    (s.setLines g l).nodeEntry? h y = s.nodeEntry? h y := rfl
@[simp] theorem State.setNotify_read_point (s : State) (p : Port) (x : Notify) (j : SlotNo) :
    (s.setNotify p x).point? j = s.point? j := rfl
@[simp] theorem State.setNotify_read_generation (s : State) (p : Port) (x : Notify) (j : SlotNo) :
    (s.setNotify p x).generation j = s.generation j := rfl
@[simp] theorem State.setNotify_read_handle (s : State) (p : Port) (x : Notify) (j : SlotNo) :
    (s.setNotify p x).handle j = s.handle j := rfl
@[simp] theorem State.setNotify_read_ident (s : State) (p : Port) (x : Notify) (j : SlotNo) :
    (s.setNotify p x).ident j = s.ident j := rfl
@[simp] theorem State.setNotify_read_marked (s : State) (p : Port) (x : Notify) (q : Port) (j : SlotNo) :
    (s.setNotify p x).marked q j = s.marked q j := rfl
@[simp] theorem State.setNotify_read_segment (s : State) (p : Port) (x : Notify) (h : SegId) :
    (s.setNotify p x).segment h = s.segment h := rfl
@[simp] theorem State.setNotify_read_portOf (s : State) (p : Port) (x : Notify) (q : Port) :
    (s.setNotify p x).portOf q = s.portOf q := rfl
@[simp] theorem State.setNotify_read_nodeEntry (s : State) (p : Port) (x : Notify) (h : SegId) (y : Address) :
    (s.setNotify p x).nodeEntry? h y = s.nodeEntry? h y := rfl
@[simp] theorem State.setPort_read_point (s : State) (p : Port) (x : PortSlots) (j : SlotNo) :
    (s.setPort p x).point? j = s.point? j := rfl
@[simp] theorem State.setPort_read_generation (s : State) (p : Port) (x : PortSlots) (j : SlotNo) :
    (s.setPort p x).generation j = s.generation j := rfl
@[simp] theorem State.setPort_read_handle (s : State) (p : Port) (x : PortSlots) (j : SlotNo) :
    (s.setPort p x).handle j = s.handle j := rfl
@[simp] theorem State.setPort_read_ident (s : State) (p : Port) (x : PortSlots) (j : SlotNo) :
    (s.setPort p x).ident j = s.ident j := rfl
@[simp] theorem State.setPort_read_marked (s : State) (p : Port) (x : PortSlots) (q : Port) (j : SlotNo) :
    (s.setPort p x).marked q j = s.marked q j := rfl
@[simp] theorem State.setPort_read_segment (s : State) (p : Port) (x : PortSlots) (h : SegId) :
    (s.setPort p x).segment h = s.segment h := rfl
@[simp] theorem State.setPort_read_notifyOf (s : State) (p : Port) (x : PortSlots) (q : Port) :
    (s.setPort p x).notifyOf q = s.notifyOf q := rfl
@[simp] theorem State.setPort_read_nodeEntry (s : State) (p : Port) (x : PortSlots) (h : SegId) (y : Address) :
    (s.setPort p x).nodeEntry? h y = s.nodeEntry? h y := rfl
@[simp] theorem State.setDirectory_read_point (s : State) (d : List NodeEntry) (j : SlotNo) :
    (s.setDirectory d).point? j = s.point? j := rfl
@[simp] theorem State.setDirectory_read_generation (s : State) (d : List NodeEntry) (j : SlotNo) :
    (s.setDirectory d).generation j = s.generation j := rfl
@[simp] theorem State.setDirectory_read_handle (s : State) (d : List NodeEntry) (j : SlotNo) :
    (s.setDirectory d).handle j = s.handle j := rfl
@[simp] theorem State.setDirectory_read_ident (s : State) (d : List NodeEntry) (j : SlotNo) :
    (s.setDirectory d).ident j = s.ident j := rfl
@[simp] theorem State.setDirectory_read_marked (s : State) (d : List NodeEntry) (q : Port) (j : SlotNo) :
    (s.setDirectory d).marked q j = s.marked q j := rfl
@[simp] theorem State.setDirectory_read_segment (s : State) (d : List NodeEntry) (h : SegId) :
    (s.setDirectory d).segment h = s.segment h := rfl
@[simp] theorem State.setDirectory_read_notifyOf (s : State) (d : List NodeEntry) (q : Port) :
    (s.setDirectory d).notifyOf q = s.notifyOf q := rfl
@[simp] theorem State.setDirectory_read_portOf (s : State) (d : List NodeEntry) (q : Port) :
    (s.setDirectory d).portOf q = s.portOf q := rfl
@[simp] theorem State.modNode_read_point (s : State) (g : SegId) (x : Address) (f : NodeEntry → NodeEntry) (j : SlotNo) :
    (s.modNode g x f).point? j = s.point? j := rfl
@[simp] theorem State.modNode_read_generation (s : State) (g : SegId) (x : Address) (f : NodeEntry → NodeEntry) (j : SlotNo) :
    (s.modNode g x f).generation j = s.generation j := rfl
@[simp] theorem State.modNode_read_handle (s : State) (g : SegId) (x : Address) (f : NodeEntry → NodeEntry) (j : SlotNo) :
    (s.modNode g x f).handle j = s.handle j := rfl
@[simp] theorem State.modNode_read_ident (s : State) (g : SegId) (x : Address) (f : NodeEntry → NodeEntry) (j : SlotNo) :
    (s.modNode g x f).ident j = s.ident j := rfl
@[simp] theorem State.modNode_read_marked (s : State) (g : SegId) (x : Address) (f : NodeEntry → NodeEntry) (q : Port) (j : SlotNo) :
    (s.modNode g x f).marked q j = s.marked q j := rfl
@[simp] theorem State.modNode_read_segment (s : State) (g : SegId) (x : Address) (f : NodeEntry → NodeEntry) (h : SegId) :
    (s.modNode g x f).segment h = s.segment h := rfl
@[simp] theorem State.modNode_read_notifyOf (s : State) (g : SegId) (x : Address) (f : NodeEntry → NodeEntry) (q : Port) :
    (s.modNode g x f).notifyOf q = s.notifyOf q := rfl
@[simp] theorem State.modNode_read_portOf (s : State) (g : SegId) (x : Address) (f : NodeEntry → NodeEntry) (q : Port) :
    (s.modNode g x f).portOf q = s.portOf q := rfl
@[simp] theorem State.served_read_point (s : State) (p : Port) (j : SlotNo) : (s.served p).point? j = s.point? j := rfl
@[simp] theorem State.served_read_generation (s : State) (p : Port) (j : SlotNo) :
    (s.served p).generation j = s.generation j := rfl
@[simp] theorem State.served_read_handle (s : State) (p : Port) (j : SlotNo) :
    (s.served p).handle j = s.handle j := rfl
@[simp] theorem State.served_read_ident (s : State) (p : Port) (j : SlotNo) : (s.served p).ident j = s.ident j := rfl
@[simp] theorem State.served_read_marked (s : State) (p : Port) (q : Port) (j : SlotNo) :
    (s.served p).marked q j = s.marked q j := rfl
@[simp] theorem State.served_read_segment (s : State) (p : Port) (h : SegId) :
    (s.served p).segment h = s.segment h := rfl
@[simp] theorem State.served_read_notifyOf (s : State) (p : Port) (q : Port) :
    (s.served p).notifyOf q = s.notifyOf q := rfl
@[simp] theorem State.served_read_portOf (s : State) (p : Port) (q : Port) : (s.served p).portOf q = s.portOf q := rfl
@[simp] theorem State.served_read_nodeEntry (s : State) (p : Port) (h : SegId) (y : Address) :
    (s.served p).nodeEntry? h y = s.nodeEntry? h y := rfl
@[simp] theorem State.emptyRequest_read_point (s : State) (p : Port) (j : SlotNo) :
    (s.emptyRequest p).point? j = s.point? j := rfl
@[simp] theorem State.emptyRequest_read_generation (s : State) (p : Port) (j : SlotNo) :
    (s.emptyRequest p).generation j = s.generation j := rfl
@[simp] theorem State.emptyRequest_read_handle (s : State) (p : Port) (j : SlotNo) :
    (s.emptyRequest p).handle j = s.handle j := rfl
@[simp] theorem State.emptyRequest_read_ident (s : State) (p : Port) (j : SlotNo) :
    (s.emptyRequest p).ident j = s.ident j := rfl
@[simp] theorem State.emptyRequest_read_marked (s : State) (p : Port) (q : Port) (j : SlotNo) :
    (s.emptyRequest p).marked q j = s.marked q j := rfl
@[simp] theorem State.emptyRequest_read_segment (s : State) (p : Port) (h : SegId) :
    (s.emptyRequest p).segment h = s.segment h := rfl
@[simp] theorem State.emptyRequest_read_notifyOf (s : State) (p : Port) (q : Port) :
    (s.emptyRequest p).notifyOf q = s.notifyOf q := rfl
@[simp] theorem State.emptyRequest_read_nodeEntry (s : State) (p : Port) (h : SegId) (y : Address) :
    (s.emptyRequest p).nodeEntry? h y = s.nodeEntry? h y := rfl
@[simp] theorem State.setDropped_read_point (s : State) (p : Port) (j : SlotNo) :
    (s.setDropped p).point? j = s.point? j := rfl
@[simp] theorem State.setDropped_read_generation (s : State) (p : Port) (j : SlotNo) :
    (s.setDropped p).generation j = s.generation j := rfl
@[simp] theorem State.setDropped_read_handle (s : State) (p : Port) (j : SlotNo) :
    (s.setDropped p).handle j = s.handle j := rfl
@[simp] theorem State.setDropped_read_ident (s : State) (p : Port) (j : SlotNo) :
    (s.setDropped p).ident j = s.ident j := rfl
@[simp] theorem State.setDropped_read_marked (s : State) (p : Port) (q : Port) (j : SlotNo) :
    (s.setDropped p).marked q j = s.marked q j := rfl
@[simp] theorem State.setDropped_read_segment (s : State) (p : Port) (h : SegId) :
    (s.setDropped p).segment h = s.segment h := rfl
@[simp] theorem State.setDropped_read_notifyOf (s : State) (p : Port) (q : Port) :
    (s.setDropped p).notifyOf q = s.notifyOf q := rfl
@[simp] theorem State.setDropped_read_nodeEntry (s : State) (p : Port) (h : SegId) (y : Address) :
    (s.setDropped p).nodeEntry? h y = s.nodeEntry? h y := rfl
@[simp] theorem State.storeRequest_read_point (s : State) (p : Port) (f : RequestFrame) (j : SlotNo) :
    (s.storeRequest p f).point? j = s.point? j := rfl
@[simp] theorem State.storeRequest_read_generation (s : State) (p : Port) (f : RequestFrame) (j : SlotNo) :
    (s.storeRequest p f).generation j = s.generation j := rfl
@[simp] theorem State.storeRequest_read_handle (s : State) (p : Port) (f : RequestFrame) (j : SlotNo) :
    (s.storeRequest p f).handle j = s.handle j := rfl
@[simp] theorem State.storeRequest_read_ident (s : State) (p : Port) (f : RequestFrame) (j : SlotNo) :
    (s.storeRequest p f).ident j = s.ident j := rfl
@[simp] theorem State.storeRequest_read_marked (s : State) (p : Port) (f : RequestFrame) (q : Port) (j : SlotNo) :
    (s.storeRequest p f).marked q j = s.marked q j := rfl
@[simp] theorem State.storeRequest_read_segment (s : State) (p : Port) (f : RequestFrame) (h : SegId) :
    (s.storeRequest p f).segment h = s.segment h := rfl
@[simp] theorem State.storeRequest_read_notifyOf (s : State) (p : Port) (f : RequestFrame) (q : Port) :
    (s.storeRequest p f).notifyOf q = s.notifyOf q := rfl
@[simp] theorem State.storeRequest_read_nodeEntry (s : State) (p : Port) (f : RequestFrame) (h : SegId) (y : Address) :
    (s.storeRequest p f).nodeEntry? h y = s.nodeEntry? h y := rfl
@[simp] theorem State.setHostPort_read_point (s : State) (rx : HostRx) (out : List Byte) (j : SlotNo) :
    (s.setHostPort rx out).point? j = s.point? j := rfl
@[simp] theorem State.setHostPort_read_generation (s : State) (rx : HostRx) (out : List Byte) (j : SlotNo) :
    (s.setHostPort rx out).generation j = s.generation j := rfl
@[simp] theorem State.setHostPort_read_handle (s : State) (rx : HostRx) (out : List Byte) (j : SlotNo) :
    (s.setHostPort rx out).handle j = s.handle j := rfl
@[simp] theorem State.setHostPort_read_ident (s : State) (rx : HostRx) (out : List Byte) (j : SlotNo) :
    (s.setHostPort rx out).ident j = s.ident j := rfl
@[simp] theorem State.setHostPort_read_marked (s : State) (rx : HostRx) (out : List Byte) (q : Port) (j : SlotNo) :
    (s.setHostPort rx out).marked q j = s.marked q j := rfl
@[simp] theorem State.setHostPort_read_segment (s : State) (rx : HostRx) (out : List Byte) (h : SegId) :
    (s.setHostPort rx out).segment h = s.segment h := rfl
@[simp] theorem State.setHostPort_read_notifyOf (s : State) (rx : HostRx) (out : List Byte) (q : Port) :
    (s.setHostPort rx out).notifyOf q = s.notifyOf q := rfl
@[simp] theorem State.setHostPort_read_portOf (s : State) (rx : HostRx) (out : List Byte) (q : Port) :
    (s.setHostPort rx out).portOf q = s.portOf q := rfl
@[simp] theorem State.setHostPort_read_nodeEntry (s : State) (rx : HostRx) (out : List Byte) (h : SegId) (y : Address) :
    (s.setHostPort rx out).nodeEntry? h y = s.nodeEntry? h y := rfl
@[simp] theorem State.setAssembly_read_point (s : State) (x : Assembly) (j : SlotNo) :
    (s.setAssembly x).point? j = s.point? j := rfl
@[simp] theorem State.setAssembly_read_generation (s : State) (x : Assembly) (j : SlotNo) :
    (s.setAssembly x).generation j = s.generation j := rfl
@[simp] theorem State.setAssembly_read_handle (s : State) (x : Assembly) (j : SlotNo) :
    (s.setAssembly x).handle j = s.handle j := rfl
@[simp] theorem State.setAssembly_read_ident (s : State) (x : Assembly) (j : SlotNo) :
    (s.setAssembly x).ident j = s.ident j := rfl
@[simp] theorem State.setAssembly_read_marked (s : State) (x : Assembly) (q : Port) (j : SlotNo) :
    (s.setAssembly x).marked q j = s.marked q j := rfl
@[simp] theorem State.setAssembly_read_segment (s : State) (x : Assembly) (h : SegId) :
    (s.setAssembly x).segment h = s.segment h := rfl
@[simp] theorem State.setAssembly_read_notifyOf (s : State) (x : Assembly) (q : Port) :
    (s.setAssembly x).notifyOf q = s.notifyOf q := rfl
@[simp] theorem State.setAssembly_read_portOf (s : State) (x : Assembly) (q : Port) :
    (s.setAssembly x).portOf q = s.portOf q := rfl
@[simp] theorem State.setAssembly_read_nodeEntry (s : State) (x : Assembly) (h : SegId) (y : Address) :
    (s.setAssembly x).nodeEntry? h y = s.nodeEntry? h y := rfl
@[simp] theorem State.tick_read_point (s : State) (j : SlotNo) : (s.tick).point? j = s.point? j := rfl
@[simp] theorem State.tick_read_generation (s : State) (j : SlotNo) : (s.tick).generation j = s.generation j := rfl
@[simp] theorem State.tick_read_handle (s : State) (j : SlotNo) : (s.tick).handle j = s.handle j := rfl
@[simp] theorem State.tick_read_ident (s : State) (j : SlotNo) : (s.tick).ident j = s.ident j := rfl
@[simp] theorem State.tick_read_marked (s : State) (q : Port) (j : SlotNo) : (s.tick).marked q j = s.marked q j := rfl
@[simp] theorem State.tick_read_segment (s : State) (h : SegId) : (s.tick).segment h = s.segment h := rfl
@[simp] theorem State.tick_read_notifyOf (s : State) (q : Port) : (s.tick).notifyOf q = s.notifyOf q := rfl
@[simp] theorem State.tick_read_portOf (s : State) (q : Port) : (s.tick).portOf q = s.portOf q := rfl
@[simp] theorem State.tick_read_nodeEntry (s : State) (h : SegId) (y : Address) :
    (s.tick).nodeEntry? h y = s.nodeEntry? h y := rfl
@[simp] theorem State.setPending_read_point (s : State) (l : List Instr) (j : SlotNo) :
    (s.setPending l).point? j = s.point? j := rfl
@[simp] theorem State.setPending_read_generation (s : State) (l : List Instr) (j : SlotNo) :
    (s.setPending l).generation j = s.generation j := rfl
@[simp] theorem State.setPending_read_handle (s : State) (l : List Instr) (j : SlotNo) :
    (s.setPending l).handle j = s.handle j := rfl
@[simp] theorem State.setPending_read_ident (s : State) (l : List Instr) (j : SlotNo) :
    (s.setPending l).ident j = s.ident j := rfl
@[simp] theorem State.setPending_read_marked (s : State) (l : List Instr) (q : Port) (j : SlotNo) :
    (s.setPending l).marked q j = s.marked q j := rfl
@[simp] theorem State.setPending_read_segment (s : State) (l : List Instr) (h : SegId) :
    (s.setPending l).segment h = s.segment h := rfl
@[simp] theorem State.setPending_read_notifyOf (s : State) (l : List Instr) (q : Port) :
    (s.setPending l).notifyOf q = s.notifyOf q := rfl
@[simp] theorem State.setPending_read_portOf (s : State) (l : List Instr) (q : Port) :
    (s.setPending l).portOf q = s.portOf q := rfl
@[simp] theorem State.setPending_read_nodeEntry (s : State) (l : List Instr) (h : SegId) (y : Address) :
    (s.setPending l).nodeEntry? h y = s.nodeEntry? h y := rfl

/-! ### The reads under the updates of their own field -/

@[simp] theorem State.setSlot_read_point (s : State) (i j : SlotNo) (x : Slot) :
    (s.setSlot i x).point? j = if i = j then x.point else s.point? j := by
  unfold State.point? State.setSlot
  by_cases h : i = j
  · subst h; simp
  · have : (i : Nat) ≠ (j : Nat) := fun e => h (Fin.ext e)
    simp [h, this]

@[simp] theorem State.setSlot_read_generation (s : State) (i j : SlotNo) (x : Slot) :
    (s.setSlot i x).generation j = if i = j then x.generation else s.generation j := by
  unfold State.generation State.setSlot
  by_cases h : i = j
  · subst h; simp
  · have : (i : Nat) ≠ (j : Nat) := fun e => h (Fin.ext e)
    simp [h, this]

@[simp] theorem State.setPoint_read_point (s : State) (i j : SlotNo) (pt : Point) :
    (s.setPoint i pt).point? j = if i = j then some pt else s.point? j := by simp [State.setPoint]

@[simp] theorem State.setPoint_read_generation (s : State) (i j : SlotNo) (pt : Point) :
    (s.setPoint i pt).generation j = s.generation j := by
  by_cases h : i = j <;> simp [State.setPoint, h]

@[simp] theorem State.setPoint_read_handle (s : State) (i j : SlotNo) (pt : Point) :
    (s.setPoint i pt).handle j = s.handle j := by simp [State.handle]

@[simp] theorem State.setSegment_read_segment (s : State) (g h : SegId) (x : Segment) :
    (s.setSegment g x).segment h = if g = h then x else s.segment h := by simp [State.setSegment, State.segment]

@[simp] theorem State.modSegment_read_segment (s : State) (g h : SegId) (f : Segment → Segment) :
    (s.modSegment g f).segment h = if g = h then f (s.segment g) else s.segment h := by simp [State.modSegment]

@[simp] theorem State.setLines_read_segment (s : State) (g h : SegId) (l : Lines) :
    (s.setLines g l).segment h = if g = h then { s.segment g with lines := l } else s.segment h := by
  simp [State.setLines]

@[simp] theorem State.setNotify_read_notifyOf (s : State) (p q : Port) (x : Notify) :
    (s.setNotify p x).notifyOf q = if p = q then x else s.notifyOf q := by simp [State.setNotify, State.notifyOf]

@[simp] theorem State.setPort_read_portOf (s : State) (p q : Port) (x : PortSlots) :
    (s.setPort p x).portOf q = if p = q then x else s.portOf q := by simp [State.setPort, State.portOf]

@[simp] theorem State.setDirectory_directory (s : State) (d : List NodeEntry) : (s.setDirectory d).directory = d := rfl

@[simp] theorem State.served_lastServed (s : State) (p : Port) : (s.served p).lastServed = p := rfl

@[simp] theorem State.setPending_pending (s : State) (l : List Instr) : (s.setPending l).pending = l := rfl

@[simp] theorem State.setHostPort_hostRx (s : State) (rx : HostRx) (out : List Byte) :
    (s.setHostPort rx out).hostRx = rx := rfl

@[simp] theorem State.setHostPort_hsdo (s : State) (rx : HostRx) (out : List Byte) :
    (s.setHostPort rx out).hsdo = out := rfl

@[simp] theorem State.setAssembly_assembly (s : State) (x : Assembly) : (s.setAssembly x).assembly = x := rfl

@[simp] theorem State.tick_clock (s : State) : s.tick.clock = s.clock + 1 := rfl

/-! ### modPoint: the record of a slot that is not FREE, changed -/

theorem State.modPoint_of_none (s : State) (i : SlotNo) (f : Point → Point) (h : s.point? i = none) :
    s.modPoint i f = s := by simp [State.modPoint, h]

theorem State.modPoint_of_some (s : State) (i : SlotNo) (f : Point → Point) (pt : Point) (h : s.point? i = some pt) :
    s.modPoint i f = s.setPoint i (f pt) := by simp [State.modPoint, h]

@[simp] theorem State.modPoint_read_point (s : State) (i j : SlotNo) (f : Point → Point) :
    (s.modPoint i f).point? j = if i = j then (s.point? i).map f else s.point? j := by
  cases h : s.point? i with
  | none => by_cases e : i = j <;> simp [State.modPoint, h, e]; subst e; simp [h]
  | some pt => simp [State.modPoint, h]

@[simp] theorem State.modPoint_read_generation (s : State) (i j : SlotNo) (f : Point → Point) :
    (s.modPoint i f).generation j = s.generation j := by
  cases h : s.point? i <;> simp [State.modPoint, h]

@[simp] theorem State.modPoint_read_handle (s : State) (i j : SlotNo) (f : Point → Point) :
    (s.modPoint i f).handle j = s.handle j := by simp [State.handle]

@[simp] theorem State.modPoint_inReset (s : State) (i : SlotNo) (f : Point → Point) : (s.modPoint i f).inReset = s.inReset := by
  cases h : s.point? i <;> simp [State.modPoint, h]
@[simp] theorem State.modPoint_clock (s : State) (i : SlotNo) (f : Point → Point) : (s.modPoint i f).clock = s.clock := by
  cases h : s.point? i <;> simp [State.modPoint, h]
@[simp] theorem State.modPoint_directory (s : State) (i : SlotNo) (f : Point → Point) : (s.modPoint i f).directory = s.directory := by
  cases h : s.point? i <;> simp [State.modPoint, h]
@[simp] theorem State.modPoint_segments (s : State) (i : SlotNo) (f : Point → Point) : (s.modPoint i f).segments = s.segments := by
  cases h : s.point? i <;> simp [State.modPoint, h]
@[simp] theorem State.modPoint_notify (s : State) (i : SlotNo) (f : Point → Point) : (s.modPoint i f).notify = s.notify := by
  cases h : s.point? i <;> simp [State.modPoint, h]
@[simp] theorem State.modPoint_ports (s : State) (i : SlotNo) (f : Point → Point) : (s.modPoint i f).ports = s.ports := by
  cases h : s.point? i <;> simp [State.modPoint, h]
@[simp] theorem State.modPoint_lastServed (s : State) (i : SlotNo) (f : Point → Point) : (s.modPoint i f).lastServed = s.lastServed := by
  cases h : s.point? i <;> simp [State.modPoint, h]
@[simp] theorem State.modPoint_hostRx (s : State) (i : SlotNo) (f : Point → Point) : (s.modPoint i f).hostRx = s.hostRx := by
  cases h : s.point? i <;> simp [State.modPoint, h]
@[simp] theorem State.modPoint_hsdo (s : State) (i : SlotNo) (f : Point → Point) : (s.modPoint i f).hsdo = s.hsdo := by
  cases h : s.point? i <;> simp [State.modPoint, h]
@[simp] theorem State.modPoint_assembly (s : State) (i : SlotNo) (f : Point → Point) : (s.modPoint i f).assembly = s.assembly := by
  cases h : s.point? i <;> simp [State.modPoint, h]
@[simp] theorem State.modPoint_gapDue (s : State) (i : SlotNo) (f : Point → Point) : (s.modPoint i f).gapDue = s.gapDue := by
  cases h : s.point? i <;> simp [State.modPoint, h]
@[simp] theorem State.modPoint_consoleRate (s : State) (i : SlotNo) (f : Point → Point) : (s.modPoint i f).consoleRate = s.consoleRate := by
  cases h : s.point? i <;> simp [State.modPoint, h]
@[simp] theorem State.modPoint_ctxd (s : State) (i : SlotNo) (f : Point → Point) : (s.modPoint i f).ctxd = s.ctxd := by
  cases h : s.point? i <;> simp [State.modPoint, h]
@[simp] theorem State.modPoint_pending (s : State) (i : SlotNo) (f : Point → Point) : (s.modPoint i f).pending = s.pending := by
  cases h : s.point? i <;> simp [State.modPoint, h]
@[simp] theorem State.modPoint_read_segment (s : State) (i : SlotNo) (f : Point → Point) (h : SegId) :
    (s.modPoint i f).segment h = s.segment h := by
  cases h : s.point? i <;> simp [State.modPoint, h]
@[simp] theorem State.modPoint_read_notifyOf (s : State) (i : SlotNo) (f : Point → Point) (q : Port) :
    (s.modPoint i f).notifyOf q = s.notifyOf q := by
  cases h : s.point? i <;> simp [State.modPoint, h]
@[simp] theorem State.modPoint_read_portOf (s : State) (i : SlotNo) (f : Point → Point) (q : Port) :
    (s.modPoint i f).portOf q = s.portOf q := by
  cases h : s.point? i <;> simp [State.modPoint, h]
@[simp] theorem State.modPoint_read_nodeEntry (s : State) (i : SlotNo) (f : Point → Point) (h : SegId) (y : Address) :
    (s.modPoint i f).nodeEntry? h y = s.nodeEntry? h y := by
  cases h : s.point? i <;> simp [State.modPoint, h]

end Machine

end Sys2Proof
end

