-- ==== Sys2Proof/Laws/Kept.lean ====
section
/-! SUPPORT. Laws/Kept.lean: what every operation on the records leaves as it is. `Kept s t`: from `s` to `t` no slot has
been taken or freed, what DEFINE fixes is fixed, every node counts the same points, the queues of the ports have only
been added to, a mark has been set only on a full queue, and nothing outside the records has changed. One lemma for
each operation says that it is kept, so that no later proof unfolds it. -/

namespace Sys2Proof.Machine

/-! ### Sequence numbers -/

theorem consecutiveFrom_append (n : SeqNo) (l m : List Entry) :
    consecutiveFrom n (l ++ m) ↔ consecutiveFrom n l ∧ consecutiveFrom (n + BitVec.ofNat 16 l.length) m := by
  induction l generalizing n with
  | nil => simp [consecutiveFrom]
  | cons e l ih =>
    have h : n + 1 + BitVec.ofNat 16 l.length = n + BitVec.ofNat 16 (l.length + 1) := by
      rw [BitVec.ofNat_add, BitVec.add_assoc, BitVec.add_comm 1]; rfl
    rw [List.cons_append, consecutiveFrom, consecutiveFrom, ih, h, List.length_cons, and_assoc]

theorem Notify.extends_refl (q : Notify) : q.extends q := ⟨rfl, rfl, [], by simp [consecutiveFrom]⟩

theorem Notify.extends_trans {q r u : Notify} (h : q.extends r) (k : r.extends u) : q.extends u := by
  obtain ⟨h1, h2, l, h3, h4, h5, h6⟩ := h
  obtain ⟨k1, k2, m, k3, k4, k5, k6⟩ := k
  refine ⟨k1.trans h1, k2.trans h2, l ++ m, by simp [k3, h3], ?_, ?_, ?_⟩
  · rw [consecutiveFrom_append]; exact ⟨h4, by rw [← h5]; exact k4⟩
  · rw [k5, h5, List.length_append, BitVec.ofNat_add, BitVec.add_assoc]
  · intro hne
    by_cases hm : m = []
    · subst hm
      have : l ≠ [] := by simpa using hne
      have := h6 this
      simpa [k3] using this
    · exact k6 hm

theorem Notify.extends_length {q r : Notify} (h : q.extends r) : q.queue.length ≤ r.queue.length := by
  obtain ⟨_, _, l, h3, _⟩ := h; simp [h3]

theorem Notify.extends_push (q : Notify) (t : Time) (n : Note) (h : q.hasRoom = true) : q.extends (q.push t n) := by
  refine ⟨rfl, rfl, [⟨q.nextSeq, t, n⟩], rfl, ⟨rfl, trivial⟩, rfl, fun _ => ?_⟩
  simp only [Notify.hasRoom, decide_eq_true_eq] at h
  simp only [Notify.push, List.length_append, List.length_cons, List.length_nil]
  omega

theorem Notify.extends_wellNumbered {q r : Notify} (h : q.extends r) (k : q.wellNumbered) : r.wellNumbered := by
  obtain ⟨_, _, l, h3, h4, h5, h6⟩ := h
  obtain ⟨k1, k2⟩ := k
  by_cases hl : l = []
  · subst hl
    simp only [List.append_nil, List.length_nil] at h3 h5
    have : r.nextSeq = q.nextSeq := by simpa using h5
    exact ⟨by rw [h3]; exact k1, by rw [this, h3]; exact k2⟩
  · refine ⟨h6 hl, ?_⟩
    rw [h3, consecutiveFrom_append]
    have e : r.nextSeq - BitVec.ofNat 16 (q.queue ++ l).length = q.nextSeq - BitVec.ofNat 16 q.queue.length := by
      rw [h5, List.length_append, BitVec.ofNat_add]; ring
    rw [e]
    refine ⟨k2, ?_⟩
    rw [BitVec.sub_add_cancel]; exact h4

/-! ### Kept -/

/-- The key and the point count of an entry. -/
def NodeEntry.count (e : NodeEntry) : SegId × Address × Nat := (e.segment, e.address, e.points)

/-- From `s` to `t` the roster keeps what the file's header says. -/
structure Kept (s t : State) : Prop where
  clock : t.clock = s.clock
  ports : t.ports = s.ports
  lastServed : t.lastServed = s.lastServed
  hostRx : t.hostRx = s.hostRx
  hsdo : t.hsdo = s.hsdo
  assembly : t.assembly = s.assembly
  gapDue : t.gapDue = s.gapDue
  consoleRate : t.consoleRate = s.consoleRate
  ctxd : t.ctxd = s.ctxd
  pending : t.pending = s.pending
  generation : ∀ i, t.generation i = s.generation i
  ident : ∀ i, t.ident i = s.ident i
  count : t.directory.map NodeEntry.count = s.directory.map NodeEntry.count
  notify : ∀ p, (s.notifyOf p).extends (t.notifyOf p)
  marked : ∀ p i, t.marked p i = true → s.marked p i = true ∨ queueCapacity ≤ (t.notifyOf p).queue.length
  systemMark : ∀ p, (t.notifyOf p).systemMark = true →
    (s.notifyOf p).systemMark = true ∨ queueCapacity ≤ (t.notifyOf p).queue.length

theorem Kept.refl (s : State) : Kept s s :=
  ⟨rfl, rfl, rfl, rfl, rfl, rfl, rfl, rfl, rfl, rfl, fun _ => rfl, fun _ => rfl, rfl, fun _ => Notify.extends_refl _,
    fun _ _ h => .inl h, fun _ h => .inl h⟩

theorem Kept.trans {s t u : State} (h : Kept s t) (k : Kept t u) : Kept s u where
  clock := k.clock.trans h.clock
  ports := k.ports.trans h.ports
  lastServed := k.lastServed.trans h.lastServed
  hostRx := k.hostRx.trans h.hostRx
  hsdo := k.hsdo.trans h.hsdo
  assembly := k.assembly.trans h.assembly
  gapDue := k.gapDue.trans h.gapDue
  consoleRate := k.consoleRate.trans h.consoleRate
  ctxd := k.ctxd.trans h.ctxd
  pending := k.pending.trans h.pending
  generation i := (k.generation i).trans (h.generation i)
  ident i := (k.ident i).trans (h.ident i)
  count := k.count.trans h.count
  notify p := Notify.extends_trans (h.notify p) (k.notify p)
  marked p i hm := by
    rcases k.marked p i hm with h1 | h1
    · rcases h.marked p i h1 with h2 | h2
      · exact .inl h2
      · exact .inr (h2.trans (Notify.extends_length (k.notify p)))
    · exact .inr h1
  systemMark p hm := by
    rcases k.systemMark p hm with h1 | h1
    · rcases h.systemMark p h1 with h2 | h2
      · exact .inl h2
      · exact .inr (h2.trans (Notify.extends_length (k.notify p)))
    · exact .inr h1

/-- Two kept steps, the later one given first. -/
theorem Kept.after {s t u : State} (k : Kept t u) (h : Kept s t) : Kept s u := h.trans k

/-- A choice between two kept states is kept. -/
theorem Kept.ite {c : Prop} [Decidable c] {s t u : State} (h : Kept s t) (k : Kept s u) :
    Kept s (if c then t else u) := by split <;> assumption

theorem Kept.iteId {c : Prop} [Decidable c] {s t : State} (h : Kept s t) : Kept s (if c then t else s) :=
  Kept.ite h (Kept.refl s)

/-! ### The named updates -/

/-- A change of a record that keeps what DEFINE fixed and its marks. -/
theorem kept_modPoint (s : State) (i : SlotNo) (f : Point → Point) (hi : ∀ pt, (f pt).identity = pt.identity)
    (hm : ∀ pt, (f pt).marks = pt.marks) : Kept s (s.modPoint i f) where
  clock := by simp
  ports := by simp
  lastServed := by simp
  hostRx := by simp
  hsdo := by simp
  assembly := by simp
  gapDue := by simp
  consoleRate := by simp
  ctxd := by simp
  pending := by simp
  generation j := by simp
  ident j := by
    unfold State.ident
    by_cases e : i = j
    · subst e; cases h : s.point? i <;> simp [h, hi]
    · simp [e]
  count := by simp
  notify p := by simpa using Notify.extends_refl _
  marked p j h := by
    refine .inl ?_
    unfold State.marked at *
    by_cases e : i = j
    · subst e
      cases hp : s.point? i with
      | none => simp [hp] at h
      | some pt => simpa [hp, hm] using h
    · simpa [e] using h
  systemMark p h := .inl (by simpa using h)

/-- The record of a slot replaced by one with the same fixed fields and marks. -/
theorem kept_setPoint (s : State) (i : SlotNo) (pt x : Point) (hp : s.point? i = some pt)
    (hi : x.identity = pt.identity) (hm : x.marks = pt.marks) : Kept s (s.setPoint i x) where
  clock := by simp
  ports := by simp
  lastServed := by simp
  hostRx := by simp
  hsdo := by simp
  assembly := by simp
  gapDue := by simp
  consoleRate := by simp
  ctxd := by simp
  pending := by simp
  generation j := by simp
  ident j := by
    unfold State.ident
    by_cases e : i = j
    · subst e; simp [hp, hi]
    · simp [e]
  count := by simp
  notify p := by simpa using Notify.extends_refl _
  marked p j h := by
    refine .inl ?_
    unfold State.marked at *
    by_cases e : i = j
    · subst e; simpa [hp, hm] using h
    · simpa [e] using h
  systemMark p h := .inl (by simpa using h)

/-- Whatever happens to a segment is kept. -/
theorem kept_modSegment (s : State) (g : SegId) (f : Segment → Segment) : Kept s (s.modSegment g f) where
  clock := rfl
  ports := rfl
  lastServed := rfl
  hostRx := rfl
  hsdo := rfl
  assembly := rfl
  gapDue := rfl
  consoleRate := rfl
  ctxd := rfl
  pending := rfl
  generation _ := rfl
  ident _ := rfl
  count := rfl
  notify _ := Notify.extends_refl _
  marked _ _ h := .inl h
  systemMark _ h := .inl h

theorem kept_setLines (s : State) (g : SegId) (l : Lines) : Kept s (s.setLines g l) := kept_modSegment s g _

/-- A change of an entry that keeps its key and its point count. -/
theorem kept_modNode (s : State) (g : SegId) (x : Address) (f : NodeEntry → NodeEntry)
    (hf : ∀ e, (f e).count = e.count) : Kept s (s.modNode g x f) where
  clock := rfl
  ports := rfl
  lastServed := rfl
  hostRx := rfl
  hsdo := rfl
  assembly := rfl
  gapDue := rfl
  consoleRate := rfl
  ctxd := rfl
  pending := rfl
  generation _ := rfl
  ident _ := rfl
  count := by
    simp only [State.modNode, State.setDirectory_directory, List.map_map]
    refine List.map_congr_left fun e _ => ?_
    simp only [Function.comp]
    split
    · exact hf e
    · rfl
  notify _ := Notify.extends_refl _
  marked _ _ h := .inl h
  systemMark _ h := .inl h

/-- A port's notification state replaced by one that only adds to its queue, its system mark set only when full. -/
theorem kept_setNotify (s : State) (p : Port) (x : Notify) (hx : (s.notifyOf p).extends x)
    (hm : x.systemMark = true → (s.notifyOf p).systemMark = true ∨ queueCapacity ≤ x.queue.length) :
    Kept s (s.setNotify p x) where
  clock := rfl
  ports := rfl
  lastServed := rfl
  hostRx := rfl
  hsdo := rfl
  assembly := rfl
  gapDue := rfl
  consoleRate := rfl
  ctxd := rfl
  pending := rfl
  generation _ := rfl
  ident _ := rfl
  count := rfl
  notify q := by
    by_cases e : p = q
    · subst e; simpa using hx
    · simpa [e] using Notify.extends_refl _
  marked _ _ h := .inl h
  systemMark q h := by
    by_cases e : p = q
    · subst e; simpa using hm (by simpa using h)
    · left; simpa [e] using h

/-- A pending mark set while the port's queue is full. -/
theorem kept_setMark (s : State) (p : Port) (i : SlotNo) (hf : queueCapacity ≤ (s.notifyOf p).queue.length) :
    Kept s (s.modPoint i (·.setMark p true)) where
  clock := by simp
  ports := by simp
  lastServed := by simp
  hostRx := by simp
  hsdo := by simp
  assembly := by simp
  gapDue := by simp
  consoleRate := by simp
  ctxd := by simp
  pending := by simp
  generation j := by simp
  ident j := by
    unfold State.ident
    by_cases e : i = j
    · subst e; cases h : s.point? i <;> simp [h, Point.setMark, Point.identity, Point.isOutput]
    · simp [e]
  count := by simp
  notify q := by simpa using Notify.extends_refl _
  marked q j h := by
    by_cases e : p = q
    · subst e; right; simpa using hf
    · left
      unfold State.marked at *
      by_cases e' : i = j
      · subst e'
        cases hp : s.point? i with
        | none => simp [hp] at h
        | some pt => simpa [hp, Point.setMark, e] using h
      · simpa [e'] using h
  systemMark q h := .inl (by simpa using h)

theorem kept_foldl {α : Type} (f : State → α → State) (hf : ∀ s a, Kept s (f s a)) (l : List α) (s : State) :
    Kept s (l.foldl f s) := by
  induction l generalizing s with
  | nil => exact Kept.refl s
  | cons a l ih => exact (hf s a).trans (ih _)

/-! ### Notifications (Machine/Notify.lean) -/

theorem kept_offerPoint (p : Port) (i : SlotNo) (n : Note) (s : State) : Kept s (offerPoint p i n s) := by
  unfold offerPoint
  dsimp only
  split
  · exact Kept.refl s
  · split
    · rename_i h
      exact kept_setNotify s p _ (Notify.extends_push _ _ _ h) (fun hm => .inl hm)
    · rename_i h
      exact kept_setMark s p i (by simpa [Notify.hasRoom] using h)

theorem kept_offerSystem (p : Port) (n : Note) (s : State) : Kept s (offerSystem p n s) := by
  unfold offerSystem
  dsimp only
  split
  · exact Kept.refl s
  · split
    · rename_i h
      exact kept_setNotify s p _ (Notify.extends_push _ _ _ h) (fun hm => .inl hm)
    · rename_i h
      refine kept_setNotify s p _ ⟨rfl, rfl, [], by simp [consecutiveFrom]⟩ (fun _ => .inr ?_)
      simpa [Notify.hasRoom] using h

theorem kept_offerSubscribers (f : SubSet → Bool) (i : SlotNo) (n : Note) (s : State) :
    Kept s (offerSubscribers f i n s) := by
  unfold offerSubscribers
  exact (Kept.iteId (kept_offerPoint _ _ _ _)).trans (Kept.iteId (kept_offerPoint _ _ _ _))

theorem kept_closeCommand (i : SlotNo) (v : Issued) (c : Close) (s : State) : Kept s (closeCommand i v c s) := by
  unfold closeCommand
  exact (Kept.iteId (kept_offerPoint _ _ _ _)).trans (Kept.iteId (kept_offerPoint _ _ _ _))

theorem kept_offerNodeEvents (n : Note) (s : State) : Kept s (offerNodeEvents n s) := by
  unfold offerNodeEvents
  exact (Kept.iteId (kept_offerSystem _ _ _)).trans (Kept.iteId (kept_offerSystem _ _ _))

/-! ### Schedules and queues (Machine/Schedule.lean) -/

theorem kept_enterSchedule (g : SegId) (i : SlotNo) (d : Due) (s : State) : Kept s (enterSchedule g i d s) := by
  unfold enterSchedule
  exact Kept.ite (Kept.refl s) (kept_modSegment s g _)

theorem kept_leaveSchedule (g : SegId) (i : SlotNo) (s : State) : Kept s (leaveSchedule g i s) :=
  kept_modSegment s g _

theorem kept_moveToNow (g : SegId) (i : SlotNo) (s : State) : Kept s (moveToNow g i s) :=
  (kept_leaveSchedule g i s).trans (kept_enterSchedule _ _ _ _)

theorem kept_queueTail (g : SegId) (i : SlotNo) (s : State) : Kept s (queueTail g i s) := kept_modSegment s g _

theorem kept_queueHead (g : SegId) (i : SlotNo) (s : State) : Kept s (queueHead g i s) := kept_modSegment s g _

theorem kept_leaveQueue (g : SegId) (i : SlotNo) (s : State) : Kept s (leaveQueue g i s) := kept_modSegment s g _

theorem kept_reenter (i : SlotNo) (d : Due) (s : State) : Kept s (reenter i d s) := by
  unfold reenter
  split
  · exact Kept.refl s
  · exact Kept.iteId (kept_enterSchedule _ _ _ _)

theorem kept_reenterRead (kind : FlightKind) (start : Option Due) (i : SlotNo) (s : State) :
    Kept s (reenterRead kind start i s) := by
  unfold reenterRead
  split
  · exact Kept.refl s
  · rename_i pt hp
    split
    · exact Kept.refl s
    · refine Kept.iteId ?_
      exact (kept_setPoint s i pt _ hp (by rfl) (by rfl)).trans (kept_enterSchedule _ _ _ _)

/-! ### The directory (Machine/Directory.lean) -/

theorem kept_answerFresh (p : Port) (o : FreshOutcome) (i : SlotNo) (s : State) : Kept s (answerFresh p o i s) := by
  unfold answerFresh
  split
  · exact Kept.refl s
  · refine Kept.iteId ((kept_offerPoint _ _ _ _).trans (kept_modPoint _ _ _ (by intro _; rfl) (by intro _; rfl)))

theorem kept_answerFreshBoth (o : FreshOutcome) (i : SlotNo) (s : State) : Kept s (answerFreshBoth o i s) :=
  (kept_answerFresh _ _ _ _).trans (kept_answerFresh _ _ _ _)

theorem kept_dropByLoss (g : SegId) (s : State) (i : SlotNo) : Kept s (dropByLoss g s i) :=
  (kept_leaveSchedule g i s).trans (kept_modPoint _ _ _ (by intro _; rfl) (by intro _; rfl))

theorem kept_loseNode (g : SegId) (x : Address) (cause : Option SlotNo) (e : NodeEntry) (s : State) :
    Kept s (loseNode g x cause e s) := by
  unfold loseNode
  refine (kept_foldl _ (fun s i => kept_answerFreshBoth .noNode i s) _ _).after ?_
  refine (kept_foldl _ (fun s i => kept_dropByLoss g s i) _ _).after ?_
  exact (kept_offerNodeEvents _ _).after (kept_modNode s g x _ (by intro _; rfl))

theorem kept_returnNode (g : SegId) (x : Address) (e : NodeEntry) (s : State) : Kept s (returnNode g x e s) := by
  unfold returnNode
  refine (kept_foldl _ (fun s i => kept_reenter i s.dueNow s) _ _).after ?_
  exact (kept_offerNodeEvents _ _).after (kept_modNode s g x _ (by intro _; rfl))

theorem kept_nodeAccepted (g : SegId) (x : Address) (s : State) : Kept s (nodeAccepted g x s) := by
  unfold nodeAccepted
  split
  · exact Kept.refl s
  · exact Kept.ite (kept_returnNode _ _ _ _) (kept_modNode s g x _ (by intro _; rfl))

theorem kept_nodeMissed (g : SegId) (x : Address) (cause : Option SlotNo) (s : State) :
    Kept s (nodeMissed g x cause s) := by
  unfold nodeMissed
  split
  · exact Kept.refl s
  · exact Kept.ite (Kept.refl s) (Kept.ite (kept_loseNode _ _ _ _ _) (kept_modNode s g x _ (by intro _; rfl)))

theorem kept_setProbe (g : SegId) (x : Address) (t : Time) (s : State) : Kept s (setProbe g x t s) := by
  refine kept_modNode s g x _ fun e => ?_
  split <;> rfl

/-! ### Values (Machine/Values.lean) -/

theorem kept_noteQuality (i : SlotNo) (q : Quality) (c : QualityCause) (s : State) : Kept s (noteQuality i q c s) := by
  unfold noteQuality
  split
  · exact Kept.refl s
  · exact Kept.ite (Kept.refl s) (kept_offerSubscribers _ _ _ _)

theorem kept_goodRead (i : SlotNo) (v : Value) (s : State) : Kept s (goodRead i v s) := by
  unfold goodRead
  split
  · exact Kept.refl s
  · rename_i pt hp
    exact (kept_setPoint s i pt _ hp (by rfl) (by rfl)).trans (kept_noteQuality _ _ _ _)

theorem kept_failedRead (i : SlotNo) (s : State) : Kept s (failedRead i s) := by
  unfold failedRead
  split
  · exact Kept.refl s
  · rename_i pt hp
    exact (kept_setPoint s i pt _ hp (by rfl) (by rfl)).trans (kept_noteQuality _ _ _ _)

theorem kept_evaluate (i : SlotNo) (v : Value) (s : State) : Kept s (evaluate i v s) := by
  unfold evaluate
  split
  · exact Kept.refl s
  · rename_i pt hp
    split
    · exact Kept.refl s
    · exact Kept.ite (Kept.refl s) ((kept_setPoint s i pt _ hp (by rfl) (by rfl)).trans (kept_offerSubscribers _ _ _ _))

theorem kept_testDeadband (i : SlotNo) (v : Value) (s : State) : Kept s (testDeadband i v s) := by
  unfold testDeadband
  split
  · exact Kept.refl s
  · rename_i pt hp
    split
    · exact Kept.refl s
    · exact Kept.iteId ((kept_setPoint s i pt _ hp (by rfl) (by rfl)).trans (kept_offerSubscribers _ _ _ _))

theorem kept_takeStale (i : SlotNo) (s : State) : Kept s (takeStale i s) := by
  unfold takeStale
  split
  · exact Kept.refl s
  · rename_i pt hp
    exact (kept_setPoint s i pt _ hp (by rfl) (by rfl)).trans (kept_noteQuality _ _ _ _)

/-! ### Commands (Machine/Commands.lean) -/

/-- A change of the command sub-record that keeps restore keeps what DEFINE fixed. -/
theorem Point.modCommand_identity (pt : Point) (f : Command → Command) (hf : ∀ c, (f c).restore = c.restore) :
    (pt.modCommand f).identity = pt.identity := by
  cases h : pt.command <;> simp [Point.modCommand, Point.identity, Point.isOutput, h, hf]

theorem kept_modCommand (i : SlotNo) (f : Command → Command) (hf : ∀ c, (f c).restore = c.restore) (s : State) :
    Kept s (modCommand i f s) := kept_modPoint s i _ (fun pt => Point.modCommand_identity pt f hf) (by intro _; rfl)

theorem kept_setStand (i : SlotNo) (x : Stand) (s : State) : Kept s (setStand i x s) :=
  kept_modCommand i _ (by intro _; rfl) s

theorem kept_waitAgain (i : SlotNo) (v : Issued) (d : Option Time) (s : State) : Kept s (waitAgain i v d s) := by
  unfold waitAgain
  split
  · exact Kept.refl s
  · exact Kept.ite ((kept_setStand _ _ _).trans (kept_queueHead _ _ _)) (kept_setStand _ _ _)

theorem kept_promote (i : SlotNo) (nv : NextValue) (s : State) : Kept s (promote i nv s) := by
  unfold promote
  refine Kept.after ?_ (kept_modCommand i (fun c => { c with attempts := 0 }) (by intro _; rfl) s)
  exact Kept.ite ((kept_setStand _ _ _).trans (kept_closeCommand _ _ _ _)) (kept_waitAgain _ _ _ _)

theorem kept_promoteIfAny (i : SlotNo) (next : Option NextValue) (s : State) : Kept s (promoteIfAny i next s) := by
  unfold promoteIfAny
  split
  · exact Kept.refl s
  · exact kept_promote _ _ _

theorem kept_stepUndone (i : SlotNo) (v : Issued) (next : Option NextValue) (s : State) :
    Kept s (stepUndone i v next s) := by
  unfold stepUndone
  split
  · exact kept_waitAgain _ _ _ _
  · exact (kept_closeCommand _ _ _ _).trans (kept_promote _ _ _)

theorem kept_notAnAttempt (i : SlotNo) (s : State) : Kept s (notAnAttempt i s) := by
  unfold notAnAttempt
  split
  · exact Kept.refl s
  · exact kept_stepUndone _ _ _ _

theorem kept_failedAttempt (i : SlotNo) (c : FailCause) (s : State) : Kept s (failedAttempt i c s) := by
  unfold failedAttempt
  split
  · exact Kept.refl s
  · refine Kept.after (Kept.ite (kept_stepUndone _ _ _ _) ?_)
      (kept_modCommand i (fun c => { c with attempts := s.attempts i + 1 }) (by intro _; rfl) s)
    exact ((kept_setStand _ _ _).trans (kept_closeCommand _ _ _ _)).trans (kept_promoteIfAny _ _ _)

theorem kept_confirm (i : SlotNo) (v : Issued) (next : Option NextValue) (s : State) :
    Kept s (confirm i v next s) := by
  unfold confirm
  exact ((kept_modCommand i _ (by intro _; rfl) s).trans (kept_closeCommand _ _ _ _)).trans (kept_promoteIfAny _ _ _)

theorem kept_compareVerify (i : SlotNo) (v : Value) (s : State) : Kept s (compareVerify i v s) := by
  unfold compareVerify
  split
  · exact Kept.refl s
  · exact Kept.ite (kept_confirm _ _ _ _) (kept_failedAttempt _ _ _)

theorem kept_withdrawNotes (i : SlotNo) (s : State) : Kept s (withdrawNotes i s) := by
  unfold withdrawNotes
  have h : ∀ (v : Issued) (next : Option NextValue),
      Kept s (match next with
        | none => closeCommand i v .withdrawn s
        | some nv => closeCommand i nv.issued .withdrawn (closeCommand i v .withdrawn s)) := by
    intro v next
    cases next with
    | none => exact kept_closeCommand _ _ _ _
    | some nv => exact (kept_closeCommand _ _ _ _).trans (kept_closeCommand _ _ _ _)
  split
  · exact kept_closeCommand _ _ _ _
  · exact kept_closeCommand _ _ _ _
  · exact h _ _
  · exact h _ _
  · exact Kept.refl s

theorem kept_takeDeadline (i : SlotNo) (s : State) : Kept s (takeDeadline i s) := by
  unfold takeDeadline
  split
  · exact Kept.refl s
  · split
    · exact (kept_setStand _ _ _).trans (kept_closeCommand _ _ _ _)
    · exact ((kept_leaveQueue _ _ _).trans (kept_setStand _ _ _)).trans (kept_closeCommand _ _ _ _)
    · exact Kept.refl s

theorem kept_restoreCommand (i : SlotNo) (cv : Value) (s : State) : Kept s (restoreCommand i cv s) := by
  unfold restoreCommand
  split
  · exact Kept.refl s
  · refine Kept.after ?_ (kept_modCommand i (fun c => { c with attempts := 0 }) (by intro _; rfl) s)
    exact Kept.ite ((kept_setStand _ _ _).trans (kept_queueTail _ _ _)) (kept_setStand _ _ _)

theorem kept_compareGuard (i : SlotNo) (v : Value) (s : State) : Kept s (compareGuard i v s) := by
  unfold compareGuard
  split
  · exact Kept.refl s
  · split
    · exact Kept.refl s
    · split
      · refine Kept.ite (Kept.refl s) ?_
        exact Kept.ite ((kept_offerSubscribers _ _ _ _).trans (kept_restoreCommand _ _ _))
          (kept_offerSubscribers _ _ _ _)
      · exact Kept.refl s

end Sys2Proof.Machine
end

