-- ==== Sys2Proof/Laws/Wire.lean ====
section
/-! SUPPORT. Laws/Wire.lean: what the definitions of Machine/Wire.lean give, one lemma each: the sample and the waiting
drivers of every cycle, the course of a transaction through one cycle and through several, and what a transaction driven
on and an engine that chooses can become. -/

namespace Sys2Proof.Machine

/-! ### Cycles (R106, R107) -/

@[simp] theorem sampled_bit (b nodes : Bool) : (Cycle.bit b).sampled nodes = (b && nodes) := rfl
@[simp] theorem sampled_listen (nodes : Bool) : Cycle.listen.sampled nodes = nodes := rfl
@[simp] theorem sampled_answer (accept nodes : Bool) : (Cycle.answer accept).sampled nodes = (!accept && nodes) := rfl
@[simp] theorem sampled_restart (nodes : Bool) : Cycle.restart.sampled nodes = nodes := rfl
@[simp] theorem sampled_stop (nodes : Bool) : Cycle.stop.sampled nodes = nodes := rfl

@[simp] theorem waiting_bit (b : Bool) : (Cycle.bit b).waiting = ⟨true, b⟩ := rfl
@[simp] theorem waiting_listen : Cycle.listen.waiting = ⟨true, true⟩ := rfl
@[simp] theorem waiting_answer (accept : Bool) : (Cycle.answer accept).waiting = ⟨true, !accept⟩ := rfl
@[simp] theorem waiting_restart : Cycle.restart.waiting = ⟨true, true⟩ := rfl
@[simp] theorem waiting_stop : Cycle.stop.waiting = ⟨true, false⟩ := rfl

/-- Only a bit the engine sends as 1, a RESTART and a STOP can be fought, by nodes that hold FD low (R115). -/
theorem fought_sampled (c : Cycle) (nodes : Bool) :
    c.fought (c.sampled nodes) = ((c == .bit true || c == .restart || c == .stop) && !nodes) := by
  cases c with
  | bit b => cases b <;> cases nodes <;> rfl
  | listen => cases nodes <;> rfl
  | answer a => cases a <;> cases nodes <;> rfl
  | restart => cases nodes <;> rfl
  | stop => cases nodes <;> rfl

/-! ### The course of a transaction -/

@[simp] theorem afterCycles_nil (w : Work) (c : Bool) (pos : LinkPos) : w.afterCycles c pos [] = .going pos := rfl

theorem afterCycles_cons (w : Work) (c : Bool) (pos : LinkPos) (nodes : Bool) (rest : List Bool) :
    w.afterCycles c pos (nodes :: rest) =
      match w.afterCycle c pos nodes with
      | .going next => w.afterCycles c next rest
      | .ended outcome => .ended outcome := rfl

/-- Cycles made in two parts: the second part goes on from where the first has led. -/
theorem afterCycles_append (w : Work) (c : Bool) (pos : LinkPos) (l m : List Bool) :
    w.afterCycles c pos (l ++ m) =
      match w.afterCycles c pos l with
      | .going next => w.afterCycles c next m
      | .ended outcome => .ended outcome := by
  induction l generalizing pos with
  | nil => rfl
  | cons b l ih =>
    simp only [List.cons_append, afterCycles_cons]
    cases w.afterCycle c pos b with
    | going next => exact ih next
    | ended outcome => rfl

/-- The STOP: FD released ends the transaction with its outcome, FD held low with CONTEST (R107, R119). -/
@[simp] theorem afterCycle_stop (w : Work) (c : Bool) (o : TxOutcome) (nodes : Bool) :
    w.afterCycle c (.stop o) nodes = .ended (if nodes then o else .contest) := by cases nodes <;> rfl

/-- The RESTART: FD held low ends the transaction with CONTEST (R107, R115). -/
@[simp] theorem afterCycle_restart (w : Work) (c nodes : Bool) :
    w.afterCycle c .restart nodes =
      if nodes then .going (if c then .stop (.done []) else .sending 2 0) else .ended .contest := by cases nodes <;> rfl

/-- A bit the engine sends: a 1 that the nodes hold low ends the transaction with CONTEST (R115). -/
theorem afterCycle_bit (w : Work) (c : Bool) (n k : Nat) (nodes : Bool) (h : k < 8) :
    w.afterCycle c (.sending n k) nodes =
      if ((bitsOf (w.sends.getD n 0)).getD k false && !nodes) = true then .ended .contest
      else .going (.sending n (k + 1)) := by
  simp only [Work.afterCycle, Work.cycle, h, ite_true, sampled_bit, Cycle.fought, Work.advance]
  cases (bitsOf (w.sends.getD n 0)).getD k false <;> cases nodes <;> rfl

/-- The acceptance bit of a byte the engine sends (R108). -/
theorem afterCycle_acceptance (w : Work) (c : Bool) (n : Nat) (nodes : Bool) :
    w.afterCycle c (.sending n 8) nodes = .going (w.afterSent c n nodes) := rfl

/-- A bit a node sends (R108). -/
theorem afterCycle_received (w : Work) (c : Bool) (got : List Byte) (bits : List Bool) (nodes : Bool) (h : bits.length < 8) :
    w.afterCycle c (.receiving got bits) nodes = .going (.receiving got (bits ++ [nodes])) := by
  simp [Work.afterCycle, Work.cycle, h, Cycle.fought, Work.advance]

/-- The acceptance bit of a byte a node sends: what the nodes do in it is not used (R115). -/
theorem afterCycle_answer (w : Work) (c : Bool) (got : List Byte) (bits : List Bool) (nodes : Bool) (h : ¬bits.length < 8) :
    w.afterCycle c (.receiving got bits) nodes = .going (w.afterReceived c (got ++ [byteOfBits bits])) := by
  simp [Work.afterCycle, Work.cycle, h, Cycle.fought, Work.advance]

/-! ### Whole bytes (R108, R115) -/

/-- The bits of a byte in the order of the link. -/
theorem getD_bitsOf (b : Byte) (k : Nat) (h : k < 8) : (bitsOf b).getD k false = wireBit b k := by
  match k, h with
  | 0, _ | 1, _ | 2, _ | 3, _ | 4, _ | 5, _ | 6, _ | 7, _ => rfl

/-- Bits of a byte the engine sends that no node fights. -/
theorem afterCycles_unfought (w : Work) (c : Bool) (n : Nat) (l : List Bool) (k : Nat) (hk : k + l.length ≤ 8)
    (h : ∀ j, j < l.length → wireBit (w.sends.getD n 0) (k + j) = true → l[j]? = some true) :
    w.afterCycles c (.sending n k) l = .going (.sending n (k + l.length)) := by
  induction l generalizing k with
  | nil => rfl
  | cons x l ih =>
    have hk' : k + 1 + l.length ≤ 8 := by simp only [List.length_cons] at hk; omega
    have hx : ¬((bitsOf (w.sends.getD n 0)).getD k false && !x) = true := by
      rw [getD_bitsOf _ _ (by omega)]
      have := h 0 (by simp)
      simp only [Nat.add_zero, List.getElem?_cons_zero, Option.some.injEq] at this
      cases x <;> simp_all
    rw [afterCycles_cons, afterCycle_bit _ _ _ _ _ (by omega), if_neg hx]
    simp only
    rw [ih (k + 1) hk', List.length_cons, Nat.add_assoc, Nat.add_comm 1]
    intro j hj hb
    have := h (j + 1) (by simpa using hj) (by rwa [show k + (j + 1) = k + 1 + j by omega])
    simpa using this

/-- A byte the engine sends, answered in its acceptance bit. -/
theorem afterCycles_answered (w : Work) (c : Bool) (n : Nat) (b : Byte) (refuse : Bool) (l : List Bool)
    (hb : w.sends.getD n 0 = b) (h : answered b refuse l) :
    w.afterCycles c (.sending n 0) l = .going (w.afterSent c n refuse) := by
  obtain ⟨m, rfl, hm, hu⟩ := h
  rw [afterCycles_append, afterCycles_unfought _ _ _ _ 0 (by omega) (fun j hj hw => hu j hj (by rwa [Nat.zero_add, hb] at hw))]
  simp only [Nat.zero_add, hm, afterCycles_cons, afterCycle_acceptance, afterCycles_nil]

/-- A byte the engine sends that a node fights. -/
theorem afterCycles_fights (w : Work) (c : Bool) (n : Nat) (b : Byte) (l rest : List Bool)
    (hb : w.sends.getD n 0 = b) (h : fights b l) :
    w.afterCycles c (.sending n 0) (l ++ rest) = .ended .contest := by
  obtain ⟨m, rfl, hm, hu, hw⟩ := h
  rw [List.append_assoc, afterCycles_append, afterCycles_unfought _ _ _ _ 0 (by omega) (fun j hj hw => hu j hj (by rwa [Nat.zero_add, hb] at hw))]
  simp only [Nat.zero_add, List.cons_append, List.nil_append, afterCycles_cons]
  rw [afterCycle_bit _ _ _ _ _ hm, getD_bitsOf _ _ hm, hb, hw]
  rfl

/-- The byte of the bits of a byte is that byte. -/
theorem byteOfBits_wire (b : Byte) : byteOfBits ((List.range 8).map (wireBit b)) = b := by
  have : ∀ b : Byte, byteOfBits ((List.range 8).map (wireBit b)) = b := by decide +kernel
  exact this b

/-- Bits a node sends. -/
theorem afterCycles_bits (w : Work) (c : Bool) (got : List Byte) (l bits : List Bool) (h : bits.length + l.length ≤ 8) :
    w.afterCycles c (.receiving got bits) l = .going (.receiving got (bits ++ l)) := by
  induction l generalizing bits with
  | nil => simp
  | cons x l ih =>
    simp only [List.length_cons] at h
    rw [afterCycles_cons, afterCycle_received _ _ _ _ _ (by omega)]
    simp only
    rw [ih _ (by simp; omega), List.append_assoc]
    rfl

/-- A byte a node sends. -/
theorem afterCycles_byte (w : Work) (c : Bool) (got : List Byte) (b : Byte) (a : Bool) :
    w.afterCycles c (.receiving got []) ((List.range 8).map (wireBit b) ++ [a]) =
      .going (w.afterReceived c (got ++ [b])) := by
  rw [afterCycles_append, afterCycles_bits _ _ _ _ _ (by simp)]
  simp only [List.nil_append, afterCycles_cons, afterCycles_nil]
  rw [afterCycle_answer _ _ _ _ _ (by simp), byteOfBits_wire]

/-- The bytes the nodes send up to the last one. -/
theorem afterCycles_nodesSend (w : Work) (bs got : List Byte) (l : List Bool) (h : nodesSend bs l) (hb : bs ≠ [])
    (hn : got.length + bs.length = w.receives) :
    w.afterCycles false (.receiving got []) l = .going (.stop (w.judge (got ++ bs))) := by
  induction bs generalizing got l with
  | nil => exact absurd rfl hb
  | cons b bs ih =>
    obtain ⟨a, m, rfl, hm⟩ := h
    simp only [List.length_cons] at hn
    rw [show (List.range 8).map (wireBit b) ++ a :: m = ((List.range 8).map (wireBit b) ++ [a]) ++ m by simp,
      afterCycles_append, afterCycles_byte]
    simp only
    rcases bs with _ | ⟨b2, bs⟩
    · obtain rfl : m = [] := hm
      have : ¬(got.length + 1 < w.receives) := by simp at hn; omega
      simp [Work.afterReceived, this]
    · have : got.length + 1 < w.receives := by simp at hn; omega
      simp only [Work.afterReceived, Bool.false_eq_true, ite_false, List.length_append, List.length_singleton, this, ite_true]
      rw [ih _ _ hm (by simp) (by simp at hn ⊢; omega)]
      simp

/-- A transaction that has gone on through some cycles has gone on through the first of them. -/
theorem afterCycles_prefix {w : Work} {c : Bool} {pos next : LinkPos} {q r : List Bool}
    (h : w.afterCycles c pos (q ++ r) = .going next) : ∃ before, w.afterCycles c pos q = .going before := by
  rw [afterCycles_append] at h
  split at h
  · next n k => exact ⟨n, k⟩
  · cases h

/-- A transaction that ends in a cycle ends with the outcome of that cycle, and not before. -/
theorem afterCycles_ends {w : Work} {c : Bool} {pos next : LinkPos} {l : List Bool} {nodes : Bool} {outcome : TxOutcome}
    (h : w.afterCycles c pos l = .going next) (k : w.afterCycle c next nodes = .ended outcome) :
    w.afterCycles c pos (l ++ [nodes]) = .ended outcome ∧
      ∀ q r, l ++ [nodes] = q ++ r → r ≠ [] → ∃ before, w.afterCycles c pos q = .going before := by
  refine ⟨by rw [afterCycles_append, h]; simp [afterCycles_cons, k], fun q r e hr => ?_⟩
  rw [← List.dropLast_append_getLast hr, ← List.append_assoc] at e
  exact afterCycles_prefix ((List.append_inj' e rfl).1 ▸ h)

/-! ### A transaction driven on, an engine that chooses -/

/-- A transaction driven on stays as it is, stands further on, or has ended with an outcome. -/
theorem driveOn_cases (g : SegId) (f : LinkPos → LinkPos) (l : List Bool) (s : State) :
    driveOn g f l s = s ∨ (∃ t start next, driveOn g f l s = moveOn g t start next s) ∨
      ∃ t outcome, driveOn g f l s = takeCompletion g t outcome s := by
  unfold driveOn
  split
  · exact .inl rfl
  · split
    · exact .inl rfl
    · split
      · exact .inr (.inr ⟨_, _, rfl⟩)
      · split
        · exact .inl rfl
        · exact .inr (.inl ⟨_, _, _, rfl⟩)

/-- A transaction on the wires that its levels bring to an outcome ends with it. -/
theorem driveOn_ended {g : SegId} {f : LinkPos → LinkPos} {l : List Bool} {s : State} {w : Work} {c : Bool}
    {start released : Time} {pos : LinkPos} {outcome : TxOutcome}
    (h : (s.segment g).transaction = some ⟨w, .onWires start released pos, c⟩)
    (k : w.afterCycles c (f pos) l = .ended outcome) :
    driveOn g f l s = takeCompletion g ⟨w, .onWires start released pos, c⟩ outcome s := by
  simp [driveOn, h, k]

/-- A transaction on the wires that its levels do not bring to its end stands further on. -/
theorem driveOn_going {g : SegId} {f : LinkPos → LinkPos} {l : List Bool} {s : State} {w : Work} {c : Bool}
    {start released : Time} {pos next : LinkPos}
    (h : (s.segment g).transaction = some ⟨w, .onWires start released pos, c⟩)
    (k : w.afterCycles c (f pos) l = .going next) (n : l ≠ []) :
    driveOn g f l s = s.modSegment g fun x => { x with transaction := some ⟨w, .onWires start s.clock next, c⟩ } := by
  simp [driveOn, h, k, n, moveOn]

/-- An engine that chooses starts nothing, or the work of the first candidate whose claim is granted. -/
theorem chooseWork_cases (g : SegId) (s : State) :
    chooseWork g s = s ∨ ∃ w t, (s.segment g).idle = true ∧ s.granted g = some (w, t) ∧
      chooseWork g s = beginTransaction g w t := by
  unfold chooseWork
  split
  · next h =>
    split
    · exact .inl rfl
    · next w t k => exact .inr ⟨w, t, h, k, rfl⟩
  · exact .inl rfl

end Sys2Proof.Machine
end

