-- ==== Sys2Proof/Laws/Links.lean ====
section
/-! SUPPORT. Laws/Links.lean: what the operations of Machine/Segments.lean and Machine/Completions.lean leave as it is. The
end of a transaction frees at most one slot (R25): `Effect`. -/

namespace Sys2Proof.Machine

/-- The roster is kept but for at most one slot, which the freeing procedure frees (R11, R22, R25). -/
def Effect (s t : State) : Prop :=
  Kept s t ∨ ∃ i u, Kept s u ∧ (u.point? i).isSome = true ∧ Kept (freeSlot i u) t

theorem Effect.of_kept {s t : State} (h : Kept s t) : Effect s t := .inl h

theorem Effect.trans_kept {s t u : State} (h : Effect s t) (k : Kept t u) : Effect s u := by
  rcases h with h | ⟨i, v, h1, h2, h3⟩
  · exact .inl (h.trans k)
  · exact .inr ⟨i, v, h1, h2, h3.trans k⟩

theorem Kept.trans_effect {s t u : State} (h : Kept s t) (k : Effect t u) : Effect s u := by
  rcases k with k | ⟨i, v, k1, k2, k3⟩
  · exact .inl (h.trans k)
  · exact .inr ⟨i, v, h.trans k1, k2, k3⟩

theorem Effect.ite {c : Prop} [Decidable c] {s t u : State} (h : Effect s t) (k : Effect s u) :
    Effect s (if c then t else u) := by split <;> assumption

/-! ### Recovery and scans -/

theorem kept_beginRecovery (g : SegId) (c : RecoveryCause) (s : State) : Kept s (beginRecovery g c s) :=
  kept_modSegment s g _

theorem kept_endTransaction (g : SegId) (s : State) : Kept s (endTransaction g s) := kept_modSegment s g _

theorem kept_abortScan (g : SegId) (s : State) : Kept s (abortScan g s) := by
  unfold abortScan
  dsimp only
  split
  · exact (kept_offerSystem _ _ _).after (kept_modSegment _ _ _)
  · exact Kept.refl s

theorem kept_advanceScan (g : SegId) (s : State) : Kept s (advanceScan g s) := by
  unfold advanceScan
  dsimp only
  split
  · exact Kept.ite ((kept_offerSystem _ _ _).after (kept_modSegment _ _ _)) (kept_modSegment _ _ _)
  · exact Kept.refl s

theorem kept_recordFound (g : SegId) (x : Address) (s : State) : Kept s (recordFound g x s) := kept_modSegment s g _

/-! ### The end of a transaction for its point -/

theorem kept_endFlight (i : SlotNo) (s : State) : Kept s (endFlight i s) :=
  kept_modPoint s i _ (by intro _; rfl) (by intro _; rfl)

theorem kept_freshAnswer (k : ReadKind) (o : FreshOutcome) (i : SlotNo) (s : State) : Kept s (freshAnswer k o i s) := by
  unfold freshAnswer
  exact Kept.iteId (kept_answerFreshBoth _ _ _)

theorem kept_pollFailed (k : ReadKind) (o : FreshOutcome) (i : SlotNo) (s : State) : Kept s (pollFailed k o i s) :=
  (kept_freshAnswer _ _ _ _).after (kept_failedRead _ _)

theorem kept_pollGood (k : ReadKind) (v : Value) (i : SlotNo) (s : State) : Kept s (pollGood k v i s) := by
  unfold pollGood
  dsimp only
  have h : Kept s (testDeadband i v (evaluate i v (goodRead i v s))) :=
    ((kept_testDeadband _ _ _).after (kept_evaluate _ _ _)).after (kept_goodRead _ _ _)
  refine (kept_freshAnswer _ _ _ _).after (Kept.ite ?_ h)
  exact (kept_compareGuard _ _ _).after h

theorem kept_pollEffects (k : ReadKind) (i : SlotNo) (pt : Point) (o : TxOutcome) (s : State) :
    Kept s (pollEffects k i pt o s) := by
  cases o
  · exact kept_pollGood _ _ _ _
  · exact kept_pollFailed _ _ _ _
  · exact kept_pollFailed _ _ _ _
  · exact kept_pollFailed _ _ _ _
  all_goals exact Kept.refl s

theorem kept_verifyEffects (i : SlotNo) (pt : Point) (o : TxOutcome) (s : State) : Kept s (verifyEffects i pt o s) := by
  cases o
  · exact (kept_compareVerify _ _ _).after (kept_goodRead _ _ _)
  · exact kept_failedAttempt _ _ _
  · exact kept_failedAttempt _ _ _
  · exact kept_failedAttempt _ _ _
  all_goals exact kept_notAnAttempt _ _

theorem kept_writeAccepted (i : SlotNo) (pt : Point) (s : State) : Kept s (writeAccepted i pt s) := by
  unfold writeAccepted
  split
  · exact Kept.ite (kept_setStand _ _ _) (kept_stepUndone _ _ _ _)
  · exact Kept.refl s

theorem kept_writeEffects (i : SlotNo) (pt : Point) (o : TxOutcome) (s : State) : Kept s (writeEffects i pt o s) := by
  cases o
  · exact kept_writeAccepted _ _ _
  · exact kept_failedAttempt _ _ _
  · exact kept_failedAttempt _ _ _
  · exact kept_failedAttempt _ _ _
  all_goals exact kept_notAnAttempt _ _

theorem effect_endRetirement (p : Port) (i : SlotNo) (s : State) (h : (s.point? i).isSome = true) :
    Effect s (endRetirement p i s) := .inr ⟨i, s, Kept.refl s, h, kept_offerSystem _ _ _⟩

theorem effect_finishPoint (i : SlotNo) (effects : Point → State → State) (reentry : Option Due → State → State)
    (he : ∀ pt s, Kept s (effects pt s)) (hr : ∀ d s, Kept s (reentry d s)) (s : State) :
    Effect s (finishPoint i effects reentry s) := by
  unfold finishPoint
  split
  · exact .of_kept (Kept.refl s)
  · rename_i pt hp
    split
    · exact effect_endRetirement _ _ _ (by simp [hp])
    · exact .of_kept (((hr _ _).after (he _ _)).after (kept_endFlight _ _))

theorem kept_reenterDelivery (o : TxOutcome) (i : SlotNo) (d : Option Due) (s : State) :
    Kept s (reenterDelivery o i d s) := by
  unfold reenterDelivery
  split <;> exact kept_reenter _ _ _

theorem kept_reenterPoll (k : ReadKind) (o : TxOutcome) (i : SlotNo) (d : Option Due) (s : State) :
    Kept s (reenterPoll k o i d s) := by
  unfold reenterPoll
  split
  · exact kept_reenter _ _ _
  · exact kept_reenterRead _ _ _ _

theorem effect_finishPoll (k : ReadKind) (i : SlotNo) (o : TxOutcome) (s : State) : Effect s (finishPoll k i o s) :=
  effect_finishPoint _ _ _ (fun _ _ => kept_pollEffects _ _ _ _ _) (fun _ _ => kept_reenterPoll _ _ _ _ _) s

theorem effect_finishVerify (i : SlotNo) (o : TxOutcome) (s : State) : Effect s (finishVerify i o s) :=
  effect_finishPoint _ _ _ (fun _ _ => kept_verifyEffects _ _ _ _) (fun _ _ => kept_reenterDelivery _ _ _ _) s

theorem effect_finishWrite (i : SlotNo) (o : TxOutcome) (s : State) : Effect s (finishWrite i o s) :=
  effect_finishPoint _ _ _ (fun _ _ => kept_writeEffects _ _ _ _) (fun _ _ => kept_reenterDelivery _ _ _ _) s

/-! ### Completions -/

theorem kept_nodeOutcome (g : SegId) (x : Address) (c : Option SlotNo) (o : TxOutcome) (s : State) :
    Kept s (nodeOutcome g x c o s) := by
  cases o
  · exact kept_nodeAccepted _ _ _
  · exact kept_nodeMissed _ _ _ _
  · exact kept_nodeAccepted _ _ _
  · exact kept_nodeAccepted _ _ _
  all_goals exact Kept.refl s

theorem kept_probeEffects (g : SegId) (x : Address) (o : TxOutcome) (s : State) : Kept s (probeEffects g x o s) := by
  unfold probeEffects
  split <;> first | exact kept_setProbe _ _ _ _ | exact Kept.refl s

theorem kept_scanEffects (g : SegId) (x : Address) (o : TxOutcome) (s : State) : Kept s (scanEffects g x o s) := by
  cases o
  · exact (kept_advanceScan _ _).after (kept_recordFound _ _ _)
  · exact kept_advanceScan _ _
  all_goals exact Kept.refl s

theorem kept_moveAlertDriven (g : SegId) (s : State) (i : SlotNo) : Kept s (moveAlertDriven g s i) := by
  unfold moveAlertDriven
  split
  · exact Kept.refl s
  · exact Kept.iteId (kept_moveToNow _ _ _)

theorem kept_rollWon (g : SegId) (x : Address) (s : State) : Kept s (rollWon g x s) := by
  unfold rollWon
  split
  · exact kept_offerNodeEvents _ _
  · exact (kept_foldl _ (fun s i => kept_moveAlertDriven g s i) _ _).after (kept_nodeAccepted _ _ _)

theorem kept_rollEffects (g : SegId) (o : TxOutcome) (s : State) : Kept s (rollEffects g o s) := by
  unfold rollEffects
  split
  · exact kept_rollWon _ _ _
  · exact kept_modSegment _ _ _
  · exact Kept.refl s

theorem effect_applyOutcome (g : SegId) (w : Work) (o : TxOutcome) (s : State) : Effect s (applyOutcome g w o s) := by
  cases w with
  | read k i x item width =>
    cases k
    · exact (kept_nodeOutcome _ _ _ _ _).trans_effect (effect_finishPoll _ _ _ _)
    · exact (kept_nodeOutcome _ _ _ _ _).trans_effect (effect_finishPoll _ _ _ _)
    · exact (kept_nodeOutcome _ _ _ _ _).trans_effect (effect_finishPoll _ _ _ _)
    · exact (kept_nodeOutcome _ _ _ _ _).trans_effect (effect_finishVerify _ _ _)
  | write i x item width v => exact (kept_nodeOutcome _ _ _ _ _).trans_effect (effect_finishWrite _ _ _)
  | probe x => exact .of_kept ((kept_probeEffects _ _ _ _).after (kept_nodeOutcome _ _ _ _ _))
  | scanStep x => exact .of_kept ((kept_scanEffects _ _ _ _).after (kept_nodeOutcome _ _ _ _ _))
  | roll => exact .of_kept (kept_rollEffects _ _ _)

theorem kept_faultRecovery (g : SegId) (o : TxOutcome) (s : State) : Kept s (faultRecovery g o s) := by
  unfold faultRecovery
  split
  · exact kept_beginRecovery _ _ _
  · exact Kept.refl s

theorem effect_takeCompletion (g : SegId) (t : Transaction) (o : TxOutcome) (s : State) :
    Effect s (takeCompletion g t o s) := by
  unfold takeCompletion
  dsimp only
  refine Effect.trans_kept ?_ (kept_faultRecovery _ _ _)
  refine (kept_endTransaction g s).trans_effect ?_
  exact Effect.ite (.of_kept (Kept.refl _)) (effect_applyOutcome _ _ _ _)

theorem effect_driveOn (g : SegId) (f : LinkPos → LinkPos) (l : List Bool) (s : State) : Effect s (driveOn g f l s) := by
  rcases driveOn_cases g f l s with h | ⟨t, start, next, h⟩ | ⟨t, outcome, h⟩ <;> rw [h]
  · exact .of_kept (Kept.refl s)
  · exact .of_kept (kept_modSegment _ _ _)
  · exact effect_takeCompletion _ _ _ _

theorem effect_completeWith (g : SegId) (f : Work → Bool) (l : List Bool) (s : State) : Effect s (completeWith g f l s) := by
  unfold completeWith
  exact Effect.ite (effect_driveOn _ _ _ _) (.of_kept (Kept.refl s))

theorem effect_endWith (g : SegId) (o : TxOutcome) (s : State) : Effect s (endWith g o s) := by
  unfold endWith
  split
  · exact .of_kept (Kept.refl s)
  · exact effect_takeCompletion _ _ _ _

theorem effect_abandon (g : SegId) (s : State) : Effect s (abandon g s) := by
  unfold abandon
  split
  · exact .of_kept (Kept.refl s)
  · exact (kept_endTransaction g s).trans_effect (Effect.ite (.of_kept (Kept.refl _)) (effect_applyOutcome _ _ _ _))

/-! ### The arbiter -/

theorem kept_takeFlight (g : SegId) (i : SlotNo) (k : FlightKind) (s : State) : Kept s (takeFlight g i k s) :=
  (kept_modPoint _ _ _ (by intro _; rfl) (by intro _; rfl)).after (kept_leaveSchedule _ _ _)

theorem kept_claimStart (g : SegId) (c : Choice) (s t : State) (w : Work) (h : claimStart g c s = some (w, t)) :
    Kept s t := by
  cases c with
  | verify i =>
    simp only [claimStart, claimVerify] at h
    split at h
    · cases h
    · split at h
      · obtain ⟨-, rfl⟩ := Prod.mk.inj (Option.some.inj h); exact kept_takeFlight _ _ _ _
      · cases h
  | command i =>
    simp only [claimStart, claimCommand] at h
    split at h
    · cases h
    · split at h
      · split at h
        · obtain ⟨-, rfl⟩ := Prod.mk.inj (Option.some.inj h)
          exact ((kept_setStand _ _ _).after (kept_takeFlight _ _ _ _)).after (kept_leaveQueue _ _ _)
        · cases h
      · cases h
  | roll => obtain ⟨-, rfl⟩ := Prod.mk.inj (Option.some.inj h); exact Kept.refl s
  | poll i =>
    simp only [claimStart, claimPoll] at h
    split at h
    · cases h
    · split at h
      · obtain ⟨-, rfl⟩ := Prod.mk.inj (Option.some.inj h); exact kept_takeFlight _ _ _ _
      · cases h
  | probe x =>
    simp only [claimStart, claimProbe] at h
    split at h
    · cases h
    · split at h
      · obtain ⟨-, rfl⟩ := Prod.mk.inj (Option.some.inj h); exact kept_modNode s g x _ (by intro _; rfl)
      · cases h
  | scanStep x =>
    simp only [claimStart] at h
    split at h
    · obtain ⟨-, rfl⟩ := Prod.mk.inj (Option.some.inj h); exact Kept.refl s
    · cases h

theorem kept_granted (g : SegId) (s t : State) (w : Work) (h : s.granted g = some (w, t)) : Kept s t := by
  obtain ⟨c, -, h⟩ := List.exists_of_findSome?_eq_some h
  exact kept_claimStart _ _ _ _ _ h

theorem kept_chooseWork (g : SegId) (s : State) : Kept s (chooseWork g s) := by
  rcases chooseWork_cases g s with h | ⟨w, t, -, k, h⟩ <;> rw [h]
  · exact Kept.refl s
  · exact (kept_modSegment _ _ _).after (kept_granted _ _ _ _ k)

/-! ### Recovery attempts and expiries -/

theorem kept_recoverUp (g : SegId) (c : RecoveryCause) (s : State) : Kept s (recoverUp g c s) :=
  (kept_offerNodeEvents _ _).after (kept_modSegment _ _ _)

theorem kept_attemptFailed (g : SegId) (c : RecoveryCause) (s : State) : Kept s (attemptFailed g c s) := by
  unfold attemptFailed
  dsimp only
  refine Kept.ite (kept_modSegment _ _ _) ?_
  exact ((kept_abortScan _ _).after (kept_offerNodeEvents _ _)).after (kept_modSegment _ _ _)

theorem kept_takeDueCap (i : SlotNo) (w : CapHolder) (s : State) : Kept s (takeDueCap i w s) := by
  cases w
  · simp only [takeDueCap]
    split
    · exact Kept.refl s
    · exact kept_modSegment _ _ _
  · exact kept_modPoint _ _ _ (by intro _; rfl) (by intro _; rfl)
  · exact kept_modPoint _ _ _ (by intro _; rfl) (by intro _; rfl)

theorem kept_capAge (i : SlotNo) (s : State) : Kept s (s.modPoint i Point.capAge) :=
  kept_modPoint _ _ _ (by intro _; rfl) (by intro _; rfl)

theorem kept_markProbe (g : SegId) (x : Address) (s : State) : Kept s (s.modNode g x NodeEntry.markProbe) :=
  kept_modNode _ _ _ _ (by intro _; rfl)

end Sys2Proof.Machine
end

