-- ==== Sys2Proof/Laws/Beside.lean ====
section
/-! SUPPORT. Laws/Beside.lean: what the end of a transaction leaves alone. `Beside own near g x s t`: from `s` to `t` only
records, queues and segments have changed; a segment only in its schedule and command queue; no generation; the standing of no
point but the transaction's own; the record and the schedule entry of no point but its own and those near it; no directory entry
but that of the node `x` of segment `g`; without a point of its own no command queue, and with none near it either no schedule.
One lemma for each operation, so that no later proof unfolds it; the last one gives `transactionFrame`. -/

namespace Sys2Proof.Machine

/-- The point in slot `j` is neither the transaction's own nor near it. -/
def apart (own : Option SlotNo) (near : SlotNo → Prop) (j : SlotNo) : Prop := some j ≠ own ∧ ¬ near j

/-- From `s` to `t` the roster keeps what the file's header says. -/
structure Beside (own : Option SlotNo) (near : SlotNo → Prop) (g : SegId) (x : Address) (s t : State) : Prop where
  rest : { t with slots := s.slots, directory := s.directory, segments := s.segments, notify := s.notify } = s
  segment : ∀ h, { t.segment h with
    schedule := (s.segment h).schedule, commandQueue := (s.segment h).commandQueue } = s.segment h
  generation : ∀ j, t.generation j = s.generation j
  standing : ∀ j, some j ≠ own → (t.point? j).map Point.standing = (s.point? j).map Point.standing
  point : ∀ j, apart own near j → t.point? j = s.point? j
  entry : ∀ j, apart own near j → ∀ h, t.entryOf? h j = s.entryOf? h j
  node : ∀ h y, (h, y) ≠ (g, x) → t.nodeEntry? h y = s.nodeEntry? h y
  directory : s.nodeEntry? g x = none → t.directory = s.directory
  queue : own = none → ∀ h, (t.segment h).commandQueue = (s.segment h).commandQueue
  schedule : (∀ j, apart own near j) → ∀ h, (t.segment h).schedule = (s.segment h).schedule
  quiet : ∀ p, (s.notifyOf p).enabled = false → t.notifyOf p = s.notifyOf p

variable {own : Option SlotNo} {near : SlotNo → Prop} {g : SegId} {x : Address}

theorem Beside.refl (s : State) : Beside own near g x s s :=
  ⟨rfl, fun _ => rfl, fun _ => rfl, fun _ _ => rfl, fun _ _ => rfl, fun _ _ _ => rfl, fun _ _ _ => rfl,
    fun _ => rfl, fun _ _ => rfl, fun _ _ => rfl, fun _ _ => rfl⟩

theorem Beside.trans {s t u : State} (h : Beside own near g x s t) (k : Beside own near g x t u) :
    Beside own near g x s u where
  rest := by
    have a := h.rest; have b := k.rest
    cases s; cases t; cases u; simp at a b ⊢
    simp [a, b]
  segment v := by
    have a := h.segment v; have b := k.segment v
    generalize s.segment v = s at *; generalize t.segment v = t at *; generalize u.segment v = u at *
    cases s; cases t; cases u; simp at a b ⊢
    simp [a, b]
  generation j := (k.generation j).trans (h.generation j)
  standing j hj := (k.standing j hj).trans (h.standing j hj)
  point j hj := (k.point j hj).trans (h.point j hj)
  entry j hj v := (k.entry j hj v).trans (h.entry j hj v)
  node v y hy := (k.node v y hy).trans (h.node v y hy)
  directory hn := by
    have e := h.directory hn
    exact (k.directory (by unfold State.nodeEntry? at *; rwa [e])).trans e
  queue ho v := (k.queue ho v).trans (h.queue ho v)
  schedule ha v := (k.schedule ha v).trans (h.schedule ha v)
  quiet p hp := by
    have e := h.quiet p hp
    exact (k.quiet p (by rw [e]; exact hp)).trans e

/-- Two steps, the later one given first. -/
theorem Beside.after {s t u : State} (k : Beside own near g x t u) (h : Beside own near g x s t) :
    Beside own near g x s u := h.trans k

theorem Beside.ite {c : Prop} [Decidable c] {s t u : State} (h : Beside own near g x s t) (k : Beside own near g x s u) :
    Beside own near g x s (if c then t else u) := by split <;> assumption

theorem Beside.iteId {c : Prop} [Decidable c] {s t : State} (h : Beside own near g x s t) :
    Beside own near g x s (if c then t else s) := .ite h (.refl s)

theorem beside_foldl (P : SlotNo → Prop) (f : State → SlotNo → State)
    (hf : ∀ s a, P a → Beside own near g x s (f s a)) (l : List SlotNo) (hl : ∀ a ∈ l, P a) (s : State) :
    Beside own near g x s (l.foldl f s) := by
  induction l generalizing s with
  | nil => exact .refl s
  | cons a l ih => exact (hf s a (hl a (by simp))).trans (ih (fun b hb => hl b (by simp [hb])) _)

/-! ### The named updates -/

/-- A change of the own point's record, or of a near one's that keeps its standing. -/
theorem beside_modPoint (s : State) (i : SlotNo) (f : Point → Point)
    (hi : own = some i ∨ (near i ∧ ∀ pt, (f pt).standing = pt.standing)) : Beside own near g x s (s.modPoint i f) where
  rest := by unfold State.modPoint; split <;> rfl
  segment h := by simp
  generation j := by simp
  standing j hj := by
    by_cases e : i = j
    · subst e
      rcases hi with rfl | ⟨_, hi⟩
      · exact absurd rfl hj
      · cases hp : s.point? i <;> simp [hp, hi]
    · simp [e]
  point j hj := by
    by_cases e : i = j
    · subst e
      rcases hi with rfl | ⟨hn, _⟩
      · exact absurd rfl hj.1
      · exact absurd hn hj.2
    · simp [e]
  entry j _ h := by simp [State.entryOf?]
  node h y _ := by simp [State.nodeEntry?]
  directory _ := by simp
  queue _ h := by simp
  schedule _ h := by simp
  quiet p _ := by simp

theorem beside_setPoint (s : State) (i : SlotNo) (pt : Point) (hi : own = some i) :
    Beside own near g x s (s.setPoint i pt) where
  rest := rfl
  segment h := rfl
  generation j := by simp
  standing j hj := by
    by_cases e : i = j
    · subst e; exact absurd hi.symm hj
    · simp [e]
  point j hj := by
    by_cases e : i = j
    · subst e; exact absurd hi.symm hj.1
    · simp [e]
  entry _ _ _ := rfl
  node _ _ _ := rfl
  directory _ := rfl
  queue _ _ := rfl
  schedule _ _ := rfl
  quiet _ _ := rfl

/-- A change of a schedule or command queue that moves no entry of a point apart. -/
theorem beside_modSegment (s : State) (h : SegId) (f : Segment → Segment)
    (hf : ∀ y, { f y with schedule := y.schedule, commandQueue := y.commandQueue } = y)
    (he : ∀ j, apart own near j → ∀ y : Segment, (f y).schedule.find? (·.slot == j) = y.schedule.find? (·.slot == j))
    (hq : own = none → ∀ y, (f y).commandQueue = y.commandQueue)
    (hs : (∀ j, apart own near j) → ∀ y, (f y).schedule = y.schedule) :
    Beside own near g x s (s.modSegment h f) where
  rest := rfl
  segment v := by
    by_cases e : h = v
    · subst e; simpa using hf _
    · simp [e]
  generation _ := rfl
  standing _ _ := rfl
  point _ _ := rfl
  entry j hj v := by
    unfold State.entryOf?
    by_cases e : h = v
    · subst e; simpa using he j hj _
    · simp [e]
  node _ _ _ := rfl
  directory _ := rfl
  queue ho v := by
    by_cases e : h = v
    · subst e; simpa using hq ho _
    · simp [e]
  schedule ha v := by
    by_cases e : h = v
    · subst e; simpa using hs ha _
    · simp [e]
  quiet _ _ := rfl

theorem find?_modNode (l : List NodeEntry) (f : NodeEntry → NodeEntry) (hf : ∀ e h y, (f e).hasKey h y = e.hasKey h y)
    (h : SegId) (y : Address) (hy : (h, y) ≠ (g, x)) :
    (l.map fun e => if e.hasKey g x then f e else e).find? (·.hasKey h y) = l.find? (·.hasKey h y) := by
  induction l with
  | nil => rfl
  | cons e l ih =>
    simp only [List.map_cons, List.find?_cons]
    by_cases k : e.hasKey g x = true
    · have : e.hasKey h y = false := by
        simp only [NodeEntry.hasKey, Bool.and_eq_true, beq_iff_eq, Bool.and_eq_false_iff, beq_eq_false_iff_ne] at k ⊢
        by_contra c
        simp only [not_or, not_not] at c
        exact hy (by rw [← c.1, ← c.2, k.1, k.2])
      simp [k, hf, this, ih]
    · rw [if_neg k, ih]

/-- A change of the entry of the key that keeps its key. -/
theorem beside_modNode (s : State) (f : NodeEntry → NodeEntry) (hf : ∀ e h y, (f e).hasKey h y = e.hasKey h y) :
    Beside own near g x s (s.modNode g x f) where
  rest := rfl
  segment _ := rfl
  generation _ := rfl
  standing _ _ := rfl
  point _ _ := rfl
  entry _ _ _ := rfl
  node h y hy := by
    exact find?_modNode s.directory f hf h y hy
  directory hn := by
    refine (List.map_congr_left fun e he => ?_).trans (List.map_id _)
    rw [if_neg (by simpa using List.find?_eq_none.1 hn e he)]
    rfl
  queue _ _ := rfl
  schedule _ _ := rfl
  quiet _ _ := rfl

/-- A change of the queue of a port whose notifications are on. -/
theorem beside_setNotify (s : State) (p : Port) (y : Notify) (hp : (s.notifyOf p).enabled = true) :
    Beside own near g x s (s.setNotify p y) := by
  refine ⟨rfl, fun _ => rfl, fun _ => rfl, fun _ _ => rfl, fun _ _ => rfl, fun _ _ _ => rfl, fun _ _ _ => rfl,
    fun _ => rfl, fun _ _ => rfl, fun _ _ => rfl, fun q hq => ?_⟩
  have e : p ≠ q := by
    rintro rfl
    rw [hp] at hq
    cases hq
  simp [e]

/-! ### Notifications (Machine/Notify.lean) -/

theorem beside_offerPoint (p : Port) (i : SlotNo) (n : Note) (s : State) (hi : own = some i ∨ near i) :
    Beside own near g x s (offerPoint p i n s) := by
  unfold offerPoint
  dsimp only
  split
  · exact .refl s
  · rename_i h
    exact .ite (beside_setNotify _ _ _ (by simpa using h))
      (beside_modPoint s i _ (hi.imp id fun h => ⟨h, fun _ => rfl⟩))

theorem beside_offerSystem (p : Port) (n : Note) (s : State) : Beside own near g x s (offerSystem p n s) := by
  unfold offerSystem
  dsimp only
  split
  · exact .refl s
  · rename_i h
    exact .ite (beside_setNotify _ _ _ (by simpa using h)) (beside_setNotify _ _ _ (by simpa using h))

theorem beside_offerSubscribers (f : SubSet → Bool) (i : SlotNo) (n : Note) (s : State) (hi : own = some i ∨ near i) :
    Beside own near g x s (offerSubscribers f i n s) := by
  unfold offerSubscribers
  exact (Beside.iteId (beside_offerPoint _ _ _ _ hi)).trans (.iteId (beside_offerPoint _ _ _ _ hi))

theorem beside_closeCommand (i : SlotNo) (v : Issued) (c : Close) (s : State) (hi : own = some i) :
    Beside own near g x s (closeCommand i v c s) := by
  unfold closeCommand
  exact (Beside.iteId (beside_offerPoint _ _ _ _ (.inl hi))).trans (.iteId (beside_offerPoint _ _ _ _ (.inl hi)))

theorem beside_offerNodeEvents (n : Note) (s : State) : Beside own near g x s (offerNodeEvents n s) := by
  unfold offerNodeEvents
  exact (Beside.iteId (beside_offerSystem _ _ _)).trans (.iteId (beside_offerSystem _ _ _))

/-! ### Schedules and queues (Machine/Schedule.lean) -/

theorem apart_ne {i j : SlotNo} (hi : own = some i ∨ near i) (hj : apart own near j) : i ≠ j := by
  rintro rfl
  rcases hi with rfl | h
  · exact hj.1 rfl
  · exact hj.2 h

theorem find?_insertEntry (e : SchedEntry) (l : List SchedEntry) (j : SlotNo) (h : e.slot ≠ j) :
    (insertEntry e l).find? (·.slot == j) = l.find? (·.slot == j) := by
  induction l with
  | nil => simp [insertEntry, h]
  | cons f l ih =>
    unfold insertEntry
    split
    · rw [List.find?_cons_of_neg]; simpa using h
    · simp only [List.find?_cons, ih]

theorem find?_removeEntry (i : SlotNo) (l : List SchedEntry) (j : SlotNo) (h : i ≠ j) :
    (removeEntry i l).find? (·.slot == j) = l.find? (·.slot == j) := by
  unfold removeEntry
  rw [List.find?_filter]
  congr 1
  funext e
  by_cases k : e.slot = j
  · subst k; simp [Ne.symm h]
  · simp [k]

theorem beside_enterSchedule (h : SegId) (i : SlotNo) (d : Due) (s : State) (hi : own = some i ∨ near i) :
    Beside own near g x s (enterSchedule h i d s) := by
  unfold enterSchedule
  exact .ite (.refl s) (beside_modSegment s h _ (fun _ => rfl)
    (fun j hj y => find?_insertEntry _ _ _ (apart_ne hi hj)) (fun _ _ => rfl) fun ha _ => absurd rfl (apart_ne hi (ha i)))

theorem beside_leaveSchedule (h : SegId) (i : SlotNo) (s : State) (hi : own = some i ∨ near i) :
    Beside own near g x s (leaveSchedule h i s) :=
  beside_modSegment s h _ (fun _ => rfl) (fun _ hj _ => find?_removeEntry _ _ _ (apart_ne hi hj))
    (fun _ _ => rfl) fun ha _ => absurd rfl (apart_ne hi (ha i))

theorem beside_moveToNow (h : SegId) (i : SlotNo) (s : State) (hi : own = some i ∨ near i) :
    Beside own near g x s (moveToNow h i s) :=
  (beside_leaveSchedule h i s hi).trans (beside_enterSchedule _ _ _ _ hi)

theorem beside_queueTail (h : SegId) (i : SlotNo) (s : State) (hi : own = some i) :
    Beside own near g x s (queueTail h i s) :=
  beside_modSegment s h _ (fun _ => rfl) (fun _ _ _ => rfl) (fun ho => by simp [hi] at ho) fun _ _ => rfl

theorem beside_queueHead (h : SegId) (i : SlotNo) (s : State) (hi : own = some i) :
    Beside own near g x s (queueHead h i s) :=
  beside_modSegment s h _ (fun _ => rfl) (fun _ _ _ => rfl) (fun ho => by simp [hi] at ho) fun _ _ => rfl

theorem beside_reenter (i : SlotNo) (d : Due) (s : State) (hi : own = some i ∨ near i) :
    Beside own near g x s (reenter i d s) := by
  unfold reenter
  split
  · exact .refl s
  · exact .iteId (beside_enterSchedule _ _ _ _ hi)

theorem beside_reenterRead (kind : FlightKind) (start : Option Due) (i : SlotNo) (s : State) (hi : own = some i) :
    Beside own near g x s (reenterRead kind start i s) := by
  unfold reenterRead
  split
  · exact .refl s
  · split
    · exact .refl s
    · exact .iteId ((beside_setPoint s i _ hi).trans (beside_enterSchedule _ _ _ _ (.inl hi)))

/-! ### The directory (Machine/Directory.lean) -/

theorem beside_answerFreshBoth (o : FreshOutcome) (i : SlotNo) (s : State) (hi : own = some i ∨ near i) :
    Beside own near g x s (answerFreshBoth o i s) := by
  have h : ∀ p s, Beside own near g x s (answerFresh p o i s) := by
    intro p s
    unfold answerFresh
    split
    · exact .refl s
    · exact .iteId ((beside_offerPoint _ _ _ _ hi).trans
        (beside_modPoint _ _ _ (hi.imp id fun h => ⟨h, fun _ => rfl⟩)))
  exact (h _ _).trans (h _ _)

theorem beside_dropByLoss (h : SegId) (s : State) (i : SlotNo) (hi : near i) : Beside own near g x s (dropByLoss h s i) :=
  (beside_leaveSchedule h i s (.inr hi)).trans (beside_modPoint _ _ _ (.inr ⟨hi, fun _ => rfl⟩))

/-- The points that name the node are near it. -/
def nearAll (near : SlotNo → Prop) (g : SegId) (x : Address) (s : State) : Prop :=
  ∀ i pt, s.point? i = some pt → pt.names g x = true → near i

theorem nearAll_kept {s t : State} (h : nearAll near g x s) (k : Kept s t) : nearAll near g x t := by
  intro i pt hp hn
  have e := k.ident i
  unfold State.ident at e
  rw [hp] at e
  cases hs : s.point? i with
  | none => simp [hs] at e
  | some q =>
    simp only [hs, Option.map_some, Option.some.injEq] at e
    refine h i q hs ?_
    have e1 := congrArg Identity.segment e
    have e2 := congrArg Identity.address e
    simp only [Point.identity] at e1 e2
    simpa [Point.names, e1, e2] using hn

theorem nearAll_slots {s : State} (h : nearAll near g x s) : ∀ i ∈ s.slotsNaming g x, near i := by
  intro i hi
  simp only [State.slotsNaming, List.mem_filter, Option.any_eq_true] at hi
  obtain ⟨_, pt, hp, hn⟩ := hi
  exact h i pt hp hn

theorem beside_loseNode (cause : Option SlotNo) (e : NodeEntry) (s : State) (hs : nearAll near g x s) :
    Beside own near g x s (loseNode g x cause e s) := by
  unfold loseNode
  extract_lets s1 s2 s3
  have k1 : Kept s s1 := kept_modNode s g x _ (by intro _; rfl)
  have k2 : Kept s s2 := k1.trans (kept_offerNodeEvents _ _)
  have k3 : Kept s s3 := k2.trans (kept_foldl _ (fun s i => kept_dropByLoss g s i) _ _)
  refine Beside.after (beside_foldl near _ (fun s i hi => beside_answerFreshBoth _ _ _ (.inr hi)) _
    (fun a ha => nearAll_slots (nearAll_kept hs k3) a (List.mem_filter.1 ha).1) _) ?_
  refine Beside.after (beside_foldl near _ (fun s i hi => beside_dropByLoss g s i hi) _
    (nearAll_slots (nearAll_kept hs k2)) _) ?_
  exact (beside_offerNodeEvents _ _).after (beside_modNode _ _ fun _ _ _ => rfl)

theorem beside_returnNode (e : NodeEntry) (s : State) (hs : nearAll near g x s) :
    Beside own near g x s (returnNode g x e s) := by
  unfold returnNode
  extract_lets s1 s2
  have k2 : Kept s s2 := (kept_modNode s g x _ (by intro _; rfl)).trans (kept_offerNodeEvents _ _)
  refine Beside.after (beside_foldl near _ (fun s i hi => beside_reenter i s.dueNow s (.inr hi)) _
    (nearAll_slots (nearAll_kept hs k2)) _) ?_
  exact (beside_offerNodeEvents _ _).after (beside_modNode _ _ fun _ _ _ => rfl)

/-- An outcome counted against the node's entry touches no point that does not name the node, and none at all when the node
neither returns nor is lost. -/
theorem beside_nodeOutcome (cause : Option SlotNo) (o : TxOutcome) (s : State)
    (hs : s.nodeStays g x o ∨ nearAll near g x s) : Beside own near g x s (nodeOutcome g x cause o s) := by
  have acc : o ≠ .noNode → o.fault? = none → Beside own near g x s (nodeAccepted g x s) := by
    intro h1 h2
    unfold nodeAccepted
    split
    · exact .refl s
    · rename_i e he
      split
      · rename_i hl
        rcases hs with hs | hs
        · exact absurd (by simpa using hl) ((hs e he).2 h1 h2)
        · exact beside_returnNode _ _ hs
      · exact beside_modNode _ _ fun _ _ _ => rfl
  unfold nodeOutcome
  split
  · exact acc (by simp) rfl
  · exact acc (by simp) rfl
  · exact acc (by simp) rfl
  · unfold nodeMissed
    split
    · exact .refl s
    · rename_i e he
      split
      · exact .refl s
      · rename_i hl
        split
        · rename_i h8
          rcases hs with hs | hs
          · rcases (hs e he).1 rfl with h | h
            · exact absurd (by simpa using h) hl
            · omega
          · exact beside_loseNode _ _ _ hs
        · exact beside_modNode _ _ fun _ _ _ => rfl
  · exact .refl s

theorem beside_setProbe (t : Time) (s : State) : Beside own near g x s (setProbe g x t s) := by
  refine beside_modNode _ _ fun e h y => ?_
  split <;> rfl

/-! ### Values and commands (Machine/Values.lean, Machine/Commands.lean), for the transaction's own point -/

variable {i : SlotNo}

theorem beside_noteQuality (hi : own = some i) (q : Quality) (c : QualityCause) (s : State) :
    Beside own near g x s (noteQuality i q c s) := by
  unfold noteQuality
  split
  · exact .refl s
  · exact .ite (.refl s) (beside_offerSubscribers _ _ _ _ (.inl hi))

theorem beside_goodRead (hi : own = some i) (v : Value) (s : State) : Beside own near g x s (goodRead i v s) := by
  unfold goodRead
  split
  · exact .refl s
  · exact (beside_setPoint s i _ hi).trans (beside_noteQuality hi _ _ _)

theorem beside_failedRead (hi : own = some i) (s : State) : Beside own near g x s (failedRead i s) := by
  unfold failedRead
  split
  · exact .refl s
  · exact (beside_setPoint s i _ hi).trans (beside_noteQuality hi _ _ _)

theorem beside_evaluate (hi : own = some i) (v : Value) (s : State) : Beside own near g x s (evaluate i v s) := by
  unfold evaluate
  split
  · exact .refl s
  · split
    · exact .refl s
    · exact .ite (.refl s) ((beside_setPoint s i _ hi).trans (beside_offerSubscribers _ _ _ _ (.inl hi)))

theorem beside_testDeadband (hi : own = some i) (v : Value) (s : State) :
    Beside own near g x s (testDeadband i v s) := by
  unfold testDeadband
  split
  · exact .refl s
  · split
    · exact .refl s
    · exact .iteId ((beside_setPoint s i _ hi).trans (beside_offerSubscribers _ _ _ _ (.inl hi)))

theorem beside_modCommand (hi : own = some i) (f : Command → Command) (s : State) :
    Beside own near g x s (modCommand i f s) := beside_modPoint s i _ (.inl hi)

theorem beside_setStand (hi : own = some i) (v : Stand) (s : State) : Beside own near g x s (setStand i v s) :=
  beside_modCommand hi _ s

theorem beside_waitAgain (hi : own = some i) (v : Issued) (d : Option Time) (s : State) :
    Beside own near g x s (waitAgain i v d s) := by
  unfold waitAgain
  split
  · exact .refl s
  · exact .ite ((beside_setStand hi _ _).trans (beside_queueHead _ _ _ hi)) (beside_setStand hi _ _)

theorem beside_promote (hi : own = some i) (nv : NextValue) (s : State) : Beside own near g x s (promote i nv s) := by
  unfold promote
  refine Beside.after ?_ (beside_modCommand hi (fun c => { c with attempts := 0 }) s)
  exact .ite ((beside_setStand hi _ _).trans (beside_closeCommand _ _ _ _ hi)) (beside_waitAgain hi _ _ _)

theorem beside_promoteIfAny (hi : own = some i) (next : Option NextValue) (s : State) :
    Beside own near g x s (promoteIfAny i next s) := by
  unfold promoteIfAny
  split
  · exact .refl s
  · exact beside_promote hi _ _

theorem beside_stepUndone (hi : own = some i) (v : Issued) (next : Option NextValue) (s : State) :
    Beside own near g x s (stepUndone i v next s) := by
  unfold stepUndone
  split
  · exact beside_waitAgain hi _ _ _
  · exact (beside_closeCommand _ _ _ _ hi).trans (beside_promote hi _ _)

theorem beside_notAnAttempt (hi : own = some i) (s : State) : Beside own near g x s (notAnAttempt i s) := by
  unfold notAnAttempt
  split
  · exact .refl s
  · exact beside_stepUndone hi _ _ _

theorem beside_failedAttempt (hi : own = some i) (c : FailCause) (s : State) :
    Beside own near g x s (failedAttempt i c s) := by
  unfold failedAttempt
  split
  · exact .refl s
  · refine Beside.after (.ite (beside_stepUndone hi _ _ _) ?_) (beside_modCommand hi _ s)
    exact ((beside_setStand hi _ _).trans (beside_closeCommand _ _ _ _ hi)).trans (beside_promoteIfAny hi _ _)

theorem beside_compareVerify (hi : own = some i) (v : Value) (s : State) :
    Beside own near g x s (compareVerify i v s) := by
  unfold compareVerify
  split
  · exact .refl s
  · refine .ite ?_ (beside_failedAttempt hi _ _)
    exact ((beside_modCommand hi _ s).trans (beside_closeCommand _ _ _ _ hi)).trans (beside_promoteIfAny hi _ _)

theorem beside_restoreCommand (hi : own = some i) (cv : Value) (s : State) :
    Beside own near g x s (restoreCommand i cv s) := by
  unfold restoreCommand
  split
  · exact .refl s
  · refine Beside.after ?_ (beside_modCommand hi (fun c => { c with attempts := 0 }) s)
    exact .ite ((beside_setStand hi _ _).trans (beside_queueTail _ _ _ hi)) (beside_setStand hi _ _)

theorem beside_compareGuard (hi : own = some i) (v : Value) (s : State) : Beside own near g x s (compareGuard i v s) := by
  unfold compareGuard
  split
  · exact .refl s
  · split
    · exact .refl s
    · split
      · refine .ite (.refl s) ?_
        exact .ite ((beside_offerSubscribers _ _ _ _ (.inl hi)).trans (beside_restoreCommand hi _ _))
          (beside_offerSubscribers _ _ _ _ (.inl hi))
      · exact .refl s

/-! ### The end of a transaction for its point (Machine/Segments.lean) -/

theorem beside_pollEffects (hi : own = some i) (kind : ReadKind) (pt : Point) (o : TxOutcome) (s : State) :
    Beside own near g x s (pollEffects kind i pt o s) := by
  have fresh : ∀ o s, Beside own near g x s (freshAnswer kind o i s) := fun o s => by
    unfold freshAnswer
    exact .iteId (beside_answerFreshBoth _ _ _ (.inl hi))
  have failed : ∀ o, Beside own near g x s (pollFailed kind o i s) := fun o =>
    (beside_failedRead hi s).trans (fresh _ _)
  unfold pollEffects
  split
  · unfold pollGood
    refine Beside.after (fresh _ _) (Beside.after (.iteId (beside_compareGuard hi _ _)) ?_)
    exact ((beside_goodRead hi _ s).trans (beside_evaluate hi _ _)).trans (beside_testDeadband hi _ _)
  · exact failed _
  · exact failed _
  · exact failed _
  · exact .refl s

theorem beside_verifyEffects (hi : own = some i) (pt : Point) (o : TxOutcome) (s : State) :
    Beside own near g x s (verifyEffects i pt o s) := by
  unfold verifyEffects
  split
  · exact (beside_goodRead hi _ s).trans (beside_compareVerify hi _ _)
  · exact beside_failedAttempt hi _ _
  · exact beside_failedAttempt hi _ _
  · exact beside_failedAttempt hi _ _
  · exact beside_notAnAttempt hi _

theorem beside_writeEffects (hi : own = some i) (pt : Point) (o : TxOutcome) (s : State) :
    Beside own near g x s (writeEffects i pt o s) := by
  unfold writeEffects
  split
  · unfold writeAccepted
    split
    · exact .ite (beside_setStand hi _ _) (beside_stepUndone hi _ _ _)
    · exact .refl s
  · exact beside_failedAttempt hi _ _
  · exact beside_failedAttempt hi _ _
  · exact beside_failedAttempt hi _ _
  · exact beside_notAnAttempt hi _

/-- The own point, if any, is not RETIRING. -/
theorem beside_finishPoint (hi : own = some i) (effects : Point → State → State) (reentry : Option Due → State → State)
    (he : ∀ pt s, Beside own near g x s (effects pt s)) (hr : ∀ d s, Beside own near g x s (reentry d s)) (s : State)
    (hs : ∀ pt q, s.point? i = some pt → pt.state ≠ .retiring q) :
    Beside own near g x s (finishPoint i effects reentry s) := by
  unfold finishPoint
  split
  · exact .refl s
  · rename_i pt hp
    split
    · rename_i q hq
      exact absurd hq (hs pt q hp)
    · exact ((beside_modPoint s i _ (.inl hi)).trans (he _ _)).trans (hr _ _)

theorem beside_finishPoll (hi : own = some i) (kind : ReadKind) (o : TxOutcome) (s : State)
    (hs : ∀ pt q, s.point? i = some pt → pt.state ≠ .retiring q) : Beside own near g x s (finishPoll kind i o s) := by
  refine beside_finishPoint hi _ _ (fun pt s => beside_pollEffects hi _ _ _ _) (fun d s => ?_) s hs
  unfold reenterPoll
  split
  · exact beside_reenter _ _ _ (.inl hi)
  · exact beside_reenterRead _ _ _ _ hi

theorem beside_reenterDelivery (hi : own = some i) (o : TxOutcome) (d : Option Due) (s : State) :
    Beside own near g x s (reenterDelivery o i d s) := by
  unfold reenterDelivery
  split <;> exact beside_reenter _ _ _ (.inl hi)

theorem beside_finishVerify (hi : own = some i) (o : TxOutcome) (s : State)
    (hs : ∀ pt q, s.point? i = some pt → pt.state ≠ .retiring q) : Beside own near g x s (finishVerify i o s) :=
  beside_finishPoint hi _ _ (fun _ _ => beside_verifyEffects hi _ _ _) (fun _ _ => beside_reenterDelivery hi _ _ _) s hs

theorem beside_finishWrite (hi : own = some i) (o : TxOutcome) (s : State)
    (hs : ∀ pt q, s.point? i = some pt → pt.state ≠ .retiring q) : Beside own near g x s (finishWrite i o s) :=
  beside_finishPoint hi _ _ (fun _ _ => beside_writeEffects hi _ _ _) (fun _ _ => beside_reenterDelivery hi _ _ _) s hs

theorem beside_probeEffects (o : TxOutcome) (s : State) : Beside own near g x s (probeEffects g x o s) := by
  unfold probeEffects
  split
  · exact beside_setProbe _ _
  · exact beside_setProbe _ _
  · exact beside_setProbe _ _
  · exact beside_setProbe _ _
  · exact .refl s

/-! ### A transaction that has ended (Machine/Segments.lean) -/

/-- What a scan step's outcome changes: its segment's scan, and the queues (R142, R143). -/
theorem scanEffects_frame (o : TxOutcome) (s : State) :
    { scanEffects g x o s with segments := s.segments, notify := s.notify } = s ∧
      (∀ h, { (scanEffects g x o s).segment h with scan := (s.segment h).scan } = s.segment h) ∧
      (∀ h, h ≠ g → (scanEffects g x o s).segment h = s.segment h) ∧
      ∀ p, (s.notifyOf p).enabled = false → (scanEffects g x o s).notifyOf p = s.notifyOf p := by
  have notes : ∀ p n (t : State), { offerSystem p n t with notify := t.notify } = t := by
    intro p n t
    unfold offerSystem
    dsimp only
    split
    · rfl
    · split <;> rfl
  have segs : ∀ p n (t : State) h, (offerSystem p n t).segment h = t.segment h := by
    intro p n t h
    have e := congrArg (fun t => State.segment t h) (notes p n t)
    exact e
  have off : ∀ p n (t : State) q, (t.notifyOf q).enabled = false → (offerSystem p n t).notifyOf q = t.notifyOf q :=
    fun p n t q => (beside_offerSystem (own := none) (near := fun _ => True) (g := g) (x := x) p n t).quiet q
  have scan : ∀ (t : State) (f : Segment → ScanContext),
      { t.modSegment g fun y => { y with scan := f y } with segments := t.segments, notify := t.notify } = t ∧
        (∀ h, { (t.modSegment g fun y => { y with scan := f y }).segment h with scan := (t.segment h).scan } = t.segment h) ∧
        ∀ h, h ≠ g → (t.modSegment g fun y => { y with scan := f y }).segment h = t.segment h := by
    intro t f
    refine ⟨rfl, fun h => ?_, fun h hh => by simp [Ne.symm hh]⟩
    by_cases e : g = h
    · subst e; simp
    · simp [e]
  have adv : ∀ t : State, { advanceScan g t with segments := t.segments, notify := t.notify } = t ∧
      (∀ h, { (advanceScan g t).segment h with scan := (t.segment h).scan } = t.segment h) ∧
      (∀ h, h ≠ g → (advanceScan g t).segment h = t.segment h) ∧
      ∀ p, (t.notifyOf p).enabled = false → (advanceScan g t).notifyOf p = t.notifyOf p := by
    intro t
    unfold advanceScan
    dsimp only
    split
    · split
      · refine ⟨?_, fun h => ?_, fun h hh => ?_, fun p hp => off _ _ _ _ hp⟩
        · have := notes (p := ‹ScanRange›.requester) (n := .scanDone g true (t.segment g).scan.found.length)
            (t.modSegment g fun y => { y with scan := { (t.segment g).scan with state := .done ‹ScanRange› } })
          have e := congrArg (fun u : State => { u with segments := t.segments, notify := t.notify }) this
          exact e
        · rw [segs]; exact (scan t _).2.1 h
        · rw [segs]; exact (scan t _).2.2 h hh
      · exact ⟨(scan t _).1, (scan t _).2.1, (scan t _).2.2, fun _ _ => rfl⟩
    · exact ⟨rfl, fun _ => rfl, fun _ _ => rfl, fun _ _ => rfl⟩
  unfold scanEffects
  split
  · obtain ⟨a1, a2, a3⟩ := scan s fun y => { y.scan with found := y.scan.found ++ [x] }
    obtain ⟨b1, b2, b3, b4⟩ := adv (recordFound g x s)
    refine ⟨?_, fun h => ?_, fun h hh => (b3 h hh).trans (a3 h hh), b4⟩
    · have e := congrArg (fun u : State => { u with segments := s.segments, notify := s.notify }) b1
      exact e
    · have := congrArg (fun y : Segment => { y with scan := (s.segment h).scan }) (b2 h)
      exact this.trans (a2 h)
  · exact adv s
  · exact ⟨rfl, fun _ => rfl, fun _ _ => rfl, fun _ _ => rfl⟩

/-- What touches no point's standing but leaves the same points apart is beside any own point. -/
theorem Beside.weaken {s t : State} (h : Beside none near g x s t) : Beside own near g x s t where
  rest := h.rest
  segment := h.segment
  generation := h.generation
  standing j _ := h.standing j (by simp)
  point j hj := h.point j ⟨by simp, hj.2⟩
  entry j hj := h.entry j ⟨by simp, hj.2⟩
  node := h.node
  directory := h.directory
  queue _ := h.queue rfl
  schedule ha := h.schedule fun j => ⟨by simp, (ha j).2⟩
  quiet := h.quiet

/-- The standing of a record says whether it is RETIRING. -/
theorem Beside.alive {s t : State} (h : Beside none near g x s t) (i : SlotNo)
    (hs : ∀ pt q, s.point? i = some pt → pt.state ≠ .retiring q) : ∀ pt q, t.point? i = some pt → pt.state ≠ .retiring q := by
  intro pt q hp hq
  have e := h.standing i (by simp)
  rw [hp] at e
  cases hs' : s.point? i with
  | none => simp [hs'] at e
  | some pt' =>
    simp only [hs', Option.map_some, Option.some.injEq] at e
    exact hs pt' q hs' ((congrArg Standing.state e).symm.trans hq)

/-- The part of an ended transaction's outcome that reaches its own point is beside it. -/
theorem beside_finish (kind : ReadKind) (hi : own = some i) (o : TxOutcome) (c : Option SlotNo)
    (s : State) (hs : s.nodeStays g x o ∨ nearAll near g x s)
    (hr : ∀ pt q, s.point? i = some pt → pt.state ≠ .retiring q) :
    Beside own near g x s (finishPoll kind i o (nodeOutcome g x c o s)) ∧
      Beside own near g x s (finishVerify i o (nodeOutcome g x c o s)) ∧
      Beside own near g x s (finishWrite i o (nodeOutcome g x c o s)) := by
  have h := beside_nodeOutcome (own := none) c o s hs
  have k := h.alive i hr
  exact ⟨h.weaken.trans (beside_finishPoll hi _ _ _ k), h.weaken.trans (beside_finishVerify hi _ _ k),
    h.weaken.trans (beside_finishWrite hi _ _ k)⟩

/-- The work is to the node `x`. -/
def Work.isTo (x : Address) : Work → Prop
  | .read _ _ y _ _ => y = x
  | .write _ y _ _ _ => y = x
  | .probe y => y = x
  | .scanStep y => y = x
  | .roll => False

/-- An outcome applied is beside the point the work serves, but for what a scan step does to its scan. -/
theorem beside_applyOutcome (w : Work) (hw : w.isTo x) (o : TxOutcome) (s : State)
    (hs : s.nodeStays g x o ∨ nearAll near g x s)
    (hr : ∀ i, (w.flight.map (·.1)) = some i → ∀ pt q, s.point? i = some pt → pt.state ≠ .retiring q) :
    ∃ u, Beside (w.flight.map (·.1)) near g x s u ∧
      ((∀ y, w ≠ .scanStep y) → applyOutcome g w o s = u) ∧ (w = .scanStep x → applyOutcome g w o s = scanEffects g x o u) := by
  cases w with
  | read k i y item wd =>
    cases hw
    have h := fun k => beside_finish k rfl o (some i) s hs (hr i rfl)
    cases k
    · exact ⟨_, (h .poll).1, fun _ => rfl, fun e => by cases e⟩
    · exact ⟨_, (h .refreshPoll).1, fun _ => rfl, fun e => by cases e⟩
    · exact ⟨_, (h .guard).1, fun _ => rfl, fun e => by cases e⟩
    · exact ⟨_, (h .verify).2.1, fun _ => rfl, fun e => by cases e⟩
  | write i y item wd v =>
    cases hw
    exact ⟨_, (beside_finish .poll rfl o (some i) s hs (hr i rfl)).2.2, fun _ => rfl, fun e => by cases e⟩
  | probe y =>
    cases hw
    exact ⟨_, (beside_nodeOutcome none o s hs).trans (beside_probeEffects o _), fun _ => rfl, fun e => by cases e⟩
  | scanStep y =>
    cases hw
    exact ⟨_, beside_nodeOutcome none o s hs, fun e => absurd rfl (e _), fun _ => rfl⟩
  | roll => exact hw.elim

/-- The end of a transaction for a point that is not RETIRING is kept. -/
theorem kept_applyOutcome (w : Work) (o : TxOutcome) (s : State)
    (hr : ∀ i, (w.flight.map (·.1)) = some i → ∀ pt q, s.point? i = some pt → pt.state ≠ .retiring q) :
    Kept s (applyOutcome g w o s) := by
  have fin : ∀ (i : SlotNo) (y : Address) (f : Point → State → State) (r : Option Due → State → State),
      (w.flight.map (·.1)) = some i → (∀ pt s, Kept s (f pt s)) → (∀ d s, Kept s (r d s)) →
      Kept s (finishPoint i f r (nodeOutcome g y (some i) o s)) := by
    intro i y f r hi hf hre
    have alive : ∀ pt q, (nodeOutcome g y (some i) o s).point? i = some pt → pt.state ≠ .retiring q := by
      exact (beside_nodeOutcome (own := none) (near := fun _ => True) (some i) o s (.inr fun _ _ _ _ => trivial)).alive i (hr i hi)
    refine (kept_nodeOutcome g y (some i) o s).trans ?_
    unfold finishPoint
    split
    · exact .refl _
    · rename_i pt hp
      split
      · rename_i q hq
        exact absurd hq (alive pt q hp)
      · exact ((kept_endFlight i _).trans (hf _ _)).trans (hre _ _)
  cases w with
  | read k i y item wd =>
    cases k
    · exact fin i y _ _ rfl (fun _ _ => kept_pollEffects _ _ _ _ _) fun _ _ => kept_reenterPoll _ _ _ _ _
    · exact fin i y _ _ rfl (fun _ _ => kept_pollEffects _ _ _ _ _) fun _ _ => kept_reenterPoll _ _ _ _ _
    · exact fin i y _ _ rfl (fun _ _ => kept_pollEffects _ _ _ _ _) fun _ _ => kept_reenterPoll _ _ _ _ _
    · exact fin i y _ _ rfl (fun _ _ => kept_verifyEffects _ _ _ _) fun _ _ => kept_reenterDelivery _ _ _ _
  | write i y item wd v =>
    exact fin i y _ _ rfl (fun _ _ => kept_writeEffects _ _ _ _) fun _ _ => kept_reenterDelivery _ _ _ _
  | probe y => exact (kept_nodeOutcome _ _ _ _ _).trans (kept_probeEffects _ _ _ _)
  | scanStep y => exact (kept_nodeOutcome _ _ _ _ _).trans (kept_scanEffects _ _ _ _)
  | roll => exact kept_rollEffects _ _ _

/-- A completion taken of a transaction to a node leaves alone what `transactionFrame` names. -/
theorem transactionFrame_takeCompletion (w : Work) (hw : w.isTo x) (phase : TxPhase) (o : TxOutcome) (s : State)
    (hr : ∀ i, (w.flight.map (·.1)) = some i → ∀ pt q, s.point? i = some pt → pt.state ≠ .retiring q) :
    transactionFrame g x w o s (takeCompletion g ⟨w, phase, false⟩ o s) := by
  have kept : Kept s (takeCompletion g ⟨w, phase, false⟩ o s) := by
    have h := (kept_endTransaction g s).trans (kept_applyOutcome (g := g) w o (endTransaction g s) hr)
    simp only [takeCompletion, Bool.false_eq_true, if_false]
    unfold faultRecovery
    split
    · exact h.trans (kept_beginRecovery _ _ _)
    · exact h
  have key : ∀ near : SlotNo → Prop, (s.nodeStays g x o ∨ nearAll near g x s) → ∃ u t,
      Beside (w.flight.map (·.1)) near g x (endTransaction g s) u ∧ takeCompletion g ⟨w, phase, false⟩ o s = t ∧
        { t with segments := u.segments, notify := u.notify } = u ∧
        (∀ h, { t.segment h with scan := (u.segment h).scan } =
          if h = g then
            { (u.segment h).afterEnd o with transaction := (u.segment h).transaction }
          else u.segment h) ∧
        (∀ h, h ≠ g ∨ (∀ y, w ≠ .scanStep y) → (t.segment h).scan = (u.segment h).scan) ∧
        ∀ p, (u.notifyOf p).enabled = false → t.notifyOf p = u.notifyOf p := by
    intro near hs
    obtain ⟨u, h1, h2, h3⟩ := beside_applyOutcome (g := g) (near := near) w hw o (endTransaction g s) hs hr
    obtain ⟨a, b, c, d⟩ : { applyOutcome g w o (endTransaction g s) with segments := u.segments, notify := u.notify } = u ∧
        (∀ h, { (applyOutcome g w o (endTransaction g s)).segment h with scan := (u.segment h).scan } = u.segment h) ∧
        (∀ h, h ≠ g ∨ (∀ y, w ≠ .scanStep y) →
          ((applyOutcome g w o (endTransaction g s)).segment h).scan = (u.segment h).scan) ∧
        ∀ p, (u.notifyOf p).enabled = false →
          (applyOutcome g w o (endTransaction g s)).notifyOf p = u.notifyOf p := by
      by_cases e : ∀ y, w ≠ .scanStep y
      · rw [h2 e]; exact ⟨rfl, fun _ => rfl, fun _ _ => rfl, fun _ _ => rfl⟩
      · have e' : w = .scanStep x := by
          simp only [not_forall, not_not] at e
          obtain ⟨y, rfl⟩ := e
          rw [show y = x from hw]
        rw [h3 e']
        obtain ⟨a, b, c, d⟩ := scanEffects_frame (g := g) (x := x) o u
        exact ⟨a, b, fun h hh => hh.elim (fun k => by rw [c h k]) fun n => absurd e' (n x), d⟩
    refine ⟨u, _, h1, rfl, ?_⟩
    simp only [takeCompletion, Bool.false_eq_true, if_false]
    generalize applyOutcome g w o (endTransaction g s) = v at a b c d
    unfold faultRecovery Segment.afterEnd
    cases o.fault? with
    | none => exact ⟨a, fun h => (b h).trans (by split <;> rfl), c, d⟩
    | some cause =>
      refine ⟨a, fun h => ?_, fun h hh => ?_, d⟩
      · by_cases e : h = g
        · subst e
          have k := b h
          simp only [beginRecovery, State.modSegment_read_segment, if_true]
          generalize v.segment h = y at k ⊢
          generalize u.segment h = z at k ⊢
          rw [← k]
        · rw [if_neg e]
          simp only [beginRecovery, State.modSegment_read_segment, if_neg (Ne.symm e)]
          exact b h
      · by_cases e : g = h
        · subst e; simpa [beginRecovery] using c g hh
        · simpa [beginRecovery, e] using c h hh
  have entries : ∀ (u t : State), (∀ h, { t.segment h with scan := (u.segment h).scan } =
      if h = g then { (u.segment h).afterEnd o with transaction := (u.segment h).transaction } else u.segment h) →
      ∀ h, (t.segment h).schedule = (u.segment h).schedule ∧ (t.segment h).commandQueue = (u.segment h).commandQueue := by
    intro u t h v
    have e1 := congrArg Segment.schedule (h v)
    have e2 := congrArg Segment.commandQueue (h v)
    constructor
    · refine e1.trans ?_
      split
      · unfold Segment.afterEnd; split <;> rfl
      · rfl
    · refine e2.trans ?_
      split
      · unfold Segment.afterEnd; split <;> rfl
      · rfl
  have started : ∀ h, ((endTransaction g s).segment h).schedule = (s.segment h).schedule ∧
      ((endTransaction g s).segment h).commandQueue = (s.segment h).commandQueue ∧
      ((endTransaction g s).segment h).scan = (s.segment h).scan := by
    intro h
    by_cases e : g = h
    · subst e; simp [endTransaction]
    · simp [endTransaction, e]
  obtain ⟨u, t, hb, rfl, a, b, c, d⟩ := key (fun j => ∃ pt, s.point? j = some pt ∧ pt.names g x = true)
    (.inr fun i pt hp hn => ⟨pt, hp, hn⟩)
  have slots : (takeCompletion g ⟨w, phase, false⟩ o s).slots = u.slots := by
    have e := congrArg State.slots a
    exact e
  have dir : (takeCompletion g ⟨w, phase, false⟩ o s).directory = u.directory := by
    have e := congrArg State.directory a
    exact e
  have pts : ∀ u t : State, { t with segments := u.segments, notify := u.notify } = u → ∀ j, t.point? j = u.point? j := by
    intro u t a j
    have e := congrArg (fun v => State.point? v j) a
    exact e
  refine ⟨?_, fun p => ⟨kept.notify p, fun hp => ?_⟩, ?_, ?_, ?_, kept.generation, ?_, ?_, ?_⟩
  · have e := congrArg (fun v : State => { v with slots := s.slots, directory := s.directory, segments := s.segments,
                                                  notify := s.notify }) a
    have e' := congrArg (fun v : State => { v with slots := s.slots, directory := s.directory, segments := s.segments,
                                                   notify := s.notify }) hb.rest
    exact e.trans e'
  · exact (d p (by rw [hb.quiet p hp]; exact hp)).trans (hb.quiet p hp)
  · intro h
    have e := congrArg (fun v : Segment => { v with schedule := (s.segment h).schedule
                                                    commandQueue := (s.segment h).commandQueue
                                                    scan := (s.segment h).scan }) (b h)
    refine e.trans ?_
    have e' := hb.segment h
    by_cases k : h = g
    · subst k
      simp only [if_true]
      have e2 : (endTransaction h s).segment h = { s.segment h with transaction := none } := by simp [endTransaction]
      rw [e2] at e'
      generalize u.segment h = y at e' ⊢
      generalize s.segment h = z at e' ⊢
      unfold Segment.afterEnd
      cases y; cases z; simp at e'
      cases o.fault? <;> simp [e']
    · simp only [if_neg k]
      have e2 : (endTransaction g s).segment h = s.segment h := by simp [endTransaction, Ne.symm k]
      rw [e2] at e'
      generalize u.segment h = y at e' ⊢
      generalize s.segment h = z at e' ⊢
      cases y; cases z; simp at e'
      simp [e']
  · intro h hh
    have e := congrArg Segment.scan (hb.segment h)
    exact (c h hh).trans (e.trans (started h).2.2)
  · intro hn h
    have hn' : w.flight.map (·.1) = none := by simp [hn]
    refine ⟨((entries u _ b h).2.trans (hb.queue hn' h)).trans (started h).2.1, fun st => ?_⟩
    obtain ⟨u', t', hb', rfl, a', b', c', d'⟩ := key (fun _ => False) (.inl st)
    exact ((entries u' _ b' h).1.trans (hb'.schedule (fun j => ⟨by simp [hn], id⟩) h)).trans (started h).1
  · intro j hj
    refine ⟨by rw [pts u _ a j]; exact hb.standing j hj, fun hn => ?_⟩
    have fin : ∀ near u, Beside (w.flight.map (·.1)) near g x (endTransaction g s) u →
        { takeCompletion g ⟨w, phase, false⟩ o s with segments := u.segments, notify := u.notify } = u →
        (∀ h, { (takeCompletion g ⟨w, phase, false⟩ o s).segment h with scan := (u.segment h).scan } =
          if h = g then { (u.segment h).afterEnd o with transaction := (u.segment h).transaction } else u.segment h) →
        ¬ near j → (takeCompletion g ⟨w, phase, false⟩ o s).point? j = s.point? j ∧
          ∀ h, (takeCompletion g ⟨w, phase, false⟩ o s).entryOf? h j = s.entryOf? h j := by
      intro near u hb a b hn
      refine ⟨by rw [pts u _ a j]; exact hb.point j ⟨hj, hn⟩, fun h => ?_⟩
      have e := hb.entry j ⟨hj, hn⟩ h
      unfold State.entryOf? at *
      rw [(entries u _ b h).1, e, (started h).1]
    rcases hn with hn | hn
    · obtain ⟨u', t', hb', rfl, a', b', c', d'⟩ := key (fun _ => False) (.inl hn)
      exact fin _ u' hb' a' b' id
    · exact fin _ u hb a b fun ⟨pt, hp, hq⟩ => by simp [hn pt hp] at hq
  · intro h y hy
    have e := hb.node h y hy
    unfold State.nodeEntry? at *
    rw [dir]; exact e
  · intro hn
    rw [dir]; exact hb.directory hn

end Sys2Proof.Machine
end

