-- ==== Sys2Proof/Laws/PerInstr.lean ====
section
/-! SUPPORT. Laws/PerInstr.lean: one lemma for each command about the request it stands for: a well-formed request command
stands for a well-formed request, whose body fits a frame of 96 bytes (TABLE 11-1, TABLE 11-3). -/

namespace Sys2Proof.Laws.Frames

open Sys2Proof.Machine

/-- The request a well-formed command stands for, if it stands for one, is well formed and its body fits a frame. -/
def Statement (i : Instr) : Prop :=
  i.wellFormed = true → ∀ p tag r, asRequest i = some (p, tag, r) → r.wellFormed = true ∧ r.body.length ≤ 96

/-- The body of a request other than READ_MANY is short. -/
theorem short_body (r : Request) (h : ∀ count handles, r ≠ .readMany count handles) : r.body.length ≤ 96 := by
  cases r with
  | readMany count handles => exact absurd rfl (h count handles)
  | _ => simp [Request.body, RawHandle.bytes, bytes16, bytes32]

/-- A command that stands for no request. -/
theorem of_event {i : Instr} (h : asRequest i = none) : Statement i := fun _ _ _ _ e => by simp [h] at e

/-- A command that stands for a request other than READ_MANY. -/
theorem of_request {i : Instr} {p : Port} {tag : Byte} {r : Request} (h : asRequest i = some (p, tag, r))
    (hr : ∀ count handles, r ≠ .readMany count handles) : Statement i := by
  intro _ q u s e
  rw [h] at e
  cases e
  exact ⟨by cases r <;> simp_all [Request.wellFormed], short_body r hr⟩

theorem define (p : Port) (tag : Byte) (f : DefineFields) :
    Statement (.define p tag f) :=
  of_request rfl (by simp)

theorem activate (p : Port) (tag : Byte) (h : RawHandle) :
    Statement (.activate p tag h) :=
  of_request rfl (by simp)

theorem hold (p : Port) (tag : Byte) (h : RawHandle) :
    Statement (.hold p tag h) :=
  of_request rfl (by simp)

theorem retire (p : Port) (tag : Byte) (h : RawHandle) :
    Statement (.retire p tag h) :=
  of_request rfl (by simp)

theorem describe (p : Port) (tag : Byte) (h : RawHandle) :
    Statement (.describe p tag h) :=
  of_request rfl (by simp)

theorem read (p : Port) (tag : Byte) (h : RawHandle) :
    Statement (.read p tag h) :=
  of_request rfl (by simp)

/-- A READ_MANY of at most 47 handles fits. -/
theorem readMany_body (handles : List RawHandle) (count : Byte) (h : handles.length ≤ 47) :
    (Request.readMany count handles).body.length ≤ 96 := by
  have e : (handles.flatMap RawHandle.bytes).length = 2 * handles.length := by
    induction handles with
    | nil => rfl
    | cons x l ih => simp [RawHandle.bytes, ih (by simp at h; omega)]; omega
  simp [Request.body, e]; omega

theorem readMany (p : Port) (tag : Byte) (count : Byte) (handles : List RawHandle) : Statement (.readMany p tag count handles) := by
  intro h q u s e
  cases e
  refine ⟨h, ?_⟩
  simp only [Instr.wellFormed, Request.wellFormed, Bool.and_eq_true, beq_iff_eq, decide_eq_true_eq] at h
  exact readMany_body handles count h.2

theorem refresh (p : Port) (tag : Byte) (h : RawHandle) :
    Statement (.refresh p tag h) :=
  of_request rfl (by simp)

theorem setLimits (p : Port) (tag : Byte) (h : RawHandle) (f : LimitsFields) :
    Statement (.setLimits p tag h f) :=
  of_request rfl (by simp)

theorem write (p : Port) (tag : Byte) (h : RawHandle) (value : Value) (deadline : Interval) :
    Statement (.write p tag h value deadline) :=
  of_request rfl (by simp)

theorem cancel (p : Port) (tag : Byte) (h : RawHandle) :
    Statement (.cancel p tag h) :=
  of_request rfl (by simp)

theorem nodeQuery (p : Port) (tag : Byte) (segment address : Byte) :
    Statement (.nodeQuery p tag segment address) :=
  of_request rfl (by simp)

theorem nodeList (p : Port) (tag : Byte) (segment start : Byte) :
    Statement (.nodeList p tag segment start) :=
  of_request rfl (by simp)

theorem enable (p : Port) (tag : Byte) (segment : Byte) (fc fd : Bool) :
    Statement (.enable p tag segment fc fd) :=
  of_request rfl (by simp)

theorem disable (p : Port) (tag : Byte) (segment : Byte) :
    Statement (.disable p tag segment) :=
  of_request rfl (by simp)

theorem segmentRestart (p : Port) (tag : Byte) (segment : Byte) :
    Statement (.segmentRestart p tag segment) :=
  of_request rfl (by simp)

theorem setSpeed (p : Port) (tag : Byte) (segment speed : Byte) :
    Statement (.setSpeed p tag segment speed) :=
  of_request rfl (by simp)

theorem scan (p : Port) (tag : Byte) (segment low high : Byte) :
    Statement (.scan p tag segment low high) :=
  of_request rfl (by simp)

theorem scanResult (p : Port) (tag : Byte) (segment index : Byte) :
    Statement (.scanResult p tag segment index) :=
  of_request rfl (by simp)

theorem subscribe (p : Port) (tag : Byte) (h : RawHandle) (set : Byte) :
    Statement (.subscribe p tag h set) :=
  of_request rfl (by simp)

theorem fetch (p : Port) (tag : Byte) (count : Byte) :
    Statement (.fetch p tag count) :=
  of_request rfl (by simp)

theorem ack (p : Port) (tag : Byte) (seq : SeqNo) :
    Statement (.ack p tag seq) :=
  of_request rfl (by simp)

theorem claim (p : Port) (tag : Byte) (h : RawHandle) (take : Byte) :
    Statement (.claim p tag h take) :=
  of_request rfl (by simp)

theorem release (p : Port) (tag : Byte) (h : RawHandle) :
    Statement (.release p tag h) :=
  of_request rfl (by simp)

theorem status (p : Port) (tag : Byte) :
    Statement (.status p tag) :=
  of_request rfl (by simp)

theorem time (p : Port) (tag : Byte) :
    Statement (.time p tag) :=
  of_request rfl (by simp)

theorem clear (p : Port) (tag : Byte) :
    Statement (.clear p tag) :=
  of_request rfl (by simp)

theorem portSet (p : Port) (tag : Byte) (notifications nodeEvents : Byte) :
    Statement (.portSet p tag notifications nodeEvents) :=
  of_request rfl (by simp)

theorem hostRequestTransaction (bytes : List Byte) : Statement (.hostRequestTransaction bytes) := of_event rfl

theorem hostResponseTransaction (count : Nat) : Statement (.hostResponseTransaction count) := of_event rfl

theorem hostPortResync : Statement .hostPortResync := of_event rfl

theorem consoleByteReceived (byte : Byte) : Statement (.consoleByteReceived byte) := of_event rfl

theorem consoleFramingError : Statement .consoleFramingError := of_event rfl

theorem consoleGapExpiry : Statement .consoleGapExpiry := of_event rfl

theorem consoleResponseSent : Statement .consoleResponseSent := of_event rfl

theorem requestTaken (lines : PerSegment Lines) (arriving : List RequestFrame) :
    Statement (.requestTaken lines arriving) := of_event rfl

theorem arbiterChoose (g : SegId) (lines : Lines) : Statement (.arbiterChoose g lines) := of_event rfl

theorem faFall (g : SegId) : Statement (.faFall g) := of_event rfl

theorem startAfterLineCheck (g : SegId) : Statement (.startAfterLineCheck g) := of_event rfl

theorem lineCheckExpiry (g : SegId) : Statement (.lineCheckExpiry g) := of_event rfl

theorem holdAllowanceExpiry (g : SegId) : Statement (.holdAllowanceExpiry g) := of_event rfl

theorem transactionLimitExpiry (g : SegId) : Statement (.transactionLimitExpiry g) := of_event rfl

theorem pollCompletion (g : SegId) (levels : List Bool) : Statement (.pollCompletion g levels) := of_event rfl

theorem refreshPollCompletion (g : SegId) (levels : List Bool) : Statement (.refreshPollCompletion g levels) := of_event rfl

theorem guardCompletion (g : SegId) (levels : List Bool) : Statement (.guardCompletion g levels) := of_event rfl

theorem writeCompletion (g : SegId) (levels : List Bool) : Statement (.writeCompletion g levels) := of_event rfl

theorem verifyCompletion (g : SegId) (levels : List Bool) : Statement (.verifyCompletion g levels) := of_event rfl

theorem probeCompletion (g : SegId) (levels : List Bool) : Statement (.probeCompletion g levels) := of_event rfl

theorem scanStepCompletion (g : SegId) (levels : List Bool) : Statement (.scanStepCompletion g levels) := of_event rfl

theorem rollCompletion (g : SegId) (levels : List Bool) (fa : Bool) : Statement (.rollCompletion g levels fa) := of_event rfl

theorem recoveryAttemptEnd (g : SegId) (reads : RecoveryReads) : Statement (.recoveryAttemptEnd g reads) := of_event rfl

theorem recoveryRetryExpiry (g : SegId) : Statement (.recoveryRetryExpiry g) := of_event rfl

theorem clearEndTransaction (g : SegId) (between : Bool) (levels : List Bool) : Statement (.clearEndTransaction g between levels) := of_event rfl

theorem pollDueExpiry (g : SegId) : Statement (.pollDueExpiry g) := of_event rfl

theorem staleExpiry (i : SlotNo) : Statement (.staleExpiry i) := of_event rfl

theorem ageCapExpiry (i : SlotNo) : Statement (.ageCapExpiry i) := of_event rfl

theorem dueCapExpiry (i : SlotNo) (which : CapHolder) : Statement (.dueCapExpiry i which) := of_event rfl

theorem deadlineExpiry (i : SlotNo) : Statement (.deadlineExpiry i) := of_event rfl

theorem nextValueDeadlineExpiry (i : SlotNo) : Statement (.nextValueDeadlineExpiry i) := of_event rfl

theorem probeExpiry (g : SegId) (address : Address) : Statement (.probeExpiry g address) := of_event rfl

theorem alertSuppressionExpiry (g : SegId) : Statement (.alertSuppressionExpiry g) := of_event rfl

theorem hardReset (crate1 crate0 : Bool) (edge : ResetEdge) : Statement (.hardReset crate1 crate0 edge) := of_event rfl

end Sys2Proof.Laws.Frames
end

