-- ==== Sys2Proof/Laws/Requests.lean ====
section
/-! SUPPORT. Laws/Requests.lean: what a command does to the roster as a whole. `RecordStep s t` lists the shapes: the roster is
kept but for one freed slot; a point is defined; entries are acknowledged; a port's enables are set; the records are
cleared; hard reset. Every command is one of them (`recordStep_exec`). -/

namespace Sys2Proof.Machine

/-- `Kept` without the ports and the rest of what stands outside the records. -/
structure RosterKept (s t : State) : Prop where
  clock : t.clock = s.clock
  consoleRate : t.consoleRate = s.consoleRate
  pending : t.pending = s.pending
  generation : ∀ i, t.generation i = s.generation i
  ident : ∀ i, t.ident i = s.ident i
  count : t.directory.map NodeEntry.count = s.directory.map NodeEntry.count
  notify : ∀ p, (s.notifyOf p).extends (t.notifyOf p)
  marked : ∀ p i, t.marked p i = true → s.marked p i = true ∨ queueCapacity ≤ (t.notifyOf p).queue.length
  systemMark : ∀ p, (t.notifyOf p).systemMark = true →
    (s.notifyOf p).systemMark = true ∨ queueCapacity ≤ (t.notifyOf p).queue.length

theorem Kept.roster {s t : State} (h : Kept s t) : RosterKept s t :=
  ⟨h.clock, h.consoleRate, h.pending, h.generation, h.ident, h.count, h.notify, h.marked, h.systemMark⟩

theorem RosterKept.refl (s : State) : RosterKept s s := (Kept.refl s).roster

theorem RosterKept.trans {s t u : State} (h : RosterKept s t) (k : RosterKept t u) : RosterKept s u where
  clock := k.clock.trans h.clock
  consoleRate := k.consoleRate.trans h.consoleRate
  pending := k.pending.trans h.pending
  generation i := (k.generation i).trans (h.generation i)
  ident i := (k.ident i).trans (h.ident i)
  count := k.count.trans h.count
  notify p := Notify.extends_trans (h.notify p) (k.notify p)
  marked p i hm := by
    rcases k.marked p i hm with h1 | h1
    · rcases h.marked p i h1 with h2 | h2
      · exact .inl h2
      · exact .inr (h2.trans (Notify.extends_length (k.notify p)))
    · exact .inr h1
  systemMark p hm := by
    rcases k.systemMark p hm with h1 | h1
    · rcases h.systemMark p h1 with h2 | h2
      · exact .inl h2
      · exact .inr (h2.trans (Notify.extends_length (k.notify p)))
    · exact .inr h1

/-- A state whose records, clock, console rate and queue are those of `s`. -/
theorem RosterKept.of_eq {s t : State} (h1 : t.clock = s.clock) (h2 : t.consoleRate = s.consoleRate)
    (h3 : t.pending = s.pending) (h4 : t.slots = s.slots) (h5 : t.directory = s.directory) (h6 : t.notify = s.notify) :
    RosterKept s t where
  clock := h1
  consoleRate := h2
  pending := h3
  generation i := by simp [State.generation, h4]
  ident i := by simp [State.ident, State.point?, h4]
  count := by rw [h5]
  notify p := by simpa [State.notifyOf, h6] using Notify.extends_refl _
  marked p i h := .inl (by simpa [State.marked, State.point?, h4] using h)
  systemMark p h := .inl (by simpa [State.notifyOf, h6] using h)

/-- The shapes of what a command other than HARD_RESET does to the roster. -/
inductive RecordStep (s t : State) : Prop where
  | kept (h : RosterKept s t)
  | freed (i : SlotNo) (u : State) (h : RosterKept s u) (hp : (u.point? i).isSome = true)
      (k : RosterKept (freeSlot i u) t)
  | defined (p : Port) (d : Definition) (i : SlotNo) (u : State) (h : RosterKept s u) (hf : ∃ f, checkDefine f = some d)
      (hr : defineResources d u = .ok i) (k : RosterKept (definePoint p d i u) t)
  | acknowledged (p : Port) (seq : SeqNo) (rest : List Entry) (u : State) (h : RosterKept s u)
      (hs : afterSeq seq (u.notifyOf p).queue = some rest) (k : RosterKept (acknowledge p rest u) t)
  | enables (p : Port) (a b : Action) (u : State) (h : RosterKept s u)
      (k : RosterKept (setNodeEvents p b (setNotifications p a u)) t)
  | cleared (u : State) (h : RosterKept s u) (k : RosterKept (clearRecords u) t)

theorem RecordStep.of_kept {s t : State} (h : Kept s t) : RecordStep s t := .kept h.roster

theorem RecordStep.of_effect {s t : State} (h : Effect s t) : RecordStep s t := by
  rcases h with h | ⟨i, u, h1, h2, h3⟩
  · exact .kept h.roster
  · exact .freed i u h1.roster h2 h3.roster

theorem RecordStep.between {r s t u : State} (h : RosterKept r s) (k : RecordStep s t) (l : RosterKept t u) :
    RecordStep r u := by
  cases k with
  | kept k => exact .kept ((h.trans k).trans l)
  | freed i v k1 k2 k3 => exact .freed i v (h.trans k1) k2 (k3.trans l)
  | defined p d i v k1 k2 k3 k4 => exact .defined p d i v (h.trans k1) k2 k3 (k4.trans l)
  | acknowledged p q x v k1 k2 k3 => exact .acknowledged p q x v (h.trans k1) k2 (k3.trans l)
  | enables p a b v k1 k2 => exact .enables p a b v (h.trans k1) (k2.trans l)
  | cleared v k1 k2 => exact .cleared v (h.trans k1) (k2.trans l)

/-! ### Handles -/

theorem resolve_ok {h : RawHandle} {s : State} {i : SlotNo} {pt : Point} (e : resolve h s = .ok (i, pt)) :
    s.point? i = some pt ∧ i = h.slot.toFin ∧ h.generation = (s.generation i).zeroExtend 8 := by
  unfold resolve at e
  dsimp only at e
  split at e
  · cases e
  · rename_i q hq
    split at e
    · rename_i hg
      cases e
      exact ⟨hq, rfl, by simpa using hg⟩
    · cases e

/-- A request that carries one handle is refused, or is carried on with a point that is there. -/
theorem withPoint_cases {P : Carry → Prop} {h : RawHandle} {s : State} {k : SlotNo → Point → Carry}
    (hr : ∀ x, P (refuse x s)) (hk : ∀ i pt, s.point? i = some pt → P (k i pt)) : P (withPoint h s k) := by
  unfold withPoint
  split
  · exact hr _
  · rename_i i pt e
    exact hk i pt (resolve_ok e).1

/-- The records after a request that frees at most one slot. -/
abbrev CarryEffect (s : State) (c : Carry) : Prop := Effect s c.1

theorem effect_refuse (x : Status) (s : State) : CarryEffect s (refuse x s) := .of_kept (Kept.refl s)

theorem effect_answer {s t : State} (b : List Byte) (h : Effect s t) : CarryEffect s (answer b t) := h

theorem effect_answerAccepted {s t : State} (b : List Byte) (h : Effect s t) : CarryEffect s (answerAccepted b t) := h

theorem CarryEffect.ite {p : Prop} [Decidable p] {s : State} {c d : Carry} (h : CarryEffect s c)
    (k : CarryEffect s d) : CarryEffect s (if p then c else d) := by split <;> assumption

/-! ### The requests of Section 1 -/

theorem kept_activatePoint (i : SlotNo) (pt : Point) (s : State) (h : s.point? i = some pt) :
    Kept s (activatePoint i pt s) := by
  unfold activatePoint queuePending
  dsimp only
  have h1 : Kept s (reenter i (s.setPoint i (pt.activated s.clock)).dueNow (s.setPoint i (pt.activated s.clock))) :=
    (kept_reenter _ _ _).after (kept_setPoint s i pt _ h rfl rfl)
  split
  · exact ((kept_queueTail _ _ _).after (kept_setStand _ _ _)).after h1
  · exact h1

theorem effect_carryActivate (p : Port) (h : RawHandle) (s : State) : CarryEffect s (carryActivate p h s) := by
  unfold carryActivate
  refine withPoint_cases (fun _ => effect_refuse _ _) fun i pt hp => ?_
  refine CarryEffect.ite (effect_refuse _ _) (CarryEffect.ite (effect_refuse _ _) (CarryEffect.ite ?_ ?_))
  · exact effect_answer _ (.of_kept (Kept.refl s))
  · exact effect_answer _ (.of_kept (kept_activatePoint i pt s hp))

theorem kept_holdCommand (i : SlotNo) (pt : Point) (s : State) : Kept s (holdCommand i pt s) := by
  unfold holdCommand
  split
  · exact (kept_setStand _ _ _).after (kept_leaveQueue _ _ _)
  · exact Kept.iteId (kept_notAnAttempt _ _)
  · exact Kept.refl s

theorem effect_carryHold (p : Port) (h : RawHandle) (s : State) : CarryEffect s (carryHold p h s) := by
  unfold carryHold
  refine withPoint_cases (fun _ => effect_refuse _ _) fun i pt hp => ?_
  refine CarryEffect.ite (effect_refuse _ _) (CarryEffect.ite (effect_refuse _ _) (CarryEffect.ite ?_ ?_))
  · refine effect_answer _ (.of_kept ?_)
    exact ((kept_holdCommand _ _ _).after (kept_leaveSchedule _ _ _)).after (kept_setPoint s i pt _ hp rfl rfl)
  · exact effect_answer _ (.of_kept (Kept.refl s))

theorem Point.retiringNow_identity (pt : Point) (p : Port) : (pt.retiringNow p).identity = pt.identity := by
  cases h : pt.command <;> simp [Point.retiringNow, Point.identity, Point.isOutput, h, Command.withdrawn]

theorem effect_carryRetire (p : Port) (h : RawHandle) (s : State) : CarryEffect s (carryRetire p h s) := by
  unfold carryRetire
  refine withPoint_cases (fun _ => effect_refuse _ _) fun i pt hp => ?_
  refine CarryEffect.ite (effect_refuse _ _) (CarryEffect.ite (effect_refuse _ _) (CarryEffect.ite ?_ ?_))
  · refine effect_answer _ (.inr ⟨i, withdrawNotes i s, kept_withdrawNotes _ _, ?_, Kept.refl _⟩)
    have := (kept_withdrawNotes i s).ident i
    unfold State.ident at this
    rw [hp] at this
    cases hq : (withdrawNotes i s).point? i with
    | none => simp [hq] at this
    | some q => rfl
  · refine effect_answer _ (.of_kept ?_)
    exact ((kept_modPoint _ _ _ (fun q => Point.retiringNow_identity q p) (by intro _; rfl)).after
      (kept_leaveQueue _ _ _)).after (kept_withdrawNotes _ _)

/-! ### The requests of Sections 2, 3 and 4 -/

theorem kept_refreshPoint (p : Port) (i : SlotNo) (pt : Point) (s : State) : Kept s (refreshPoint p i pt s) := by
  unfold refreshPoint
  dsimp only
  have h1 : Kept s (s.modPoint i (·.setFresh p true)) := kept_modPoint _ _ _ (by intro _; rfl) (by intro _; rfl)
  refine Kept.ite h1 ?_
  split
  · refine Kept.after ?_ h1
    unfold refreshEntry
    split
    · exact (kept_moveToNow _ _ _).after (kept_modPoint _ _ _ (by intro _; rfl) (by intro _; rfl))
    · exact Kept.ite (Kept.refl _) (kept_moveToNow _ _ _)
  · exact (kept_answerFresh _ _ _ _).after h1

theorem effect_carryRefresh (p : Port) (h : RawHandle) (s : State) : CarryEffect s (carryRefresh p h s) := by
  unfold carryRefresh
  refine withPoint_cases (fun _ => effect_refuse _ _) fun i pt _ => ?_
  refine CarryEffect.ite (effect_refuse _ _) (CarryEffect.ite (effect_refuse _ _) ?_)
  exact effect_answerAccepted _ (.of_kept (kept_refreshPoint _ _ _ _))

theorem kept_applyLimits (i : SlotNo) (a : Action) (l : Limits) (s : State) : Kept s (applyLimits i a l s) := by
  unfold applyLimits
  split
  · exact Kept.refl s
  · exact Kept.refl s
  · rename_i pt _ hp
    dsimp only
    exact Kept.ite (kept_setPoint s i pt _ hp (by rfl) (by rfl))
      ((kept_offerSubscribers _ _ _ _).after (kept_setPoint s i pt _ hp (by rfl) (by rfl)))

theorem kept_applyDeadband (i : SlotNo) (a : Action) (d : Value) (s : State) : Kept s (applyDeadband i a d s) := by
  cases a
  · exact Kept.refl s
  · exact kept_modPoint _ _ _ (by intro _; rfl) (by intro _; rfl)
  · exact kept_modPoint _ _ _ (by intro _; rfl) (by intro _; rfl)

theorem effect_carrySetLimits (p : Port) (h : RawHandle) (f : LimitsFields) (s : State) :
    CarryEffect s (carrySetLimits p h f s) := by
  unfold carrySetLimits
  refine withPoint_cases (fun _ => effect_refuse _ _) fun i pt _ => ?_
  refine CarryEffect.ite (effect_refuse _ _) (CarryEffect.ite (effect_refuse _ _)
    (CarryEffect.ite (effect_refuse _ _) ?_))
  split
  · exact effect_refuse _ _
  · exact effect_answer _ (.of_kept ((kept_applyDeadband _ _ _ _).after (kept_applyLimits _ _ _ _)))

theorem effect_writeFresh (i : SlotNo) (pt : Point) (v : Issued) (d : Option Time) (s : State) :
    CarryEffect s (writeFresh i pt v d s) := by
  unfold writeFresh
  dsimp only
  refine CarryEffect.ite ?_ ?_
  · exact effect_answer _ (.of_kept (((kept_queueTail _ _ _).after (kept_setStand _ _ _)).after
      (kept_modCommand _ _ (by intro _; rfl) _)))
  · exact effect_answer _ (.of_kept ((kept_setStand _ _ _).after (kept_modCommand _ _ (by intro _; rfl) _)))

theorem kept_supersedeNext (i : SlotNo) (next : Option NextValue) (s : State) : Kept s (supersedeNext i next s) := by
  unfold supersedeNext
  split
  · exact Kept.refl s
  · exact kept_closeCommand _ _ _ _

theorem effect_writePoint (i : SlotNo) (pt : Point) (v : Issued) (d : Option Time) (s : State) :
    CarryEffect s (writePoint i pt v d s) := by
  unfold writePoint
  split
  · exact effect_answer _ (.of_kept (((kept_setStand _ _ _).after (kept_modCommand _ _ (by intro _; rfl) _)).after
      (kept_closeCommand _ _ _ _)))
  · exact effect_answer _ (.of_kept (((kept_setStand _ _ _).after (kept_modCommand _ _ (by intro _; rfl) _)).after
      (kept_closeCommand _ _ _ _)))
  · exact effect_answer _ (.of_kept ((kept_setStand _ _ _).after (kept_supersedeNext _ _ _)))
  · exact effect_answer _ (.of_kept ((kept_setStand _ _ _).after (kept_supersedeNext _ _ _)))
  all_goals exact effect_writeFresh _ _ _ _ _

theorem effect_carryWrite (p : Port) (h : RawHandle) (v : Value) (d : Interval) (s : State) :
    CarryEffect s (carryWrite p h v d s) := by
  unfold carryWrite
  refine withPoint_cases (fun _ => effect_refuse _ _) fun i pt _ => ?_
  refine CarryEffect.ite (effect_refuse _ _) (CarryEffect.ite (effect_refuse _ _)
    (CarryEffect.ite (effect_refuse _ _) (CarryEffect.ite (effect_refuse _ _) ?_)))
  exact effect_writePoint _ _ _ _ _

theorem effect_carryCancel (p : Port) (h : RawHandle) (s : State) : CarryEffect s (carryCancel p h s) := by
  unfold carryCancel
  refine withPoint_cases (fun _ => effect_refuse _ _) fun i pt _ => ?_
  refine CarryEffect.ite (effect_refuse _ _) (CarryEffect.ite (effect_refuse _ _)
    (CarryEffect.ite (effect_refuse _ _) ?_))
  unfold cancelPoint
  split
  · exact effect_answer _ (.of_kept ((kept_modCommand _ _ (by intro _; rfl) _).after (kept_closeCommand _ _ _ _)))
  · exact effect_answer _ (.of_kept (((kept_modCommand _ _ (by intro _; rfl) _).after (kept_leaveQueue _ _ _)).after
      (kept_closeCommand _ _ _ _)))
  · exact effect_answer _ (.of_kept ((kept_setStand _ _ _).after (kept_closeCommand _ _ _ _)))
  · exact effect_answer _ (.of_kept ((kept_setStand _ _ _).after (kept_closeCommand _ _ _ _)))
  · exact effect_refuse _ _

/-! ### The requests of Section 7 -/

theorem effect_disableSegment (g : SegId) (s : State) : Effect s (disableSegment g s) :=
  (effect_abandon g s).trans_kept ((kept_abortScan _ _).after (kept_modSegment _ _ _))

theorem effect_restartSegment (g : SegId) (s : State) : Effect s (restartSegment g s) :=
  (effect_abandon g s).trans_kept (kept_beginRecovery _ _ _)

theorem kept_enableSegment (g : SegId) (s : State) : Kept s (enableSegment g s) :=
  Kept.ite (kept_modSegment _ _ _) (kept_beginRecovery _ _ _)

theorem effect_carrySegmentControl (a b c : Byte) (s : State) : CarryEffect s (carrySegmentControl a b c s) := by
  have r : CarryEffect s (answer (segmentBody .a s) s) := effect_answer _ (.of_kept (Kept.refl s))
  unfold carrySegmentControl
  split
  · unfold carryEnable
    split
    · exact effect_answer _ (.of_kept (kept_enableSegment _ _))
    all_goals exact effect_answer _ (.of_kept (Kept.refl s))
  · unfold carryDisable
    split
    · exact effect_answer _ (.of_kept (Kept.refl s))
    all_goals exact effect_answer _ (effect_disableSegment _ _)
  · unfold carryRestart
    split
    · exact effect_refuse _ _
    · exact effect_answerAccepted _ (effect_restartSegment _ _)
    · exact effect_refuse _ _
    · exact effect_answerAccepted _ (effect_restartSegment _ _)
  · split
    · unfold carrySetSpeed
      split
      · exact effect_answer _ (.of_kept (kept_modSegment _ _ _))
      all_goals exact effect_refuse _ _
    · exact effect_refuse _ _
  · exact effect_refuse _ _

theorem effect_carryScan (p : Port) (a b c : Byte) (s : State) : CarryEffect s (carryScan p a b c s) := by
  unfold carryScan
  split
  · refine CarryEffect.ite (effect_refuse _ _) ?_
    unfold carryScanRange
    refine CarryEffect.ite (effect_refuse _ _) (CarryEffect.ite (effect_refuse _ _) ?_)
    exact effect_answerAccepted _ (.of_kept (kept_modSegment _ _ _))
  · exact effect_refuse _ _

/-! ### The requests of Sections 8 and 9 -/

theorem effect_carrySubscribe (p : Port) (h : RawHandle) (b : Byte) (s : State) :
    CarryEffect s (carrySubscribe p h b s) := by
  unfold carrySubscribe
  refine withPoint_cases (fun _ => effect_refuse _ _) fun i pt hp => ?_
  refine CarryEffect.ite (effect_refuse _ _) ?_
  split
  · exact effect_refuse _ _
  · exact effect_answer _ (.of_kept (kept_setPoint s i pt _ hp rfl rfl))

theorem effect_carryClaim (p : Port) (h : RawHandle) (b : Byte) (s : State) : CarryEffect s (carryClaim p h b s) := by
  unfold carryClaim
  refine withPoint_cases (fun _ => effect_refuse _ _) fun i pt hp => ?_
  refine CarryEffect.ite (effect_refuse _ _) ?_
  unfold carryClaimPoint
  have hc : ∀ q, CarryEffect s (claimPoint q i pt s) := fun q =>
    effect_answer _ (.of_kept (kept_setPoint s i pt _ hp rfl rfl))
  refine CarryEffect.ite ?_ (CarryEffect.ite (effect_refuse _ _) (CarryEffect.ite (hc p) (effect_refuse _ _)))
  cases p
  · refine CarryEffect.ite ?_ (hc _)
    exact effect_answer _ (.of_kept ((kept_offerPoint _ _ _ _).after (kept_setPoint s i pt _ hp rfl rfl)))
  · exact effect_refuse _ _

theorem effect_carryRelease (p : Port) (h : RawHandle) (s : State) : CarryEffect s (carryRelease p h s) := by
  unfold carryRelease
  refine withPoint_cases (fun _ => effect_refuse _ _) fun i pt hp => ?_
  refine CarryEffect.ite (effect_refuse _ _) (CarryEffect.ite ?_ (effect_refuse _ _))
  exact effect_answer _ (.of_kept (kept_setPoint s i pt _ hp rfl rfl))

/-! ### A request carried out, answered, and taken -/

/-- What DEFINE fixes by fields that pass its checks keeps the relations of R5 and R12. -/
theorem checkDefine_fieldsOk (p : Port) {f : DefineFields} {d : Definition} (h : checkDefine f = some d) :
    (Point.new p d).identity.fieldsOk := by
  unfold checkDefine at h
  split at h
  · rename_i isOutput g y w hk hg ha hw
    split at h
    · cases h
    · split at h
      · rename_i hc
        cases h
        simp only [Bool.and_eq_true] at hc
        obtain ⟨⟨_, hp⟩, ho⟩ := hc
        have hy : 0x10 ≤ y.toNat ∧ y.toNat ≤ 0x6F := by
          unfold addressOf at ha
          split at ha
          · rename_i hr
            cases ha
            simp only [nodeAddressInRange, Bool.and_eq_true, decide_eq_true_eq] at hr
            simp only [BitVec.truncate_eq_setWidth, BitVec.toNat_setWidth]
            omega
          · cases ha
        cases isOutput <;>
          simp only [periodsFit, optionsFit, between, Bool.false_eq_true, if_false, if_true, Bool.and_eq_true,
            Bool.or_eq_true, decide_eq_true_eq, beq_iff_eq, Bool.not_eq_true', bne_iff_ne, Bool.not_true, Bool.not_false] at hp ho
        · obtain ⟨⟨h1, h2⟩, h3⟩ := hp
          have n1 : f.period ≠ 0 := by rintro e; simp [e] at h1
          have n2 : f.staleLimit ≠ 0 := by rintro e; simp [e] at h3
          refine ⟨hy.1, hy.2, ?_⟩
          simp [Point.new, Point.identity, Point.isOutput, optInterval, h1, h2, h3]
          exact ⟨⟨n1, n2⟩, fun _ => n1⟩
        · refine ⟨hy.1, hy.2, ?_⟩
          by_cases n1 : f.period = 0
          · simp [n1] at ho
            simp [Point.new, Point.identity, Point.isOutput, optInterval, n1, hp.2, Command.new, ho]
          · have := hp.1.resolve_left n1
            simp [Point.new, Point.identity, Point.isOutput, optInterval, hp.2, Command.new, this]
            exact ⟨fun _ => n1, fun _ => n1⟩
      · cases h
  · cases h

theorem recordStep_carryOut (p : Port) (r : Request) (s : State) : RecordStep s (carryOut p r s).1 := by
  have k0 : ∀ {t}, t = s → RecordStep s t := by rintro t rfl; exact .of_kept (Kept.refl _)
  have kp : ∀ (h : RawHandle) (b : SlotNo → Point → List Byte), RecordStep s (withPoint h s fun i pt => answer (b i pt) s).1 := by
    intro h b
    exact withPoint_cases (P := fun c => RecordStep s c.1) (fun _ => k0 rfl) (fun _ _ _ => k0 rfl)
  cases r with
  | define f =>
    simp only [carryOut, carryDefine]
    split
    · exact k0 rfl
    · rename_i d hd
      split
      · exact k0 rfl
      · rename_i i hi
        exact .defined p d i s (RosterKept.refl s) ⟨f, hd⟩ hi (RosterKept.refl _)
  | activate h => exact .of_effect (effect_carryActivate p h s)
  | hold h => exact .of_effect (effect_carryHold p h s)
  | retire h => exact .of_effect (effect_carryRetire p h s)
  | describe h => exact kp _ _
  | read h => exact kp _ _
  | readMany count handles =>
    simp only [carryOut, carryReadMany]
    split
    · exact k0 rfl
    · split <;> exact k0 rfl
  | refresh h => exact .of_effect (effect_carryRefresh p h s)
  | setLimits h f => exact .of_effect (effect_carrySetLimits p h f s)
  | write h v d => exact .of_effect (effect_carryWrite p h v d s)
  | cancel h => exact .of_effect (effect_carryCancel p h s)
  | nodeQuery a b =>
    simp only [carryOut, carryNodeQuery]
    split
    · split <;> exact k0 rfl
    · exact k0 rfl
  | nodeList a b =>
    simp only [carryOut, carryNodeList]
    split <;> exact k0 rfl
  | segmentControl a b c => exact .of_effect (effect_carrySegmentControl a b c s)
  | scan a b c => exact .of_effect (effect_carryScan p a b c s)
  | scanResult a b =>
    simp only [carryOut, carryScanResult]
    split
    · exact k0 rfl
    · split <;> exact k0 rfl
  | subscribe h b => exact .of_effect (effect_carrySubscribe p h b s)
  | fetch b =>
    simp only [carryOut, carryFetch]
    split <;> exact k0 rfl
  | ack q =>
    simp only [carryOut, carryAck, answer]
    split
    · exact k0 rfl
    · rename_i rest h
      dsimp only
      exact .acknowledged p q rest s (RosterKept.refl s) h (RosterKept.refl _)
  | claim h b => exact .of_effect (effect_carryClaim p h b s)
  | release h => exact .of_effect (effect_carryRelease p h s)
  | status => exact k0 rfl
  | time => exact k0 rfl
  | clear =>
    cases p
    · exact .cleared s (RosterKept.refl s) (RosterKept.refl _)
    · exact k0 rfl
  | portSet a b =>
    simp only [carryOut, carryPortSet]
    split
    · rename_i x y _ _
      exact .enables p x y s (RosterKept.refl s) (RosterKept.refl _)
    · exact k0 rfl

theorem rosterKept_placeResponse (p : Port) (tag : Byte) (c : Carry) : RosterKept c.1 (placeResponse p tag c) :=
  .of_eq rfl rfl rfl rfl rfl rfl

theorem recordStep_judge (p : Port) (f : RequestFrame) (s : State) : RecordStep s (judge p f s).1 := by
  have k0 : RecordStep s s := .of_kept (Kept.refl s)
  unfold judge
  split
  · split
    · exact k0
    · exact k0
    · exact recordStep_carryOut _ _ _
  · exact k0

theorem recordStep_answerRequest (p : Port) (tag : Byte) (r : Request) (s : State) :
    RecordStep s (answerRequest p tag r s) :=
  .between (.of_eq (t := s.served p) rfl rfl rfl rfl rfl rfl) (recordStep_carryOut p r _)
    (rosterKept_placeResponse _ _ _)

theorem rosterKept_setPort (s : State) (p : Port) (x : PortSlots) : RosterKept s (s.setPort p x) :=
  .of_eq rfl rfl rfl rfl rfl rfl

theorem rosterKept_setLines (s : State) (g : SegId) (l : Lines) : RosterKept s (s.setLines g l) :=
  (kept_setLines s g l).roster

theorem rosterKept_receiveFrame (p : Port) (f : RequestFrame) (s : State) : RosterKept s (receiveFrame p f s) := by
  unfold receiveFrame
  split <;> exact rosterKept_setPort _ _ _

theorem rosterKept_arrive (p : Port) (s : State) (f : RequestFrame) : RosterKept s (arrive p s f) := by
  unfold arrive
  split
  · exact rosterKept_setPort _ _ _
  · exact rosterKept_receiveFrame _ _ _

theorem rosterKept_arrivals (p : Port) (l : List RequestFrame) (s : State) : RosterKept s (l.foldl (arrive p) s) := by
  induction l generalizing s with
  | nil => exact RosterKept.refl s
  | cons f rest ih => exact (rosterKept_arrive p s f).trans (ih _)

/-- A frame that arrives at a port with a full slot only sets the dropped flag. -/
theorem arrive_busy (p : Port) (s : State) (f : RequestFrame) (h : s.slotsBusy p = true) : arrive p s f = s.setDropped p := by
  simp [arrive, receiveFrame, h]

/-- Frames that arrive at a port with a full slot set its dropped flag, if there is one at all. -/
theorem arrivals_busy (p : Port) (l : List RequestFrame) (s : State) (h : s.slotsBusy p = true) :
    l.foldl (arrive p) s = if l = [] then s else s.setDropped p := by
  induction l generalizing s with
  | nil => rfl
  | cons f rest ih =>
    have e : (s.setDropped p).setDropped p = s.setDropped p := by
      cases p <;> rfl
    have b : (s.setDropped p).slotsBusy p = true := by
      cases p <;> simpa [State.slotsBusy, State.setDropped] using h
    rw [List.foldl_cons, arrive_busy p s f h, ih _ b, e]
    split <;> simp

/-- Of the frames that arrive at a port with empty slots the first one is stored and the others are dropped (R177). -/
theorem arrivals_empty (p : Port) (f : RequestFrame) (rest : List RequestFrame) (s : State) (h : s.slotsBusy p = false)
    (hf : f.body.length ≤ bodyLimit) :
    (f :: rest).foldl (arrive p) s = if rest = [] then s.storeRequest p f else (s.storeRequest p f).setDropped p := by
  have a : arrive p s f = s.storeRequest p f := by
    simp [arrive, receiveFrame, h, Nat.not_lt.2 hf]
  have b : (s.storeRequest p f).slotsBusy p = true := by
    cases p <;> simp [State.slotsBusy, State.storeRequest]
  rw [List.foldl_cons, a, arrivals_busy p rest _ b]
theorem recordStep_answerFrame (p : Port) (f : RequestFrame) (l : List RequestFrame) (s : State) :
    RecordStep s (answerFrame p f l s) :=
  .between (.of_eq (t := s.served p) rfl rfl rfl rfl rfl rfl) (recordStep_judge p f _)
    ((rosterKept_arrivals p l _).trans
      (rosterKept_placeResponse p f.tag (l.foldl (arrive p) (judge p f (s.served p)).1, (judge p f (s.served p)).2)))

theorem recordStep_takeFrom (p : Port) (l : List RequestFrame) (s : State) : RecordStep s (takeFrom p l s) := by
  unfold takeFrom
  split
  · exact .of_kept (Kept.refl s)
  · exact .between (rosterKept_setPort _ _ _) (recordStep_answerFrame _ _ _ _) (RosterKept.refl _)

theorem recordStep_submit (p : Port) (tag : Byte) (r : Request) (look : State → State)
    (hl : ∀ s, RosterKept s (look s)) (s : State) : RecordStep s (submit p tag r look s) := by
  unfold submit
  split
  · exact .of_kept (Kept.refl s)
  · split
    · exact .kept (rosterKept_setPort _ _ _)
    · split
      · exact .between (hl s) (recordStep_answerRequest _ _ _ _) (RosterKept.refl _)
      · exact .kept (rosterKept_setPort _ _ _)

theorem rosterKept_lookAt (b : Byte) (fc fd : Bool) (s : State) : RosterKept s (lookAt b fc fd s) := by
  unfold lookAt
  split
  · exact RosterKept.refl s
  · exact rosterKept_setLines _ _ _

/-! ### Every command -/

/-- No command but HARD_RESET does anything to the roster that is not one of the shapes of `RecordStep`. -/
theorem recordStep_exec (c : Instr) (s t : State) (h : exec c s = .next t) (hc : ∀ x y e, c ≠ .hardReset x y e) :
    RecordStep s t := by
  have k0 : RecordStep s s := .of_kept (Kept.refl s)
  have sub : ∀ p tag r look, (∀ s, RosterKept s (look s)) → RecordStep s (submit p tag r look s) := fun p tag r look hl =>
    recordStep_submit p tag r look hl s
  have sid : ∀ p tag r, RecordStep s (submit p tag r id s) := fun p tag r => sub p tag r id fun s => RosterKept.refl s
  have port : ∀ {u : State}, u.clock = s.clock → u.consoleRate = s.consoleRate → u.pending = s.pending →
      u.slots = s.slots → u.directory = s.directory → u.notify = s.notify → RecordStep s u :=
    fun h1 h2 h3 h4 h5 h6 => .kept (.of_eq h1 h2 h3 h4 h5 h6)
  have rf : ∀ {u : State} p f, RosterKept s u → RecordStep s (receiveFrame p f u) := fun p f hu =>
    .kept (hu.trans (rosterKept_receiveFrame p f _))
  cases c with
  | hardReset x y e => exact absurd rfl (hc x y e)
  | enable p tag b fc fd => cases h; exact sub _ _ _ _ (rosterKept_lookAt b fc fd)
  | define _ _ _ | activate _ _ _ | hold _ _ _ | retire _ _ _ | describe _ _ _ | read _ _ _ | readMany _ _ _ _
  | refresh _ _ _ | setLimits _ _ _ _ | write _ _ _ _ _ | cancel _ _ _ | nodeQuery _ _ _ _ | nodeList _ _ _ _
  | disable _ _ _ | segmentRestart _ _ _ | setSpeed _ _ _ _ | scan _ _ _ _ _ | scanResult _ _ _ _
  | subscribe _ _ _ _ | fetch _ _ _ | ack _ _ _ | claim _ _ _ _ | release _ _ _ | status _ _ | time _ _ | clear _ _
  | portSet _ _ _ _ => cases h; exact sid _ _ _
  | hostRequestTransaction bytes =>
    simp only [exec, execHostRequestTransaction] at h
    split at h
    · cases h; exact k0
    split at h <;> cases h
    · exact port rfl rfl rfl rfl rfl rfl
    · unfold hostTransaction
      split
      · exact port rfl rfl rfl rfl rfl rfl
      · split
        · unfold requestTransaction
          dsimp only
          split
          · exact port rfl rfl rfl rfl rfl rfl
          · exact port rfl rfl rfl rfl rfl rfl
          · exact rf _ _ (.of_eq rfl rfl rfl rfl rfl rfl)
        · split <;> exact port rfl rfl rfl rfl rfl rfl
  | hostResponseTransaction n =>
    simp only [exec, execHostResponseTransaction] at h
    split at h
    · cases h; exact k0
    split at h <;> cases h <;> exact port rfl rfl rfl rfl rfl rfl
  | hostPortResync => cases h; exact port rfl rfl rfl rfl rfl rfl
  | consoleByteReceived b =>
    simp only [exec, execConsoleByteReceived] at h
    split at h
    · split at h
      · cases h; exact k0
      split at h <;> cases h
      · exact port rfl rfl rfl rfl rfl rfl
      · exact k0
    · cases h
      unfold headerByte
      split
      · unfold lengthByte
        split
        · exact port rfl rfl rfl rfl rfl rfl
        · split <;> exact port rfl rfl rfl rfl rfl rfl
      · exact port rfl rfl rfl rfl rfl rfl
    · cases h
      unfold bodyByte
      split <;> exact port rfl rfl rfl rfl rfl rfl
    · cases h
      unfold crcByte
      split
      · exact port rfl rfl rfl rfl rfl rfl
      · exact .between (RosterKept.refl s) (rf _ _ (RosterKept.refl s)) (.of_eq rfl rfl rfl rfl rfl rfl)
    · cases h; exact port rfl rfl rfl rfl rfl rfl
  | consoleFramingError =>
    simp only [exec, execConsoleFramingError] at h
    split at h <;> cases h
    · exact k0
    all_goals exact port rfl rfl rfl rfl rfl rfl
  | consoleGapExpiry =>
    simp only [exec, execConsoleGapExpiry] at h
    split at h <;> cases h
    · exact port rfl rfl rfl rfl rfl rfl
    · exact k0
  | consoleResponseSent =>
    simp only [exec, execConsoleResponseSent] at h
    split at h <;> cases h
    · exact k0
    · exact port rfl rfl rfl rfl rfl rfl
  | requestTaken ls l =>
    simp only [exec, execRequestTaken] at h
    split at h <;> cases h
    · exact k0
    · exact .between ((rosterKept_setLines _ _ _).trans (rosterKept_setLines _ _ _)) (recordStep_takeFrom _ _ _)
        (RosterKept.refl _)
  | arbiterChoose g l =>
    cases h
    exact .kept ((rosterKept_setLines _ _ _).trans (kept_chooseWork _ _).roster)
  | faFall g => cases h; exact .kept (rosterKept_setLines _ _ _)
  | startAfterLineCheck g =>
    simp only [exec, execStartAfterLineCheck] at h
    split at h <;> cases h
    · exact .of_kept (kept_modSegment _ _ _)
    · exact k0
  | lineCheckExpiry g =>
    simp only [exec, execLineCheckExpiry] at h
    split at h <;> cases h
    · exact .of_effect (effect_endWith _ _ _)
    · exact k0
  | holdAllowanceExpiry g =>
    simp only [exec, execHoldAllowanceExpiry] at h
    split at h <;> cases h
    · exact .of_effect (effect_endWith _ _ _)
    · exact k0
  | transactionLimitExpiry g =>
    simp only [exec, execTransactionLimitExpiry] at h
    split at h <;> cases h
    · exact .of_effect (effect_endWith _ _ _)
    · exact k0
  | pollCompletion g l | refreshPollCompletion g l | guardCompletion g l | writeCompletion g l
  | verifyCompletion g l | probeCompletion g l | scanStepCompletion g l =>
    cases h; exact .of_effect (effect_completeWith _ _ _ _)
  | rollCompletion g l fa =>
    simp only [exec, execRollCompletion] at h
    split at h <;> cases h
    · exact .of_effect ((kept_setLines _ _ _).trans_effect (effect_driveOn _ _ _ _))
    · exact k0
  | recoveryAttemptEnd g r =>
    simp only [exec, execRecoveryAttemptEnd] at h
    split at h <;> cases h
    · exact .of_kept (kept_recoverUp _ _ _)
    · exact .of_kept (kept_attemptFailed _ _ _)
    · exact k0
  | recoveryRetryExpiry g =>
    simp only [exec, execRecoveryRetryExpiry] at h
    split at h <;> cases h
    · exact .of_kept (kept_modSegment _ _ _)
    · exact k0
  | clearEndTransaction g between l =>
    simp only [exec, execClearEndTransaction] at h
    split at h <;> cases h
    · exact .of_effect (effect_driveOn _ _ _ _)
    · exact k0
  | pollDueExpiry g =>
    simp only [exec, execPollDueExpiry] at h
    split at h <;> cases h
    · exact k0
    · exact .of_kept (kept_modSegment _ _ _)
  | staleExpiry i =>
    simp only [exec, execStaleExpiry] at h
    split at h <;> cases h
    · exact .of_kept (kept_takeStale _ _)
    · exact k0
  | ageCapExpiry i =>
    simp only [exec, execAgeCapExpiry] at h
    split at h <;> cases h
    · exact .of_kept (kept_capAge _ _)
    · exact k0
  | dueCapExpiry i w =>
    simp only [exec, execDueCapExpiry] at h
    split at h <;> cases h
    · exact .of_kept (kept_takeDueCap _ _ _)
    · exact k0
  | deadlineExpiry i =>
    simp only [exec, execDeadlineExpiry] at h
    split at h <;> cases h
    · exact .of_kept (kept_takeDeadline _ _)
    · exact k0
  | nextValueDeadlineExpiry i =>
    simp only [exec, execNextValueDeadlineExpiry] at h
    split at h <;> cases h
    · exact .of_kept (kept_setStand _ _ _)
    · exact k0
  | probeExpiry g x =>
    simp only [exec, execProbeExpiry] at h
    split at h <;> cases h
    · exact .of_kept (kept_markProbe _ _ _)
    · exact k0
  | alertSuppressionExpiry g =>
    simp only [exec, execAlertSuppressionExpiry] at h
    split at h <;> cases h
    · exact .of_kept (kept_modSegment _ _ _)
    · exact k0

end Sys2Proof.Machine
end

