-- ==== Sys2Proof/Laws/Roster.lean ====
section
/-! SUPPORT. Laws/Roster.lean: all that the freeing procedure (R11), DEFINE's placing of a point (R14), the drain of an ACK
(R155), the emptying of a queue (R158) and CLEAR (R174) do to slots, queues, marks and directory counts. -/

namespace Sys2Proof.Machine

/-! ### The freeing procedure -/

theorem mem_allSlots (i : SlotNo) : i ∈ allSlots := List.mem_finRange i

theorem markToSystem_notify (pt : Point) (p q : Port) (s : State) :
    (markToSystem pt p s).notifyOf q =
      if p = q then { s.notifyOf q with systemMark := (s.notifyOf q).systemMark || pt.marks.get q } else s.notifyOf q := by
  unfold markToSystem
  by_cases e : p = q
  · subst e
    by_cases h : pt.marks.get p = true <;> simp [h]
  · by_cases h : pt.marks.get p = true <;> simp [h, e]

theorem markToSystem_slots (pt : Point) (p : Port) (s : State) : (markToSystem pt p s).slots = s.slots := by
  unfold markToSystem
  split <;> rfl

theorem markToSystem_directory (pt : Point) (p : Port) (s : State) :
    (markToSystem pt p s).directory = s.directory := by
  unfold markToSystem
  split <;> rfl

/-- The slots after the freeing procedure. -/
theorem freeSlot_slots (i : SlotNo) (s : State) (pt : Point) (h : s.point? i = some pt) :
    (freeSlot i s).slots = (s.setSlot i { generation := s.generation i + 1, point := none }).slots := by
  simp only [freeSlot, h, dropNodePoint, State.setDirectory_slots, State.modNode_slots, markToSystem_slots]
  rfl

/-- The generation of every slot after the freeing procedure (R3, R11). -/
theorem freeSlot_generation (i j : SlotNo) (s : State) (pt : Point) (h : s.point? i = some pt) :
    (freeSlot i s).generation j = if i = j then s.generation i + 1 else s.generation j := by
  have := State.setSlot_read_generation s i j { generation := s.generation i + 1, point := none }
  unfold State.generation at *
  rw [freeSlot_slots i s pt h]
  exact this

/-- The point of every slot after the freeing procedure (R11). -/
theorem freeSlot_point (i j : SlotNo) (s : State) (pt : Point) (h : s.point? i = some pt) :
    (freeSlot i s).point? j = if i = j then none else s.point? j := by
  have := State.setSlot_read_point s i j { generation := s.generation i + 1, point := none }
  unfold State.point? at *
  rw [freeSlot_slots i s pt h]
  exact this

/-- The notification state of every port after the freeing procedure: the pending marks of the point have become system
marks (R11). -/
theorem freeSlot_notify (i : SlotNo) (s : State) (pt : Point) (h : s.point? i = some pt) (q : Port) :
    (freeSlot i s).notifyOf q =
      { s.notifyOf q with systemMark := (s.notifyOf q).systemMark || pt.marks.get q } := by
  simp only [freeSlot, h, dropNodePoint, State.setDirectory_read_notifyOf, State.modNode_read_notifyOf,
    markToSystem_notify]
  cases q <;> simp [leaveQueue, leaveSchedule]

/-- The directory after the freeing procedure: the node's entry counts one point less, and is gone at 0 (R11, R92). -/
theorem freeSlot_directory (i : SlotNo) (s : State) (pt : Point) (h : s.point? i = some pt) :
    (freeSlot i s).directory = (dropNodePoint pt.segment pt.address s).directory := by
  simp only [freeSlot, h, dropNodePoint, State.modNode, State.setDirectory_directory, markToSystem_directory]
  rfl

theorem freeSlot_clock (i : SlotNo) (s : State) : (freeSlot i s).clock = s.clock := by
  unfold freeSlot
  split
  · rfl
  · unfold markToSystem
    dsimp only [dropNodePoint, State.setDirectory_clock, State.modNode_clock]
    split <;> split <;> rfl

theorem freeSlot_pending (i : SlotNo) (s : State) : (freeSlot i s).pending = s.pending := by
  unfold freeSlot
  split
  · rfl
  · unfold markToSystem
    dsimp only [dropNodePoint, State.setDirectory_pending, State.modNode_pending]
    split <;> split <;> rfl

theorem freeSlot_consoleRate (i : SlotNo) (s : State) : (freeSlot i s).consoleRate = s.consoleRate := by
  unfold freeSlot
  split
  · rfl
  · unfold markToSystem
    dsimp only [dropNodePoint, State.setDirectory_consoleRate, State.modNode_consoleRate]
    split <;> split <;> rfl

/-! ### DEFINE -/

/-- The slot DEFINE takes is the lowest-numbered FREE one (R14), and no point names its item (R13). -/
theorem defineResources_ok {d : Definition} {s : State} {i : SlotNo} (h : defineResources d s = .ok i) :
    s.lowestFree = some i ∧ s.duplicate d.segment d.address d.item = false ∧
      ((s.nodeEntry? d.segment d.address = none ∧ s.directory.length < directoryCapacity) ∨
        ∃ e, s.nodeEntry? d.segment d.address = some e ∧ e.points < nodePointLimit) := by
  unfold defineResources at h
  split at h
  · cases h
  · rename_i j hj
    split at h
    · cases h
    · rename_i hd
      split at h
      · rename_i he
        split at h
        · cases h
        · cases h; exact ⟨hj, by simpa using hd, .inl ⟨he, by omega⟩⟩
      · rename_i e he
        split at h
        · cases h
        · cases h; exact ⟨hj, by simpa using hd, .inr ⟨e, he, by omega⟩⟩

theorem lowestFree_free {s : State} {i : SlotNo} (h : s.lowestFree = some i) : s.point? i = none := by
  have := List.find?_some h
  simpa using this

theorem addNodePoint_slots (g : SegId) (x : Address) (s : State) : (addNodePoint g x s).slots = s.slots := by
  unfold addNodePoint
  split <;> rfl

theorem addNodePoint_notify (g : SegId) (x : Address) (s : State) : (addNodePoint g x s).notify = s.notify := by
  unfold addNodePoint
  split <;> rfl

theorem definePoint_slots (p : Port) (d : Definition) (i : SlotNo) (s : State) :
    (definePoint p d i s).slots = (s.setPoint i (Point.new p d)).slots := by
  simp [definePoint, addNodePoint_slots]

/-- Every slot's generation is kept by DEFINE (R3). -/
theorem definePoint_generation (p : Port) (d : Definition) (i j : SlotNo) (s : State) :
    (definePoint p d i s).generation j = s.generation j := by
  have := State.setPoint_read_generation s i j (Point.new p d)
  unfold State.generation at *
  rw [definePoint_slots]; exact this

/-- The point of every slot after DEFINE (R14). -/
theorem definePoint_point (p : Port) (d : Definition) (i j : SlotNo) (s : State) :
    (definePoint p d i s).point? j = if i = j then some (Point.new p d) else s.point? j := by
  have := State.setPoint_read_point s i j (Point.new p d)
  unfold State.point? at *
  rw [definePoint_slots]; exact this

theorem definePoint_notify (p : Port) (d : Definition) (i : SlotNo) (s : State) (q : Port) :
    (definePoint p d i s).notifyOf q = s.notifyOf q := by
  simp [definePoint, State.notifyOf, addNodePoint_notify]

/-- The directory after DEFINE (R14, R92). -/
theorem definePoint_directory (p : Port) (d : Definition) (i : SlotNo) (s : State) :
    (definePoint p d i s).directory = (addNodePoint d.segment d.address s).directory := by
  unfold definePoint addNodePoint
  have : (s.setPoint i (Point.new p d)).nodeEntry? d.segment d.address = s.nodeEntry? d.segment d.address := rfl
  rw [this]
  split <;> rfl

/-! ### The drain (R155) -/

theorem Notify.hasRoom_iff (q : Notify) : q.hasRoom = true ↔ q.queue.length < queueCapacity := by
  simp [Notify.hasRoom]

theorem kept_drainSystem (p : Port) (s : State) : Kept s (drainSystem p s) := by
  unfold drainSystem
  dsimp only
  split
  · rename_i h
    simp only [Bool.and_eq_true] at h
    refine kept_setNotify s p _ ?_ (fun hm => by simp at hm)
    exact Notify.extends_trans (Notify.extends_push _ s.clock s.systemSummary h.1)
      ⟨rfl, rfl, [], by simp [consecutiveFrom]⟩
  · exact Kept.refl s

/-- A pending mark cleared. -/
theorem kept_clearMark (s : State) (p : Port) (i : SlotNo) (pt : Point) (hp : s.point? i = some pt) :
    Kept s (s.setPoint i (pt.setMark p false)) where
  clock := by simp
  ports := by simp
  lastServed := by simp
  hostRx := by simp
  hsdo := by simp
  assembly := by simp
  gapDue := by simp
  consoleRate := by simp
  ctxd := by simp
  pending := by simp
  generation j := by simp
  ident j := by
    unfold State.ident
    by_cases e : i = j
    · subst e; simp [hp]; rfl
    · simp [e]
  count := by simp
  notify q := by simpa using Notify.extends_refl _
  marked q j h := by
    left
    unfold State.marked at *
    by_cases e : i = j
    · subst e
      by_cases e' : p = q
      · subst e'; simp [Point.setMark] at h
      · simpa [hp, Point.setMark, e'] using h
    · simpa [e] using h
  systemMark q h := .inl (by simpa using h)

theorem kept_drainSlot (p : Port) (s : State) (i : SlotNo) : Kept s (drainSlot p s i) := by
  unfold drainSlot
  split
  · exact Kept.refl s
  · rename_i pt hp
    dsimp only
    split
    · rename_i h
      simp only [Bool.and_eq_true] at h
      refine Kept.after (kept_clearMark _ p i pt (by simpa using hp)) ?_
      exact kept_setNotify s p _ (Notify.extends_push _ _ _ h.1) (fun hm => .inl hm)
    · exact Kept.refl s

/-- The drain is kept: it adds SUMMARY entries at the tail and clears marks. -/
theorem kept_drain (p : Port) (s : State) : Kept s (drain p s) :=
  (kept_foldl _ (fun s i => kept_drainSlot p s i) _ _).after (kept_drainSystem p s)

/-- The drain of port `p` leaves the other port's notification state alone (R155). -/
theorem drain_other (p q : Port) (h : p ≠ q) (s : State) : (drain p s).notifyOf q = s.notifyOf q := by
  have h1 : ∀ s i, (drainSlot p s i).notifyOf q = s.notifyOf q := by
    intro s i
    unfold drainSlot
    split
    · rfl
    · dsimp only
      split
      · simp [h]
      · rfl
  have h2 : ∀ (l : List SlotNo) (s : State), (l.foldl (drainSlot p) s).notifyOf q = s.notifyOf q := by
    intro l
    induction l with
    | nil => intro s; rfl
    | cons a l ih => intro s; rw [List.foldl_cons, ih, h1]
  unfold drain
  rw [h2]
  unfold drainSystem
  dsimp only
  split
  · simp [h]
  · rfl

theorem drainSystem_system (p : Port) (s : State) (h : ((drainSystem p s).notifyOf p).systemMark = true) :
    queueCapacity ≤ ((drainSystem p s).notifyOf p).queue.length := by
  unfold drainSystem at *
  dsimp only at *
  split at h
  · simp at h
  · rename_i hc
    rw [if_neg hc]
    simp only [Bool.and_eq_true, not_and, h, not_true_eq_false, imp_false] at hc
    simpa [Notify.hasRoom] using hc

theorem drainSlot_mark (p : Port) (s : State) (i : SlotNo) (h : (drainSlot p s i).marked p i = true) :
    queueCapacity ≤ ((drainSlot p s i).notifyOf p).queue.length := by
  unfold drainSlot at *
  split at h
  · rename_i hp; simp [State.marked, hp] at h
  · rename_i pt hp
    dsimp only at *
    split at h
    · simp [State.marked, Point.setMark] at h
    · rename_i hc
      rw [if_neg hc]
      simp only [State.marked, hp, Option.any_some] at h
      simp only [Bool.and_eq_true, not_and, h, not_true_eq_false, imp_false] at hc
      simpa [Notify.hasRoom] using hc

/-- After the drain a mark for the port stands only while its queue is full (R155). -/
theorem drain_marks (p : Port) (s : State)
    (h : ((drain p s).notifyOf p).systemMark = true ∨ ∃ i, (drain p s).marked p i = true) :
    queueCapacity ≤ ((drain p s).notifyOf p).queue.length := by
  have grow : ∀ {s t : State}, Kept s t → queueCapacity ≤ (s.notifyOf p).queue.length →
      queueCapacity ≤ (t.notifyOf p).queue.length := fun k h => h.trans (Notify.extends_length (k.notify p))
  have kf : ∀ (l : List SlotNo) (s : State), Kept s (l.foldl (drainSlot p) s) := fun l s =>
    kept_foldl _ (fun s i => kept_drainSlot p s i) l s
  have hm : ∀ (l : List SlotNo) (s : State) (i : SlotNo), i ∈ l → (l.foldl (drainSlot p) s).marked p i = true →
      queueCapacity ≤ ((l.foldl (drainSlot p) s).notifyOf p).queue.length := by
    intro l
    induction l with
    | nil => intro s i hi; simp at hi
    | cons a l ih =>
      intro s i hi hmk
      rw [List.foldl_cons] at *
      by_cases e : i ∈ l
      · exact ih _ i e hmk
      · have : i = a := by simpa [e] using hi
        subst this
        rcases (kf l (drainSlot p s i)).marked p i hmk with h1 | h1
        · exact grow (kf l _) (drainSlot_mark p s i h1)
        · exact h1
  rcases h with h | ⟨i, h⟩
  · rcases (kf allSlots (drainSystem p s)).systemMark p h with h1 | h1
    · exact grow (kf _ _) (drainSystem_system p s h1)
    · exact h1
  · exact hm allSlots _ i (mem_allSlots i) h

/-- What the drain of port `p` leaves of the other port's marks (R155). -/
theorem drain_marked_other (p q : Port) (h : p ≠ q) (s : State) (i : SlotNo) :
    (drain p s).marked q i = s.marked q i := by
  have h1 : ∀ s j, (drainSlot p s j).marked q i = s.marked q i := by
    intro s j
    unfold drainSlot
    split
    · rfl
    · rename_i pt hp
      dsimp only
      split
      · unfold State.marked
        by_cases e : j = i
        · subst e; simp [hp, Point.setMark, h]
        · simp [e]
      · rfl
  have h2 : ∀ (l : List SlotNo) (s : State), (l.foldl (drainSlot p) s).marked q i = s.marked q i := by
    intro l
    induction l with
    | nil => intro s; rfl
    | cons a l ih => intro s; rw [List.foldl_cons, ih, h1]
  unfold drain
  rw [h2]
  unfold drainSystem
  dsimp only
  split <;> rfl

/-- What ACK leaves of a queue is the part behind the entry named (R154). -/
theorem afterSeq_suffix {seq : SeqNo} {l rest : List Entry} (h : afterSeq seq l = some rest) :
    ∃ m e, l = m ++ e :: rest ∧ e.seq = seq := by
  induction l with
  | nil => simp [afterSeq] at h
  | cons a l ih =>
    simp only [afterSeq] at h
    split at h
    · rename_i e
      cases h; exact ⟨[], a, rfl, by simpa using e⟩
    · obtain ⟨m, e, rfl, he⟩ := ih h
      exact ⟨a :: m, e, rfl, he⟩

/-! ### Emptied queues and cleared records (R158, R174) -/

theorem clearPointMarks_point (p : Port) (s : State) (i : SlotNo) :
    (clearPointMarks p s).point? i = (s.point? i).map (·.setMark p false) := by
  simp [clearPointMarks, State.point?]

theorem clearPointMarks_generation (p : Port) (s : State) (i : SlotNo) :
    (clearPointMarks p s).generation i = s.generation i := by
  simp [clearPointMarks, State.generation]

theorem clearRecords_point (s : State) (i : SlotNo) : (clearRecords s).point? i = none := by
  unfold clearRecords State.point? Slot.cleared
  simp only [Fin.getElem_fin, Vector.getElem_map]
  split
  · assumption
  · rfl

/-- CLEAR advances the generation of every slot that held a point, and of no other (R3, R28). -/
theorem clearRecords_generation (s : State) (i : SlotNo) :
    (clearRecords s).generation i = if (s.point? i).isSome then s.generation i + 1 else s.generation i := by
  unfold clearRecords State.generation State.point? Slot.cleared
  simp only [Fin.getElem_fin, Vector.getElem_map]
  split <;> rename_i h <;> simp [h]

end Sys2Proof.Machine
end

