-- ==== Sys2Proof/Tests/Slice0.lean ====
section
/-! SUPPORT. Tests/Slice0.lean: terms the checks of WellFormed refuse, single steps whose results the manual's worked
examples and tables give, and for each statement with hypotheses a state and operands that meet them. -/

namespace Sys2Proof.Tests

set_option Elab.async false

open Sys2Proof.Machine

/-! ### Helpers -/

/-- The state after a command. -/
def next (c : Instr) (s : State) : State :=
  match exec c s with
  | .next t => t
  | _ => s

/-- The status a port's response slot holds. -/
def status (p : Port) (s : State) : Option Status := (s.portOf p).response.map (·.status)

/-- The body a port's response slot holds. -/
def body (p : Port) (s : State) : List Byte := ((s.portOf p).response.map (·.body)).getD []

/-- The notes in a port's queue. -/
def notes (p : Port) (s : State) : List Note := (s.notifyOf p).queue.map (·.note)

/-- A segment made UP. -/
def up (g : SegId) (s : State) : State := s.modSegment g fun x => { x with state := .up }

/-- Both segments UP and no point, at a clock reading. -/
def base (t : Time) : State := { up .b (up .a State.reset) with clock := t }

/-- A point put in a slot and counted for its node. -/
def put (i : SlotNo) (pt : Point) (s : State) : State := addNodePoint pt.segment pt.address (s.setPoint i pt)

/-- A segment with a transaction on the wires since a reading, its first byte next and FC just released. -/
def wires (g : SegId) (w : Work) (start : Time) (s : State) : State :=
  s.modSegment g fun x => { x with transaction := some ⟨w, .onWires start s.clock .first, false⟩ }

/-- A segment with a transaction in its line check since a reading. -/
def checked (g : SegId) (w : Work) (since : Time) (s : State) : State :=
  s.modSegment g fun x => { x with transaction := some ⟨w, .lineCheck since, false⟩ }

/-- The eight bits of a byte and an acceptance bit that reads low. -/
def taken (b : Byte) : List Bool := bitsOf b ++ [false]

/-- The eight bits of a byte and an acceptance bit that reads high. -/
def refused (b : Byte) : List Bool := bitsOf b ++ [true]

/-- What the cycles after the START make of a piece of work. -/
def runs (w : Work) (levels : List Bool) : Progress := w.afterCycles false .first levels

/-- The reads and the write of node 0x21 that the examples make. -/
def reading : Work := .read .poll 0 0x21 4 .two
def writing (v : Value) : Work := .write 2 0x21 9 .one v
def verification : Work := .read .verify 2 0x21 9 .one

/-- An INPUT of width 2, signed, at node 0x21 item 4 of segment A with period 500 and stale limit 2000 (1.10, step 2). -/
def input : Point :=
  { state := .active, segment := .a, address := 0x21, item := 4, width := .two, signed := true, period := some 500
    staleLimit := some 2000, alertDriven := false, limits := none, deadband := none, value := none, reported := none
    quality := .empty, failures := 0, alarm := .normal, late := false, inFlight := none, rhythmDue := none
    staleDue := none, owner := none, subscriptions := ⟨SubSet.ofByte 0, SubSet.ofByte 0⟩, fresh := ⟨false, false⟩
    marks := ⟨false, false⟩, command := none }

/-- An OUTPUT of width 1, unsigned, at node 0x21 item 9 of segment A, not guarded (1.10, step 3), with a command. -/
def output (x : Stand) : Point :=
  { input with
    item := 9, width := .one, signed := false, period := none, staleLimit := none
    command := some { stand := x, attempts := 0, confirmedValue := none, restore := false } }

/-- A flight with a start due. -/
def flight (k : FlightKind) (t : Time) : Option Flight := some ⟨k, some ⟨t, false⟩⟩

/-- A schedule with one entry. -/
def scheduled (g : SegId) (i : SlotNo) (t : Time) (marked : Bool) (s : State) : State :=
  s.modSegment g fun x => { x with schedule := [⟨i, ⟨t, false⟩, marked⟩] }

/-! ### Terms that are not well formed -/

theorem test_read_many_count_differs : (Instr.readMany .host 1 2 [⟨0, 0⟩]).wellFormed = false := by decide
theorem test_read_many_too_long : (Instr.readMany .host 1 48 (List.replicate 48 ⟨0, 0⟩)).wellFormed = false := by decide
theorem test_request_not_opened : (Instr.hostRequestTransaction [0x5A]).wellFormed = false := by decide
theorem test_arriving_frame_too_long :
    (Instr.requestTaken ⟨⟨true, true, true⟩, ⟨true, true, true⟩⟩ [⟨1, 5, List.replicate 97 0, 0⟩]).wellFormed = false := by decide
theorem test_too_many_pulses :
    (Instr.recoveryAttemptEnd .a ⟨true, false, List.replicate 13 (some false), none, true, true⟩).wellFormed = false := by
  decide
theorem test_beyond_byte_boundary : (Instr.clearEndTransaction .a false (List.replicate 11 true)).wellFormed = false := by
  decide

/-! ### Decoding: the table gives no row any bits -/

theorem test_no_word_is_a_command : decodeTableWord 8 0x01 = none ∧ (State.reset.withFetchWord 8 0x01).pending = [] := by
  decide

/-- 11.3: the kind codes of DEFINE, WRITE and PORT_SET, and the bytes of a WRITE body of TABLE 11-5. -/
theorem test_request_kinds :
    decodeRequest 0x0A [1, 0, 0, 0, 0, 40, 0, 0] = .request (.write ⟨1, 0⟩ 40 0) ∧
      decodeRequest 0x13 [0x12, 0x34] = .request (.ack 0x1234) ∧ decodeRequest 0x19 [1, 2] = .request (.portSet 1 2) ∧
      decodeRequest 0x00 [] = .unknownKind ∧ decodeRequest 0x1A [] = .unknownKind ∧ decodeRequest 0x17 [0] = .badLength := by
  decide

/-! ### Checks (R187, 6.9) -/

/-- R187: the CRC-16 over "123456789". -/
theorem test_crc16 : crc16 [0x31, 0x32, 0x33, 0x34, 0x35, 0x36, 0x37, 0x38, 0x39] = 0x29B1 := by decide +kernel

/-- 6.9.1, 6.9.2 and 6.9.4: the check bytes of the write, the read and the roll. -/
theorem test_crc8 : crc8 [0x42] = 0xC9 ∧ crc8 [0x42, 0x09] = 0x4E ∧ crc8 [0x42, 0x09, 0x28] = 0x35 ∧
    crc8 [0x04, 0x00, 0xC8] = 0xDD ∧ crc8 [0x43] = 0xCE := by decide +kernel

/-! ### On the wire (6.9) -/

/-- TABLE 6-4: the write of 40 to node 0x21, item 9, and its refusal at the check byte. -/
theorem test_write_on_the_wire :
    runs (writing 40) (taken 0x42 ++ taken 0x09 ++ taken 0x28 ++ taken 0x35 ++ [true]) = .ended (.done []) ∧
      runs (writing 40) (taken 0x42 ++ taken 0x09 ++ taken 0x28 ++ refused 0x35 ++ [true]) = .ended .noAccept := by
  decide +kernel

/-- 6.9.2: the read of 200, the lost item, a line held low at a bit the engine releases (R115), a part of the cycles. -/
theorem test_read_on_the_wire :
    runs reading (taken 0x42 ++ taken 0x04 ++ [true] ++ taken 0x43 ++ taken 0x00 ++ taken 0xC8 ++ refused 0xDD ++ [true])
        = .ended (.done [0x00, 0xC8]) ∧
      runs reading (taken 0x42 ++ refused 0x04 ++ [true]) = .ended .noAccept ∧
      runs reading [false, false] = .ended .contest ∧ runs reading (taken 0x42) = .going (.sending 1 0) := by
  decide +kernel

/-- 6.9.4: the roll that node 0x21 wins; 0xFF is EMPTY (R124). -/
theorem test_roll_on_the_wire :
    runs .roll (taken 0x11 ++ taken 0x43 ++ refused 0xCE ++ [true]) = .ended (.winner 0x21) ∧
      runs .roll (taken 0x11 ++ taken 0xFF ++ refused 0xFF ++ [true]) = .ended .empty ∧
      runs .roll (refused 0x11 ++ [true]) = .ended .empty := by decide +kernel

/-- R108, TABLE 6-1: of a read of width 2 the engine accepts both data bytes and refuses the check byte, FD pulled low to
accept; in the STOP FD is low while FC rises (R107). -/
theorem test_engine_answers :
    [[], [0x00], [0x00, 0xC8]].map (fun got => (reading.cycle false (.receiving got (List.replicate 8 true))).waiting.fd)
        = [false, false, true] ∧ Cycle.stop.waiting = ⟨true, false⟩ ∧ Cycle.restart.waiting = ⟨true, true⟩ := by
  decide +kernel

/-! ### The life of a slot (1.10) -/

/-- The fields of steps 2 and 4. -/
def step2 : DefineFields := ⟨0, 0, 0x21, 4, 2, 1, 500, 2000, 0⟩

theorem test_step_2_define :
    (let t := next (.define .host 1 step2) (base 0)
    body .host t = [0, 0] ∧ (t.point? 0).map (·.state) = some .held ∧
      t.directory = [⟨.a, 0x21, .unconfirmed, 1, 0, none⟩]) := by decide +kernel

theorem test_step_4_duplicate : status .host (next (.define .host 1 step2) (put 0 input (base 0))) = some .duplicate := by
  decide +kernel

/-- The table at step 5: slot 0 the INPUT, slot 1 the OUTPUT, both HELD. -/
def atStep5 (x : Stand) : State := put 1 { output x with state := .held } (put 0 { input with state := .held } (base 0))

theorem test_step_5_write :
    (let t := next (.write .host 1 ⟨1, 0⟩ 40 0) (atStep5 .noCommand)
    body .host t = [0] ∧ t.stand 1 = .pending ⟨40, .host⟩ none ∧ (t.segment .a).commandQueue = []) := by decide +kernel

theorem test_step_6_retire :
    (let t := next (.retire .host 1 ⟨1, 0⟩) (atStep5 (.pending ⟨40, .host⟩ none))
    body .host t = [0] ∧ notes .host t = [.command ⟨1, 0⟩ 40 .withdrawn] ∧ t.slots[1] = ⟨1, none⟩ ∧
      t.directory = [⟨.a, 0x21, .unconfirmed, 1, 0, none⟩]) := by decide +kernel

/-- Slot 1 with generation 1 and the INPUT B/0x30/0 of step 7 as a record gives it. -/
def atStep9 (pt : Point) : State :=
  addNodePoint .b 0x30 ((put 0 { input with state := .held } (base 7)).setSlot 1 ⟨1, some { pt with
    segment := .b, address := 0x30, item := 0, width := .four, period := some 1000, staleLimit := some 5000 }⟩)

theorem test_step_8_stale_handle :
    status .host (next (.read .host 1 ⟨1, 0⟩) (atStep9 { input with state := .held })) = some .staleHandle := by
  decide +kernel

theorem test_step_9_activate :
    (let t := next (.activate .host 1 ⟨1, 1⟩) (atStep9 { input with state := .held })
    status .host t = some .ok ∧ (t.point? 1).map (·.state) = some .active ∧
      (t.segment .b).schedule = [⟨1, ⟨7, false⟩, true⟩]) := by decide +kernel

theorem test_step_10_start :
    (let t := next (.arbiterChoose .b ⟨true, true, true⟩) (scheduled .b 1 7 true (atStep9 input))
    t.flightOf 1 = some .poll ∧ t.nextDue 1 = none ∧
      (t.segment .b).transaction = some ⟨.read .poll 1 0x30 0 .four, .onWires 7 7 .first, false⟩) := by decide +kernel

theorem test_step_11_deferred :
    (let t := next (.retire .host 1 ⟨1, 1⟩) (wires .b (.read .poll 1 0x30 0 .four) 7
      (atStep9 { input with inFlight := flight .poll 7 }))
    body .host t = [1] ∧ (t.point? 1).map (·.state) = some (.retiring .host) ∧ t.directory.length = 2) := by decide +kernel

/-- Slot 1 as step 11 leaves it. -/
def atStep12 : State :=
  wires .b (.read .poll 1 0x30 0 .four) 7 (atStep9 { input with state := .retiring .host, inFlight := flight .poll 7 })

theorem test_step_12_wrong_state : status .host (next (.activate .host 1 ⟨1, 1⟩) atStep12) = some .wrongState := by
  decide +kernel

theorem test_step_13_freed :
    (let t := next (.pollCompletion .b (taken 0x60 ++ taken 0 ++ [true] ++ taken 0x61 ++ taken 0 ++ taken 0 ++ taken 0 ++ taken 5
        ++ refused (crc8 [0, 0, 0, 0, 5]) ++ [true])) atStep12
    t.slots[1] = ⟨2, none⟩ ∧ notes .host t = [.retired ⟨1, 1⟩] ∧
      t.directory = [⟨.a, 0x21, .unconfirmed, 1, 0, none⟩]) := by decide +kernel

/-! ### One input point (2.8) -/

/-- The samples of a read of node 0x21, item 4, that returns a value. -/
def reads (v : Value) : List Bool :=
  taken 0x42 ++ taken 0x04 ++ [true] ++ taken 0x43 ++ taken (v.extractLsb' 8 8) ++ taken (v.extractLsb' 0 8)
    ++ refused (crc8 [0x04, v.extractLsb' 8 8, v.extractLsb' 0 8]) ++ [true]

/-- A read of the input of 2.8 under way at a reading, `k` its kind; the stale limit is 1,200 ms, HOST subscribes to
QUALITY. -/
def polling (k : ReadKind) (start now : Time) (pt : Point) : State :=
  wires .a (.read k 0 0x21 4 .two) start (put 0
    { pt with
      staleLimit := some 1200, inFlight := flight k.flight start
      subscriptions := ⟨SubSet.ofByte 4, SubSet.ofByte 0⟩ } (base now))

/-- 1000 to 1004: the first poll. -/
theorem test_first_poll :
    (let t := next (.pollCompletion .a (reads 200)) (polling .poll 1000 1004 input)
    (t.point? 0).map (fun x => (x.value, x.quality, x.staleDue, x.late)) = some (some ⟨200, 1004, false⟩, .good, some 2204, false) ∧
      t.nextDue 0 = some 1500 ∧ notes .host t = [.quality ⟨0, 0⟩ .empty .good 0 .firstValue]) := by decide +kernel

/-- 2000 to 2534: the late poll. -/
theorem test_late_poll :
    (let t := next (.pollCompletion .a (reads 210)) (polling .poll 2000 2534
      { input with value := some ⟨205, 1503, false⟩, quality := .good, staleDue := some 2703 })
    (t.point? 0).map (fun x => (x.staleDue, x.late)) = some (some 3734, true) ∧ t.nextDue 0 = some 3034) := by decide +kernel

/-- 3734: the stale expiry with failure count 2. -/
theorem test_stale_expiry :
    (let t := next (.staleExpiry 0) (put 0
      { input with
        value := some ⟨210, 2534, false⟩, quality := .good, failures := 2, staleDue := some 3734
        subscriptions := ⟨SubSet.ofByte 4, SubSet.ofByte 0⟩ } (base 3734))
    (t.point? 0).map (·.quality) = some .stale ∧ notes .host t = [.quality ⟨0, 0⟩ .good .stale 2 .staleLimit]) := by
  decide +kernel

/-- 4534 to 4539: the fourth failure. -/
theorem test_fourth_failure :
    (let t := next (.pollCompletion .a (taken 0x42 ++ refused 0x04 ++ [true])) (polling .poll 4534 4539
      { input with value := some ⟨210, 2534, false⟩, quality := .stale, failures := 3 })
    (t.point? 0).map (fun x => (x.value, x.failures)) = some (some ⟨210, 2534, false⟩, 4) ∧ t.nextDue 0 = some 5034 ∧
      notes .host t = [.quality ⟨0, 0⟩ .stale .fault 4 .failureLimit]) := by decide +kernel

/-- 5200: REFRESH from CONSOLE moves the entry and keeps the rhythm due. -/
theorem test_refresh :
    (let t := next (.refresh .console 1 ⟨0, 0⟩) (scheduled .a 0 5534 false (put 0 input (base 5200)))
    status .console t = some .accepted ∧ (t.segment .a).schedule = [⟨0, ⟨5200, false⟩, true⟩] ∧
      (t.point? 0).map (fun x => (x.fresh, x.rhythmDue)) = some (⟨false, true⟩, some ⟨5534, false⟩)) := by decide +kernel

/-- 5203: the REFRESH-POLL answers the flag and keeps the rhythm. -/
theorem test_refresh_poll :
    (let t := next (.refreshPollCompletion .a (reads 213)) (polling .refreshPoll 5200 5203
      { input with
        value := some ⟨212, 5037, false⟩, quality := .good, fresh := ⟨false, true⟩, rhythmDue := some ⟨5534, false⟩ })
    t.nextDue 0 = some 5534 ∧ notes .console t = [.fresh ⟨0, 0⟩ (.done 213) .good] ∧
      (t.point? 0).map (fun x => (x.late, x.rhythmDue, x.fresh)) = some (false, none, ⟨false, false⟩)) := by decide +kernel

/-! ### An alarm walk (3.6) -/

/-- TABLE 3-2 and TABLE 3-3: the alarm after each good read. -/
theorem test_alarm_walk :
    (let ev := evaluateAlarm true ⟨100, 200, 10⟩
    [ev .normal 150, ev .normal 205, ev .high 195, ev .high 190, ev .normal 95, ev .low 105, ev .low 250]
      = [.normal, .high, .high, .normal, .low, .low, .high]) ∧
      evaluateAlarm true ⟨100, 300, 10⟩ .normal 260 = .normal ∧ evaluateAlarm true ⟨100, 300, 10⟩ .normal 310 = .high ∧
      evaluateAlarm true ⟨100, 200, 10⟩ .normal (extendValue .two true 0xFFFF) = .low ∧
      evaluateAlarm false ⟨100, 200, 10⟩ .normal (extendValue .two false 0xFFFF) = .high := by decide +kernel

/-- TABLE 3-2: the reads whose distance passes the deadband of 25; and R61's distance without wrap. -/
theorem test_deadband :
    [deadbandPasses true 25 none 150, deadbandPasses true 25 (some 150) 205, deadbandPasses true 25 (some 205) 195,
      deadbandPasses true 25 (some 205) 190, deadbandPasses true 25 (some 205) 95]
      = [true, true, false, false, true] ∧ deadbandPasses false 2 (some 0) 0xFFFFFFFF = true := by decide +kernel

/-- Read 2: ALARM to both ports, then VALUE to HOST. -/
theorem test_read_2 :
    (let t := next (.pollCompletion .a (reads 205)) (wires .a (.read .poll 0 0x21 4 .two) 0 (put 0
      { input with
        limits := some ⟨100, 200, 10⟩, deadband := some 25, value := some ⟨150, 0, false⟩, reported := some 150
        quality := .good, inFlight := flight .poll 0, subscriptions := ⟨SubSet.ofByte 3, SubSet.ofByte 2⟩ } (base 9)))
    notes .host t = [.alarm ⟨0, 0⟩ 205 .normal .high .limit, .value ⟨0, 0⟩ 205 .good] ∧
      notes .console t = [.alarm ⟨0, 0⟩ 205 .normal .high .limit]) := by decide +kernel

/-- The host moves the limits while the alarm is HIGH. -/
theorem test_set_limits :
    (let t := next (.setLimits .host 1 ⟨0, 0⟩ ⟨1, 100, 300, 10, 0, 0⟩) (put 0
      { input with
        limits := some ⟨100, 200, 10⟩, deadband := some 25, value := some ⟨250, 0, false⟩, reported := some 250
        alarm := .high, subscriptions := ⟨SubSet.ofByte 3, SubSet.ofByte 2⟩ } (base 9))
    (t.point? 0).map (fun x => (x.alarm, x.limits, x.reported)) = some (.normal, some ⟨100, 300, 10⟩, some 250) ∧
      notes .console t = [.alarm ⟨0, 0⟩ 250 .high .normal .hostReset]) := by decide +kernel

/-! ### Supersede, next value and retry (4.10) -/

/-- An OUTPUT of 4.10: ACTIVE, width 1, unsigned, at node 0x21 item 9, with a command in slot 2. -/
def delivering (x : Stand) (attempts : Nat) (k : Option Flight) (now : Time) : State :=
  put 2
    { output x with
      inFlight := k
      command := some { stand := x, attempts := attempts, confirmedValue := none, restore := false } } (base now)

/-- The samples of a verification read of node 0x21, item 9, that returns a byte. -/
def verifies (b : Byte) : List Bool :=
  taken 0x42 ++ taken 0x09 ++ [true] ++ taken 0x43 ++ taken b ++ refused (crc8 [0x09, b]) ++ [true]

/-- Step 4: the queued value is replaced in place. -/
theorem test_step_4_supersede :
    (let t := next (.write .console 1 ⟨2, 0⟩ 12 0) (queueTail .a 3 (queueTail .a 2
      (delivering (.queued ⟨10, .host⟩ (some 2500)) 0 none 2003)))
    body .console t = [1] ∧ t.stand 2 = .queued ⟨12, .console⟩ none ∧ (t.segment .a).commandQueue = [2, 3] ∧
      notes .host t = [.command ⟨2, 0⟩ 10 .superseded]) := by decide +kernel

/-- Step 7: the next value is replaced. -/
theorem test_step_7_next_value :
    (let t := next (.write .host 1 ⟨2, 0⟩ 16 100)
      (delivering (.writing ⟨12, .console⟩ (some ⟨⟨15, .host⟩, none, false⟩)) 0 (flight .write 0) 2006)
    body .host t = [2] ∧ t.stand 2 = .writing ⟨12, .console⟩ (some ⟨⟨16, .host⟩, some 2106, false⟩) ∧
      notes .host t = [.command ⟨2, 0⟩ 15 .superseded]) := by decide +kernel

/-- Step 9: the verification read confirms, and the next value goes to the head. -/
theorem test_step_9_confirmed :
    (let t := next (.verifyCompletion .a (verifies 12)) (queueTail .a 3 (wires .a (.read .verify 2 0x21 9 .one) 2007
      (delivering (.verifying ⟨12, .console⟩ (some ⟨⟨16, .host⟩, some 2106, false⟩)) 0 (flight .verify 0) 2009)))
    t.stand 2 = .queued ⟨16, .host⟩ (some 2106) ∧ (t.segment .a).commandQueue = [2, 3] ∧
      notes .console t = [.command ⟨2, 0⟩ 12 (.confirmed 0)]) := by decide +kernel

/-- Step 11: a refused data byte is a failed attempt, back to the head. -/
theorem test_step_11_failed_attempt :
    (let t := next (.writeCompletion .a (taken 0x42 ++ taken 0x09 ++ refused 16 ++ [true]))
      (queueTail .a 3 (wires .a (.write 2 0x21 9 .one 16) 2009
        (delivering (.writing ⟨16, .host⟩ none) 0 (flight .write 0) 2011)))
    t.stand 2 = .queued ⟨16, .host⟩ none ∧ t.attempts 2 = 1 ∧ (t.segment .a).commandQueue = [2, 3] ∧ notes .host t = []) := by
  decide +kernel

/-- Step 15: CONSOLE cancels a value that HOST issued. -/
theorem test_step_15_cancel :
    (let t := next (.cancel .console 1 ⟨2, 0⟩) (queueTail .a 2 (delivering (.queued ⟨7, .host⟩ none) 0 none 2016))
    status .console t = some .ok ∧ t.stand 2 = .noCommand ∧ (t.segment .a).commandQueue = [] ∧
      notes .host t = [.command ⟨2, 0⟩ 7 .withdrawn]) := by decide +kernel

/-- Slot 3: the third write is refused at the address byte. -/
theorem test_slot_3_fails :
    (let t := next (.writeCompletion .a (refused 0x42 ++ [true])) (wires .a (.write 2 0x21 9 .one 7) 2025
      (delivering (.writing ⟨7, .console⟩ none) 2 (flight .write 0) 2026))
    t.stand 2 = .failed ⟨7, .console⟩ .noNode ∧ t.directory.map (·.misses) = [1] ∧
      notes .console t = [.command ⟨2, 0⟩ 7 (.failed .noNode 3)]) := by decide +kernel

/-! ### A node lost and returned (5.7) -/

/-- Node 0x21 as the node of slot 0, with a presence, misses and a probe; HOST has node events on. -/
def nodeIs (f : NodeEntry → NodeEntry) (s : State) : State :=
  (s.modNode .a 0x21 f).setNotify .host { s.notifyOf .host with nodeEvents := true }

/-- 10801: the eighth miss. -/
theorem test_eighth_miss :
    (let t := next (.pollCompletion .a (refused 0x42 ++ [true])) (nodeIs (fun e => { e with presence := .present, misses := 7 })
      (polling .poll 10800 10801 { input with quality := .fault, failures := 4 }))
    t.directory = [⟨.a, 0x21, .lost, 1, 8, some ⟨11801, false⟩⟩] ∧ (t.segment .a).schedule = [] ∧
      (t.point? 0).map (·.failures) = some 5 ∧ notes .host t = [.node (.lost 1) .a 0x21]) := by decide +kernel

/-- 12803: the probe is accepted and the node returns. -/
theorem test_probe_return :
    (let t := next (.probeCompletion .a (taken 0x42 ++ [true])) (wires .a (.probe 0x21) 12802
      (nodeIs (fun e => { e with presence := .lost, misses := 8 }) (put 0 input (base 12803))))
    t.directory = [⟨.a, 0x21, .present, 1, 0, none⟩] ∧ (t.segment .a).schedule = [⟨0, ⟨12803, false⟩, true⟩] ∧
      notes .host t = [.node (.back 1) .a 0x21]) := by decide +kernel

/-- 11802: the probe is refused; 10900: REFRESH of a point whose node is LOST is answered NO_NODE at once. -/
theorem test_probe_refused_and_refresh_lost :
    (let s := nodeIs (fun e => { e with presence := .lost, misses := 8 }) (put 0 { input with quality := .fault } (base 11802))
    (next (.probeCompletion .a (refused 0x42 ++ [true])) (wires .a (.probe 0x21) 11801 s)).directory
        = [⟨.a, 0x21, .lost, 1, 8, some ⟨12802, false⟩⟩] ∧
      notes .console (next (.refresh .console 1 ⟨0, 0⟩) s) = [.fresh ⟨0, 0⟩ .noNode .fault]) := by decide +kernel

/-- 6.9.4: the roll moves the alert-driven input's next due to the completion time. -/
theorem test_roll_won :
    (let t := next (.rollCompletion .a (taken 0x11 ++ taken 0x43 ++ refused 0xCE ++ [true]) false) (wires .a .roll 0
      (scheduled .a 0 405 false (put 0 { input with alertDriven := true } (base 5))))
    (t.segment .a).schedule = [⟨0, ⟨5, false⟩, true⟩] ∧ t.directory = [⟨.a, 0x21, .present, 1, 0, none⟩] ∧
      (t.segment .a).lines.fa = false) := by decide +kernel

/-! ### Recovery (7.6) and a scan (7.7) -/

/-- Segment A RECOVERING with a cause and an attempt count; HOST has node events on. -/
def recovering (cause : RecoveryCause) (attempts : Nat) (now : Time) : State :=
  let s := (base now).modSegment .a fun x => { x with state := .recovering, cause := some cause, attempts := attempts }
  s.setNotify .host { s.notifyOf .host with nodeEvents := true }

/-- What an attempt reads while FC is held low, and what it reads on free lines. -/
def heldLow : RecoveryReads := ⟨false, false, [], none, false, false⟩
def free : RecoveryReads := ⟨true, true, [], some true, true, true⟩

/-- TABLE 7-4: attempts 1 and 3. -/
theorem test_recovery_fails :
    ((next (.recoveryAttemptEnd .a heldLow) (recovering .timeout 0 20004)).segment .a).retryTime = some 20054 ∧
      (let t := next (.recoveryAttemptEnd .a heldLow) (recovering .timeout 2 20108)
      (t.segment .a).state = .down ∧ (t.segment .a).attempts = 3 ∧ notes .host t = [.segment .a .down .timeout]) := by
  decide +kernel

/-- TABLE 7-5: RESTART of a DOWN segment, and the attempt that makes it UP. -/
theorem test_restart :
    (let t := next (.segmentRestart .host 1 0) ((base 25000).modSegment .a fun x => { x with state := .down, attempts := 3 })
    status .host t = some .accepted ∧ (t.segment .a).state = .recovering ∧ (t.segment .a).cause = some .restart) ∧
      (let t := next (.recoveryAttemptEnd .a free) (recovering .restart 0 25000)
      (t.segment .a).state = .up ∧ notes .host t = [.segment .a .up .restart]) := by decide +kernel

/-- TABLE 7-4: the hold allowance at 20002; TABLE 7-5: the late re-entry at 25003. -/
theorem test_timeout_and_late_reentry :
    (let t := next (.holdAllowanceExpiry .a) { polling .poll 20000 20000 input with clock := 20002 }
    (t.segment .a).state = .recovering ∧ (t.segment .a).cause = some .timeout ∧ t.nextDue 0 = some 20002 ∧
      t.directory.map (·.misses) = [0]) ∧
      (let t := next (.pollCompletion .a (refused 0x42 ++ [true])) (polling .poll 20002 25003 { input with period := some 200 })
      t.nextDue 0 = some 25203 ∧ (t.point? 0).map (·.late) = some true) := by decide +kernel

/-- R116: the allowance runs from the last release of FC, here one millisecond after the START, its first byte made. -/
theorem test_hold_runs_from_the_release :
    (let t := next (.pollCompletion .a (taken 0x42)) { polling .poll 0 0 input with clock := 1 }
    (t.segment .a).transaction = some ⟨reading, .onWires 0 1 (.sending 1 0), false⟩ ∧
      ((next (.holdAllowanceExpiry .a) { t with clock := 2 }).segment .a).state = .up ∧
      ((next (.holdAllowanceExpiry .a) { t with clock := 3 }).segment .a).cause = some .timeout) := by decide +kernel

/-- R120: a cleared read standing in its second data byte: that byte is refused as the end marker, then the STOP is made. -/
theorem test_cleared_read_refuses_the_byte :
    (let s := (base 5).modSegment .a fun x => { x with transaction := some ⟨reading, .onWires 5 5 (.receiving [0] []), true⟩ }
    (reading.cycle true (.receiving [0] (bitsOf 0xC8))) = .answer false ∧
      ((next (.clearEndTransaction .a false (refused 0xC8 ++ [true])) s).segment .a).transaction = none ∧
      ((next (.clearEndTransaction .a false (refused 0xC8)) s).segment .a).drivers = ⟨true, false⟩ ∧
      ((next (.clearEndTransaction .a true [false]) s).segment .a).cause = some .contest) := by decide +kernel

/-- R118, R137, R138: the attempt has read both lines high, so the engine that then chooses makes its START at once. -/
theorem test_recovered_engine_starts_at_once :
    (let s := next (.recoveryAttemptEnd .a free) ((recovering .stuck 0 7).setLines .a ⟨false, false, false⟩)
    s.nextEvent = some (.arbiterChoose .a ⟨true, true, false⟩) ∧
      ((next (.arbiterChoose .a ⟨true, true, false⟩) s).segment .a).transaction
        = some ⟨.roll, .onWires 7 7 .first, false⟩) := by decide +kernel

/-- R122, R133: FA falls, and the idle engine chooses the roll; R136: a command whose claim is refused is passed over. -/
theorem test_idle_engine_chooses :
    (let s := next (.faFall .a) (base 5)
    s.nextEvent = some (.arbiterChoose .a ⟨true, true, false⟩) ∧
      ((next (.arbiterChoose .a ⟨true, true, false⟩) s).segment .a).transaction
        = some ⟨.roll, .onWires 5 5 .first, false⟩) ∧
      (let s := (scheduled .a 0 4 true (put 2 { output (.queued ⟨7, .host⟩ none) with state := .held }
        (put 0 input (base 5)))).modSegment .a fun x => { x with commandQueue := [2], fairness := 1 }
      let t := next (.arbiterChoose .a ⟨true, true, true⟩) s
      (t.segment .a).transaction = some ⟨reading, .onWires 5 5 .first, false⟩ ∧ (t.segment .a).commandQueue = [2]) := by
  decide +kernel

/-- Segment B with a RUNNING scan of 0x30 to 0x34 from CONSOLE and its step on the wires. -/
def scanning (x : Address) (found : List Address) : State :=
  wires .b (.scanStep x) 40000
    ((base 40001).modSegment .b fun y => { y with scan := ⟨.running ⟨.console, 0x30, 0x34⟩ x, found⟩ })

/-- TABLE 7-6, steps 1 and 3: the scan accepted, an address that no node accepts. -/
theorem test_scan_begins :
    (let t := next (.scan .console 1 1 0x30 0x34) (base 40000)
    status .console t = some .accepted ∧ (t.segment .b).scan = ⟨.running ⟨.console, 0x30, 0x34⟩ 0x30, []⟩) ∧
      ((next (.scanStepCompletion .b (refused 0x62 ++ [true])) (scanning 0x31 [0x30])).segment .b).scan
        = ⟨.running ⟨.console, 0x30, 0x34⟩ 0x32, [0x30]⟩ := by decide +kernel

/-- TABLE 7-6, steps 6 and 9: a CONTEST leaves the step, the last address ends the scan. -/
theorem test_scan_ends :
    (let t := next (.scanStepCompletion .b [false, false]) (scanning 0x33 [0x30, 0x32])
    (t.segment .b).scan = ⟨.running ⟨.console, 0x30, 0x34⟩ 0x33, [0x30, 0x32]⟩ ∧ (t.segment .b).cause = some .contest) ∧
      (let t := next (.scanStepCompletion .b (taken 0x68 ++ [true])) (scanning 0x34 [0x30, 0x32])
      (t.segment .b).scan = ⟨.done ⟨.console, 0x30, 0x34⟩, [0x30, 0x32, 0x34]⟩ ∧
        notes .console t = [.scanDone .b true 3]) := by decide +kernel

/-! ### A full queue drained (8.9) -/

/-- A queue of entries numbered on from a number. -/
def numbered (n len : Nat) : List Entry := (List.range len).map fun k => ⟨BitVec.ofNat 16 (n + k), 0, .retired ⟨0, 0⟩⟩

/-- The records at 70100: 64 entries from 1000 on, the system mark, and marks on slots 3 and 9. -/
def full : State :=
  ((((base 70110).setPoint 3 { input with value := some ⟨142, 70060, false⟩, quality := .good, marks := ⟨true, false⟩ }).setPoint 9
    { input with item := 5, marks := ⟨true, false⟩ }).setNotify .host ⟨numbered 1000 64, 1064, true, true, true⟩)

/-- 70110: ACK 1000 removes one entry and makes the SUMMARY SYSTEM; the slots keep their marks. -/
theorem test_ack_1000 :
    (let t := next (.ack .host 1 1000) full
    body .host t = [1, 64] ∧ (t.notifyOf .host).queue.getLast? = some ⟨1064, 70110, .summarySystem .up .up 0⟩ ∧
      (t.notifyOf .host).systemMark = false ∧ t.marked .host 3 = true) := by decide +kernel

/-- 70120: ACK 1007 of the queue that leaves; both slots are summarised, the lower one first. -/
theorem test_ack_1007 :
    (let t := next (.ack .host 1 1007) (full.setNotify .host ⟨numbered 1001 64, 1065, true, true, false⟩)
    body .host t = [7, 59] ∧ ((t.notifyOf .host).queue.drop 57).map (fun e => (e.seq, e.note)) =
      [(1065, .summaryPoint ⟨3, 0⟩ (some 142) .good .normal none), (1066, .summaryPoint ⟨9, 0⟩ none .empty .normal none)]) := by decide +kernel

/-- 70030: on the full queue the offer sets the mark and uses no number. -/
theorem test_full_queue_marks :
    (let t := offerPoint .host 9 (.retired ⟨9, 0⟩) (full.setPoint 9 input)
    t.marked .host 9 = true ∧ (t.notifyOf .host).nextSeq = 1064 ∧ (t.notifyOf .host).queue.length = 64) := by decide +kernel

/-! ### Validation outcomes (9.9) -/

/-- The records of TABLE 9-5. Segment A is UP and segment B is OFF. -/
def records : State :=
  let s := up .a State.reset
  let s := s.setSlot 6 ⟨2, some { output (.writing ⟨90, .console⟩ none) with
    address := 0x40, item := 3, owner := some .console, inFlight := flight .write 0 }⟩
  let s := s.setSlot 7 ⟨3, none⟩
  let s := s.setSlot 8 ⟨1, some { input with state := .retiring .host, address := 0x41, item := 0, owner := some .host }⟩
  s.setPoint 9 { input with state := .held, segment := .b, address := 0x22, item := 1 }

/-- The status of a command's response on the records of TABLE 9-5. -/
def judged (p : Port) (c : Instr) : Option Status := status p (next c records)

/-- Rows 1 to 3: a damaged frame, an unknown kind, a length that differs from the declared count. -/
theorem test_rows_1_to_3 :
    ((judge .host ⟨1, 6, [9, 0], 0x0000⟩ records).2.status = .frameError) ∧
      (let f : RequestFrame := ⟨1, 0x1A, [], 0⟩
      (judge .console { f with crc := crc16 f.covered } records).2.status = .unknownKind) ∧
      judged .host (.readMany .host 1 3 [⟨9, 0⟩, ⟨6, 2⟩]) = some .badLength := by decide +kernel

theorem test_rows_4_to_10 :
    judged .host (.write .host 1 ⟨7, 3⟩ 5 0) = some .badHandle ∧ judged .console (.write .console 1 ⟨6, 1⟩ 5 0) = some .staleHandle ∧
      judged .host (.refresh .host 1 ⟨6, 2⟩) = some .wrongKind ∧
      judged .console (.setLimits .console 1 ⟨8, 1⟩ ⟨1, 9, 5, 0, 0, 0⟩) = some .wrongState ∧
      judged .console (.read .console 1 ⟨8, 1⟩) = some .ok ∧ judged .host (.write .host 1 ⟨6, 2⟩ 300 0) = some .notOwner ∧
      judged .console (.write .console 1 ⟨6, 2⟩ 300 0) = some .badField := by decide +kernel

theorem test_rows_11_to_16 :
    body .console (next (.write .console 1 ⟨6, 2⟩ 91 0) records) = [2] ∧
      judged .console (.cancel .console 1 ⟨6, 2⟩) = some .wrongState ∧ judged .console (.clear .console 1) = some .hostOnly ∧
      judged .console (.claim .console 1 ⟨9, 0⟩ 1) = some .hostOnly ∧
      judged .host (.claim .host 1 ⟨6, 2⟩ 0) = some .heldByOther ∧
      judged .host (.define .host 1 { step2 with width := 3 }) = some .badField := by decide +kernel

theorem test_rows_17_to_20 :
    judged .host (.define .host 1 { step2 with segment := 1, address := 0x22, item := 1 }) = some .duplicate ∧
      judged .console (.scan .console 1 1 0x50 0x40) = some .badField ∧
      judged .console (.scan .console 1 1 0x40 0x50) = some .segmentOff ∧
      judged .host (.release .host 1 ⟨9, 0⟩) = some .notOwner := by decide +kernel

/-- The take: the owner becomes HOST, CLAIM_LOST goes to CONSOLE, the command is untouched. -/
theorem test_take :
    (let t := next (.claim .host 1 ⟨6, 2⟩ 1) records
    status .host t = some .ok ∧ notes .console t = [.claimLost ⟨6, 2⟩ .host] ∧ (t.point? 6).map (·.owner) = some (some .host) ∧
      t.stand 6 = .writing ⟨90, .console⟩ none) := by decide +kernel

/-- Two ports at once, HOST served last: the unit takes CONSOLE's ACTIVATE. -/
theorem test_two_ports_at_once :
    (let s := (((records.storeRequest .host (frameOf 1 (.read ⟨9, 0⟩))).storeRequest .console
      (frameOf 2 (.activate ⟨9, 0⟩))).served .host)
    let t := next (.requestTaken ⟨⟨true, true, true⟩, ⟨true, true, true⟩⟩ []) s
    s.nextEvent = some (.requestTaken ⟨⟨true, true, true⟩, ⟨true, true, true⟩⟩ []) ∧
      t.lastServed = .console ∧ status .console t = some .ok ∧ status .host t = none ∧
      (t.segment .b).schedule = [⟨9, ⟨0, false⟩, true⟩]) := by decide +kernel

/-- R177: a frame that arrives while the request is carried out is stored, a second one dropped; the stored one is offered
once the response has been read. -/
theorem test_arrival_while_carried_out :
    (let s := (base 0).storeRequest .host (frameOf 1 .time)
    let t := next (.requestTaken ⟨⟨true, true, true⟩, ⟨true, true, true⟩⟩ [frameOf 2 .status, frameOf 3 .time]) s
    (t.portOf .host).request = some (frameOf 2 .status) ∧
      (t.portOf .host).response = some ⟨1, .ok, true, false, [0, 0, 0, 0]⟩ ∧ (t.portOf .host).dropped = false ∧
      t.unitChoice = none ∧ (next (.hostResponseTransaction 11) t).unitChoice = some .host) := by decide +kernel

/-! ### The ports (10.5, 10.6) -/

/-- TABLE 10-3, steps 1 and 2: the READ stored, the WRITE dropped on the full response slot. -/
theorem test_host_exchange_1_2 :
    (let s := put 5 input (base 0)
    let t := next (.hostRequestTransaction (0xA5 :: (frameOf 0x31 (.read ⟨5, 0⟩)).bytes)) s
    (t.portOf .host).request = some (frameOf 0x31 (.read ⟨5, 0⟩)) ∧
      (let u := next (.hostRequestTransaction (0xA5 :: (frameOf 0x32 (.write ⟨5, 0⟩ 1 0)).bytes))
        (next (.read .host 0x31 ⟨5, 0⟩) s)
      (u.portOf .host).dropped = true ∧ (u.portOf .host).request = none ∧ u.rdy = true)) := by decide +kernel

/-- TABLE 10-3, steps 6 and 7: a response transaction cut short keeps the response, a whole one empties the slot. -/
theorem test_host_exchange_6_7 :
    (let s := next (.write .host 0x33 ⟨5, 0⟩ 1 0) (put 5 input (base 0))
    let short := next (.hostResponseTransaction 3) s
    let whole := next (.hostResponseTransaction 7) s
    short.rdy = true ∧ short.hsdo = [0x00, 0x01, 0x33, 0x15] ∧ whole.rdy = false ∧ whole.hsdo.length = 8) := by decide +kernel

/-- 10.6: the gap expiry discards the partial frame; bytes other than 0xC3 are ignored in HUNT. -/
theorem test_console_gap :
    (let s : State := { base 5 with assembly := .body 1 5 4 [], gapDue := some 5 }
    let t := next .consoleGapExpiry s
    t.assembly = .hunt ∧ t.gapDue = none ∧ (next (.consoleByteReceived 0x07) t).assembly = .hunt ∧
      (t.portOf .console).dropped = false) := by decide +kernel

/-- R186: the transaction under way at the end of hard reset is ignored until HSEL_N has risen; R184: 0xC3 sets no gap. -/
theorem test_host_ignored_until_resync :
    (let bytes := 0xA5 :: (frameOf 0x31 .time).bytes
    let s := next (.hardReset false false (.ends true)) (base 5)
    ((next (.hostRequestTransaction bytes) s).portOf .host).request = none ∧
      ((next (.hostRequestTransaction bytes) (next .hostPortResync s)).portOf .host).request = some (frameOf 0x31 .time)) ∧
      (next (.consoleByteReceived 0xC3) (base 5)).gapDue = none ∧
      (next (.consoleByteReceived 9) (next (.consoleByteReceived 0xC3) (base 5))).gapDue = some 10 := by decide +kernel

/-- R191: while hard reset lasts RDY and ATTN are low, CTXD is high, the field lines are released, and nothing is received. -/
theorem test_hard_reset_lasts :
    (let before := wires .a reading 5 (next (.time .console 1) (next (.time .host 1) { base 5 with hostRx := .partialFrame [1] }))
    let u := next (.hardReset false false .begins) before
    before.pins.rdy = true ∧ before.pins.ctxd ≠ .idle ∧
      u.pins = { hsdoDriven := true, rdy := false, attn := false, ctxd := .idle, fieldA := ⟨true, true⟩, fieldB := ⟨true, true⟩ } ∧
      (next .hostPortResync u).pins.hsdoDriven = false ∧ (next (.time .host 1) u).pins.rdy = false ∧
      u.nextEvent = none ∧ u.clock = 0 ∧ u.inReset = true ∧ (next (.consoleByteReceived 0xC3) u).assembly = .hunt ∧
      (next (.hardReset true true (.ends false)) u).inReset = false) := by decide +kernel

/-- TABLE 10-2: a body length above 96 drops the frame and skips; a framing error in a frame returns to HUNT. -/
theorem test_console_skip_and_framing :
    (let t := next (.consoleByteReceived 97) { base 5 with assembly := .header [1, 2] }
    t.assembly = .skip ∧ (t.portOf .console).dropped = true) ∧
      (next .consoleFramingError { base 5 with assembly := .header [1] }).assembly = .hunt := by decide +kernel

/-- R185: the response leaves behind its sync byte, and the slot empties. -/
theorem test_console_response :
    (let s := next (.time .console 9) (base 258)
    let t := next .consoleResponseSent s
    t.ctxd.take 9 = [0xC3, 9, 0, 0, 4, 0, 0, 1, 2] ∧ (t.portOf .console).response = none) := by decide +kernel

/-! ### States and operands that meet the hypotheses of the statements, one for each clause, at its boundary -/

/-- A point that is not RETIRING. -/
theorem not_retiring {pt : Point} (h : pt.isRetiring = false) : ∀ q, pt.state ≠ .retiring q := by
  intro q e
  simp [Point.isRetiring, e] at h

/-- The ACTIVE INPUT of slot 0, with changes. -/
def one (f : Point → Point) : State := put 0 (f input) (base 0)

/-- The OUTPUT of slot 0 in a point state with a command. -/
def out (state : PointState) (x : Stand) : Point := { output x with state := state }

theorem witness_StepRunsTheCommandAtTheFront :
    ({ base 0 with pending := [.hostPortResync] } : State).pending = .hostPortResync :: [] := by decide +kernel

/-- A segment whose FA reads low, so that its idle engine has a roll to choose. -/
def alerting (g : SegId) : State := (base 0).setLines g ⟨true, true, false⟩

theorem witness_ClockAdvancesOnlyWhenNothingIsDue :
    (((base 0).pending = [] ∧ (base 0).nextExpiry = none) ∧ (base 0).granted .a = none ∧ (base 0).granted .b = none) ∧
      ({ base 5 with gapDue := some 5 } : State).nextExpiry = some .consoleGapExpiry ∧
      ((alerting .a).pending = [] ∧ ((alerting .a).segment .a).state = .up ∧
        ((alerting .a).segment .a).transaction = none ∧ (alerting .a).granted .a ≠ none) ∧
      ((alerting .b).granted .a = none ∧ (alerting .b).granted .b ≠ none) ∧
      (let s := (base 0).storeRequest .console (frameOf 1 .time)
      s.pending = [] ∧ (s.portOf .console).request ≠ none ∧ (s.portOf .console).response = none) ∧
      ∀ p, ((base 0).portOf p).request = none ∧ ((alerting .a).portOf p).request = none := by
  refine ⟨by decide +kernel, by decide +kernel, by decide +kernel, by decide +kernel, by decide +kernel, fun p => ?_⟩
  cases p <;> decide +kernel

theorem witness_TimesAreComparedByModularDifference : (1 : Interval) ≠ 0 ∧ (65535 : Interval) ≠ 0 ∧ 2 ^ 31 - 1 < 2 ^ 31 := by
  decide

/-- A state that hard reset holds, entered while a host transaction was under way. -/
def held : State := ({ base 5 with hostRx := .partialFrame [1] } : State).heldInReset

theorem held_point (i : SlotNo) : held.point? i = none := by
  have h : held.slots = Vector.replicate 256 Slot.reset := rfl
  simp [State.point?, h, Slot.reset]

theorem witness_HardResetLeavesEveryBlockAtItsResetValue :
    (held.inReset = true ∧ held.clock = 0 ∧ held.directory = [] ∧ held.lastServed = .console ∧ held.hostRx = .ignoring ∧
      held.assembly = .hunt ∧ held.gapDue = none ∧ held.pending = [] ∧
      held.pins = { hsdoDriven := true, rdy := false, attn := false, ctxd := .idle
                    fieldA := { fc := true, fd := true }, fieldB := { fc := true, fd := true } }) ∧
      (∀ i, held.point? i = none ∧ held.generation i = 0) ∧
      (∀ g, held.segment g = Segment.reset ⟨true, true, true⟩) ∧
      (∀ p, held.notifyOf p = Notify.reset ∧ held.portOf p = PortSlots.reset) ∧
      held.noDuplicates ∧ held.fieldsOk ∧ held.queuesOk ∧ held.marksOk ∧ held.directoryOk ∧ held.commandQueuesOk ∧ held.schedulesOk ∧
      held.flightsOk ∧ held.enginesOk ∧ ∀ x y e, Instr.hostPortResync ≠ .hardReset x y e := by
  have hs : ∀ g, held.segment g = Segment.reset ⟨true, true, true⟩ := fun g => by cases g <;> rfl
  have hn : ∀ p, held.notifyOf p = Notify.reset := fun p => by cases p <;> rfl
  have hg : ∀ i, held.generation i = 0 := fun i => by
    have h : held.slots = Vector.replicate 256 Slot.reset := rfl
    simp [State.generation, h, Slot.reset]
  refine ⟨by decide +kernel, fun i => ⟨held_point i, hg i⟩, hs, fun p => ⟨hn p, by cases p <;> rfl⟩, ?_, ?_, ?_, ?_,
    ⟨by decide +kernel, by decide +kernel, by decide +kernel, ?_⟩, ⟨?_, fun g => ?_⟩, fun g => ?_, ⟨?_, ?_⟩, fun g => ?_, by simp⟩
  · intro i j a b h
    simp [State.ident, held_point] at h
  · intro i a h
    simp [State.ident, held_point] at h
  · intro p
    simp [Notify.wellNumbered, hn p, Notify.reset, consecutiveFrom]
  · rintro p (h | ⟨i, h⟩)
    · simp [hn p, Notify.reset] at h
    · simp [State.marked, held_point] at h
  · intro i a h
    simp [State.ident, held_point] at h
  · intro i pt h
    simp [held_point] at h
  · simp [hs, Segment.reset, State.queuedOn, held_point]
  · simp [hs, Segment.reset, State.scheduledOn, held_point]
  · rintro g i k ⟨t, h, _⟩
    simp [hs, Segment.reset] at h
  · intro i k h
    simp [State.flightOf, held_point] at h
  · rw [hs]
    unfold Segment.engineOk Segment.reset
    decide
theorem witness_RequestCommandIsDroppedOrWaitsOrIsAnswered :
    asRequest (.time .host 1) = some (.host, 1, .time) ∧ (next (.time .host 1) (base 0)).slotsBusy .host = true ∧
      96 < (Request.readMany 48 (List.replicate 48 ⟨0, 0⟩)).body.length ∧
      (let s := ((base 0).storeRequest .console (frameOf 1 .time)).served .host
      s.slotsBusy .host = false ∧ s.goesFirst .host = false) ∧
      (base 0).ready .host = true ∧ (Request.readMany 47 (List.replicate 47 ⟨0, 0⟩)).body.length ≤ 96 ∧
      (∀ q u b x y, Instr.time .host 1 ≠ .enable q u b x y) ∧
      asRequest (.enable .host 1 0 true true) = some (.host, 1, .segmentControl 0 0 0) := by
  refine ⟨rfl, by decide +kernel, by decide, by decide +kernel, by decide +kernel, by decide, by simp, rfl⟩

theorem witness_FrameIsJudgedInOrderAndARefusalChangesNothing :
    (let f : RequestFrame := ⟨1, 0, [], 0⟩
    crc16 f.covered ≠ f.crc) ∧
      (let f : RequestFrame := ⟨1, 26, [], crc16 [1, 26, 0]⟩
      crc16 f.covered = f.crc ∧ 25 < f.kind.toNat) ∧
      (let f : RequestFrame := ⟨1, 0x17, [0], crc16 [1, 0x17, 1, 0]⟩
      crc16 f.covered = f.crc ∧ requiredLength f.kind f.body = some 0 ∧ f.body.length ≠ 0) ∧
      (let f := frameOf 1 .time
      crc16 f.covered = f.crc ∧ Request.time.wellFormed = true ∧ f.kind = Request.time.kindCode ∧
        f.body = Request.time.body) ∧
      (judge .host ⟨1, 6, [9, 0], 0⟩ records).2.status ≠ .ok ∧
      (judge .host ⟨1, 6, [9, 0], 0⟩ records).2.status ≠ .accepted := by decide +kernel

theorem witness_EncodedRequestDecodesToItself : (Request.readMany 47 (List.replicate 47 ⟨0, 0⟩)).wellFormed = true := by decide

theorem witness_RequestCrossesThePorts :
    (base 0).slotsBusy .host = false ∧ (base 0).hostRx ≠ .ignoring ∧ (base 0).slotsBusy .console = false ∧ (base 0).assembly = .hunt ∧
      Request.time.wellFormed = true ∧ (base 0).inReset = false ∧
      (base 0).goesFirst .host = true ∧ ((base 0).served .host).goesFirst .console = true := by decide +kernel

/-- The fields of step 2 as DEFINE reads them. -/
def defined : Definition :=
  { isOutput := false, segment := .a, address := 0x21, item := 4, width := .two, signed := true, alertDriven := false
    restore := false, claim := false, subscriptions := SubSet.ofByte 0, period := some 500, staleLimit := some 2000 }

/-- No slot of the base state holds a point. -/
theorem base_free (t : Time) (j : SlotNo) : (base t).ident j = none := by
  have h : (base t).slots = Vector.replicate 256 Slot.reset := rfl
  simp [State.ident, State.point?, h, Slot.reset]

theorem witness_DefineIsJudgedByItsFieldsThenItsResources :
    ((checkDefine { step2 with period := 5, staleLimit := 6 }).isSome = true ∧
        checkDefine { step2 with period := 5, staleLimit := 5 } = none) ∧
      checkDefine step2 = some defined ∧
      (∀ i, ({ base 0 with slots := Vector.replicate 256 ⟨0, some input⟩ } : State).point? i ≠ none) ∧
      ((∃ i, (one id).point? i = none) ∧ (one id).ident 0 = some input.identity ∧ input.identity.segment = defined.segment ∧
        input.identity.address = defined.address ∧ input.identity.item = defined.item) ∧
      ((base 0).point? 0 = none ∧ ∀ j a, (base 0).ident j = some a →
        ¬(a.segment = defined.segment ∧ a.address = defined.address ∧ a.item = defined.item)) ∧
      (let s := (base 0).setDirectory (List.replicate 64 ⟨.b, 0x10, .present, 1, 0, none⟩)
      s.nodeEntry? .a 0x21 = none ∧ 64 ≤ s.directory.length) ∧
      ((base 0).setDirectory [⟨.a, 0x21, .present, 32, 0, none⟩]).nodeEntry? .a 0x21 = some ⟨.a, 0x21, .present, 32, 0, none⟩ ∧
      ((base 0).setDirectory [⟨.a, 0x21, .present, 31, 0, none⟩]).nodeEntry? .a 0x21
        = some ⟨.a, 0x21, .present, 31, 0, none⟩ := by
  refine ⟨by decide +kernel, by decide +kernel, by decide +kernel, ⟨⟨1, by decide +kernel⟩, by decide +kernel⟩, ⟨by decide +kernel, ?_⟩,
    by decide +kernel, by decide +kernel, by decide +kernel⟩
  intro j a h
  rw [base_free] at h
  cases h

theorem witness_DefineCreatesAHeldPoint :
    (base 0).ready .host = true ∧ checkDefine step2 = some defined ∧ defineResources defined (base 0) = .ok 0 :=
  by decide +kernel

theorem witness_HandleKindStateAndOwnerAreJudgedInOrder :
    (base 0).point? (RawHandle.mk 255 0).slot.toFin = none ∧ (one id).point? 0 ≠ none ∧
      (RawHandle.mk 0 16).generation.toNat ≠ ((one id).generation (RawHandle.mk 0 16).slot.toFin).toNat ∧
      (one id).point? 0 = some input ∧ input.command = none ∧
      (put 0 (out .held .noCommand) (base 0)).point? 0 = some (out .held .noCommand) ∧ (out .held .noCommand).command ≠ none ∧
      ({ input with state := .retiring .host } : Point).state = .retiring .host ∧
      ({ input with state := .held } : Point).state = .held ∧
      ({ input with owner := some .console } : Point).owner = some (Port.other .host) := by decide +kernel

theorem witness_ActivateMakesAHeldPointActive :
    (let pt := { input with state := .held }
    let s := one fun _ => pt
    s.ready .host = true ∧ s.point? 0 = some pt ∧ pt.mayChange .host = true ∧ pt.state = .held ∧
      s.entryOf? pt.segment 0 = none) ∧
      ((one id).ready .host = true ∧ (one id).point? 0 = some input ∧ input.mayChange .host = true ∧ input.state = .active) ∧
      (let l : List SchedEntry := [⟨3, ⟨9, true⟩, true⟩, ⟨1, ⟨0xFFFFFFFF, false⟩, true⟩, ⟨2, ⟨5, false⟩, false⟩, ⟨7, ⟨5, false⟩, false⟩]
      let e : SchedEntry := ⟨4, ⟨5, false⟩, false⟩
      (∀ f ∈ e :: l, (f.due.time - 0xFFFFFFFF).toNat < 2 ^ 31) ∧ (∀ f ∈ l, f.slot ≠ e.slot) ∧
        l.Pairwise (fun f h => f.before h = true) ∧ (insertEntry e l).map (·.slot) = [3, 1, 2, 4, 7]) := by
  decide +kernel

theorem witness_HoldTakesAnActivePointOutOfService :
    input.awaitsVerify = false ∧
      (let pt := out .active (.verifying ⟨1, .host⟩ none)
      let s := put 0 pt (base 0)
      s.ready .host = true ∧ s.point? 0 = some pt ∧ pt.mayChange .host = true ∧ pt.awaitsVerify = true ∧
        s.stand 0 = .verifying ⟨1, .host⟩ none) ∧
      (let pt := out .active (.verifying ⟨1, .host⟩ (some ⟨⟨2, .host⟩, none, true⟩))
      pt.awaitsVerify = true ∧ (put 0 pt (base 0)).stand 0 = .verifying ⟨1, .host⟩ (some ⟨⟨2, .host⟩, none, true⟩)) := by
  decide +kernel

theorem witness_RetireFreesTheSlotNowOrLater :
    ((one id).ready .host = true ∧ (one id).point? 0 = some input ∧ input.mayChange .host = true ∧ input.inFlight = none) ∧
      (let pt := { input with inFlight := flight .poll 0 }
      (one fun _ => pt).point? 0 = some pt ∧ pt.inFlight ≠ none) ∧ ∀ q, input.state ≠ .retiring q :=
  ⟨by decide +kernel, by decide +kernel, not_retiring rfl⟩

theorem witness_RetiringPointIsFreedAsItsTransactionEnds :
    (let work : Work := .read .poll 1 0x30 0 .four
    (atStep12.segment .b).transaction = some ⟨work, .onWires 7 7 .first, false⟩ ∧
      work.afterCycles false .first (refused 0x60 ++ [true]) = .ended .noNode ∧
      work.afterCycles false .first [false, false] = .ended .contest ∧ TxOutcome.contest.fault? = some .contest ∧
      (atStep12.point? 1).map (·.state) = some (.retiring .host) ∧ (atStep12.notifyOf .host).enabled = true ∧
      (atStep12.notifyOf .host).queue.length + atStep12.pointsNaming .b 0x30 + 2 ≤ 64 ∧
      atStep12.nodeEntry? .b 0x30 = some ⟨.b, 0x30, .unconfirmed, 1, 0, none⟩) ∧
      (let pt := { input with state := .retiring .host, inFlight := flight .poll 10 }
      let s := nodeIs (fun e => { e with presence := .lost, misses := 8 })
        (wires .a reading 10 (put 1 { input with item := 5 } (put 0 pt (base 14))))
      s.point? 0 = some pt ∧ pt.names .a 0x21 = true ∧ s.nodeEntry? .a 0x21 = some ⟨.a, 0x21, .lost, 2, 8, none⟩ ∧
        reading.afterCycles false .first (reads 5) = .ended (.done [0, 5]) ∧
        s.point? 1 = some { input with item := 5 } ∧ s.entryOf? .a 1 = none ∧
        (next (.pollCompletion .a (reads 5)) s).entryOf? .a 1 = some ⟨1, ⟨14, false⟩, true⟩ ∧
        (next (.pollCompletion .a (reads 5)) s).nodeEntry? .a 0x21 = some ⟨.a, 0x21, .present, 1, 0, none⟩ ∧
        (next (.pollCompletion .a (refused 0x42 ++ [true])) s).nodeEntry? .a 0x21 = some ⟨.a, 0x21, .lost, 1, 8, none⟩ ∧
        (next (.pollCompletion .a (refused 0x42 ++ [true])) (nodeIs (fun e => { e with presence := .present, misses := 7 }) s)
          ).nodeEntry? .a 0x21 = some ⟨.a, 0x21, .lost, 1, 8, some ⟨1014, false⟩⟩) := by decide +kernel

theorem witness_ReadReportsTheRecordAndNeverVouchesForAnOldOrFailingValue :
    ((one id).ready .host = true ∧ (one id).point? 0 = some input) ∧
      (let v : StoredValue := ⟨1, 0, false⟩
      let pt := { input with value := some v, quality := .good }
      4 ≤ ({ pt with failures := 4 } : Point).failures ∧ pt.failures < 4 ∧ pt.command = none ∧ pt.staleLimit = some 2000 ∧
        (2000 : Interval).toNat ≤ v.age 2000 ∧ v.age 1999 < (2000 : Interval).toNat ∧ pt.reportedQuality 1999 = .good ∧
        input.quality = .empty) := by decide +kernel

theorem witness_NotificationRecordsFollowTheirTables :
    (QualityCause.staleLimit, (3 : Byte)) ∈ [(QualityCause.firstValue, 0), (.recovered, 1), (.failureLimit, 2), (.staleLimit, 3)] ∧
      (FreshOutcome.checkFail, (3 : Byte)) ∈ [(FreshOutcome.noNode, 1), (.noAccept, 2), (.checkFail, 3)] ∧
      (SegmentEvent.down, (2 : Byte)) ∈ [(SegmentEvent.up, 0), (.recovered, 1), (.down, 2)] := by decide

theorem witness_InquiriesAnswerFromTheRecordsAndChangeNone :
    (one id).ready .host = true ∧ (one id).point? 0 = some input ∧
      (16 : Byte).toNat = (List.replicate 16 (RawHandle.mk 0 0)).length ∧
      (let hs := List.replicate 47 (RawHandle.mk 0 0)
      (47 : Byte).toNat = hs.length ∧ 16 < hs.length ∧ hs.length ≤ 47) ∧ segmentOf 0 = some .a ∧
      0x10 ≤ (0x10 : Byte).toNat ∧ (0x6F : Byte).toNat ≤ 0x6F ∧
      (one id).nodeEntry? .a ((0x21 : Byte).truncate 7) = some ⟨.a, 0x21, .unconfirmed, 1, 0, none⟩ ∧
      (one id).nodeEntry? .a ((0x6F : Byte).truncate 7) = none ∧ (95 : Byte).toNat ≤ 95 ∧ 95 < (96 : Byte).toNat ∧
      2 ≤ (2 : Byte).toNat ∧ (0x0F : Byte).toNat < 0x10 ∧ 0x6F < (0x70 : Byte).toNat ∧ 1 ≤ (1 : Byte).toNat ∧
      (8 : Byte).toNat ≤ 8 ∧ 8 < (9 : Byte).toNat := by decide +kernel

theorem witness_TimeReportsTheRosterClock : (base 0).ready .host = true := by decide +kernel

theorem witness_ResponseBodiesFitAFrame : Request.time.wellFormed = true ∧ State.reset.directoryOk := by
  refine ⟨rfl, by decide, by decide, by simp [State.reset, State.afterReset], ?_⟩
  intro i a h
  exact absurd h (by rw [show State.reset.ident i = none from base_free 0 i]; simp)

theorem witness_RefreshBringsTheNextReadForward :
    (let s := one fun pt => { pt with inFlight := flight .poll 0 }
    s.ready .host = true ∧ s.point? 0 = some { input with inFlight := flight .poll 0 } ∧ input.state = .active ∧
      input.command = none) ∧
      (let s := scheduled .a 0 9 false (one id)
      s.point? 0 = some input ∧ input.inFlight = none ∧ s.entryOf? .a 0 = some ⟨0, ⟨9, false⟩, false⟩ ∧
        input.rhythmDue = none) ∧
      (let pt := { input with rhythmDue := some ⟨3, false⟩ }
      let s := scheduled .a 0 9 false (one fun _ => pt)
      s.point? 0 = some pt ∧ s.entryOf? .a 0 = some ⟨0, ⟨9, false⟩, false⟩ ∧ pt.rhythmDue = some ⟨3, false⟩) ∧
      (one id).entryOf? .a 0 = none := by decide +kernel

theorem witness_SetLimitsActsOnEachGroup :
    ((one id).ready .host = true ∧ (one id).point? 0 = some input ∧ input.command = none ∧ input.mayChange .host = true ∧
      (let f : LimitsFields := ⟨1, 5, 6, 1, 1, 0x7FFFFFFF⟩
      f.limitsAction.toNat < 3 ∧ f.deadbandAction.toNat < 3 ∧ asInt input.signed f.low < asInt input.signed f.high ∧
        (f.hysteresis.toNat : Int) ≤ asInt input.signed f.high - asInt input.signed f.low ∧ 1 ≤ f.deadband.toNat ∧
        f.deadband.toNat ≤ 2 ^ 31 - 1) ∧
      (let f : LimitsFields := ⟨1, 5, 5, 0, 1, 0⟩
      asInt input.signed f.high ≤ asInt input.signed f.low ∧ f.deadband = 0) ∧ 2 < (3 : Byte).toNat) ∧
      ∀ q, input.state ≠ .retiring q := ⟨by decide +kernel, not_retiring rfl⟩

theorem witness_WriteStoresTheValueByCommandState :
    (let s := fun state x => put 0 (out state x) (base 0)
    (s .held .noCommand).ready .host = true ∧ (s .held .noCommand).point? 0 = some (out .held .noCommand) ∧
      (out .held .noCommand).command ≠ none ∧ (out .held .noCommand).mayChange .host = true ∧
      (out .held .noCommand).width = .one ∧ (out .held .noCommand).signed = false ∧ ¬(256 : Value).toNat ≤ 255 ∧
      60000 < (60001 : Interval).toNat ∧ (255 : Value).toNat ≤ 255 ∧
      (60000 : Interval).toNat ≤ 60000 ∧ ((s .held .noCommand).stand 0).openValues = [] ∧
      ((s .active (.confirmed ⟨1, .host⟩)).stand 0).openValues = [] ∧
      (s .held (.pending ⟨1, .host⟩ none)).stand 0 = .pending ⟨1, .host⟩ none ∧
      (s .active (.queued ⟨1, .host⟩ none)).stand 0 = .queued ⟨1, .host⟩ none ∧
      (s .active (.writing ⟨1, .host⟩ none)).stand 0 = .writing ⟨1, .host⟩ none ∧
      (s .active (.verifying ⟨1, .host⟩ (some ⟨⟨2, .host⟩, none, false⟩))).stand 0 =
        .verifying ⟨1, .host⟩ (some ⟨⟨2, .host⟩, none, false⟩)) ∧
      ∀ q, (out .held .noCommand).state ≠ .retiring q := ⟨by decide +kernel, not_retiring rfl⟩

theorem witness_CancelWithdrawsWhatStillWaits :
    (let s := fun x => put 0 (out .active x) (base 0)
    (s .noCommand).ready .console = true ∧ (s .noCommand).point? 0 = some (out .active .noCommand) ∧
      (out .active .noCommand).command ≠ none ∧ (out .active .noCommand).mayChange .console = true ∧
      (s (.pending ⟨1, .host⟩ none)).stand 0 = .pending ⟨1, .host⟩ none ∧
      (s (.queued ⟨1, .host⟩ none)).stand 0 = .queued ⟨1, .host⟩ none ∧
      (s (.writing ⟨1, .host⟩ (some ⟨⟨2, .host⟩, none, false⟩))).stand 0 = .writing ⟨1, .host⟩ (some ⟨⟨2, .host⟩, none, false⟩) ∧
      (s (.verifying ⟨1, .host⟩ (some ⟨⟨2, .host⟩, none, false⟩))).stand 0 =
        .verifying ⟨1, .host⟩ (some ⟨⟨2, .host⟩, none, false⟩) ∧
      (s (.writing ⟨1, .host⟩ none)).stand 0 = .writing ⟨1, .host⟩ none) ∧
      ∀ q, (out .active .noCommand).state ≠ .retiring q := ⟨by decide +kernel, not_retiring rfl⟩

theorem witness_ClaimReleaseAndSubscribeActForTheRequestingPort :
    ((one id).ready .host = true ∧ (one id).point? 0 = some input ∧ input.owner ≠ some (Port.other .host) ∧
      (2 : Byte) ≠ 0 ∧ (2 : Byte) ≠ 1 ∧ ({ input with owner := some .console } : Point).owner = some (Port.other .host) ∧
      ({ input with owner := some .host } : Point).owner = some .host ∧ input.owner ≠ some .console ∧
      input.command = none ∧ (7 : Byte).toNat < 8 ∧ 8 ≤ (8 : Byte).toNat ∧ (out .active .noCommand).command ≠ none ∧
      (12 : Byte) ∈ [(0 : Byte), 4, 8, 12] ∧ (1 : Byte) ∉ [(0 : Byte), 4, 8, 12]) ∧
      ∀ q, input.state ≠ .retiring q := ⟨by decide +kernel, not_retiring rfl⟩

theorem witness_OfferedNotificationIsMadeOrMarked :
    (one id).point? 0 = some input ∧ ((one id).notifyOf .host).enabled = true ∧ ((one id).notifyOf .host).queue.length < 64 ∧
      (full.notifyOf .host).enabled = true ∧ 64 ≤ (full.notifyOf .host).queue.length ∧
      (((one id).setNotify .host { (one id).notifyOf .host with enabled := false }).notifyOf .host).enabled = false ∧
      notes .host (closeCommand 0 ⟨1, .host⟩ .withdrawn (one id)) = [.command ⟨0, 0⟩ 1 .withdrawn] ∧
      notes .console (closeCommand 0 ⟨1, .host⟩ .withdrawn (one id)) = [] ∧
      notes .host (offerNodeEvents (.node .strayAlert .a 0x21) (one id)) = [] := by
  decide +kernel

theorem witness_AckRemovesEntriesAndDrainsTheMarks :
    full.ready .host = true ∧ (full.notifyOf .host).queue = [] ++ ⟨1000, 0, .retired ⟨0, 0⟩⟩ :: numbered 1001 63 ∧
      (∀ e ∈ (full.notifyOf .host).queue, e.seq ≠ 999) ∧ (full.notifyOf .host).queue.length ≤ 64 := by decide +kernel

theorem witness_PortSetActsOnItsOwnPort :
    full.ready .host = true ∧ (2 : Byte).toNat < 3 ∧ 2 < (3 : Byte).toNat ∧ (full.notifyOf .host).enabled = true := by
  decide +kernel

/-- The full records with a read of segment A on the wires and a roll of segment B in its line check. -/
def engaged : State := checked .b .roll 70109 (wires .a reading 70109 full)

theorem witness_ClearEmptiesTheRecords :
    engaged.ready .host = true ∧ engaged.ready .console = true ∧
      (engaged.segment .a).transaction = some ⟨reading, .onWires 70109 70110 .first, false⟩ ∧
      (engaged.segment .b).transaction = some ⟨.roll, .lineCheck 70109, false⟩ := by decide +kernel

theorem witness_EnableAndSetSpeedFollowTheSegmentState :
    State.reset.ready .host = true ∧ segmentOf 1 = some .b ∧ (State.reset.segment .b).state = .off ∧ speedOf 1 = some .kbit400 ∧
      ((base 0).segment .b).state ≠ .off ∧ 2 ≤ (2 : Byte).toNat ∧ 4 ≤ (4 : Byte).toNat := by decide +kernel

theorem witness_DisableAndRestartAbandonTheTransaction :
    (engaged.ready .host = true ∧ segmentOf 0 = some .a ∧ (engaged.segment .a).state = .up ∧
      (engaged.segment .a).transaction = some ⟨reading, .onWires 70109 70110 .first, false⟩) ∧
      (State.reset.ready .host = true ∧ (State.reset.segment .a).state = .off) ∧
      (recovering .timeout 1 0).ready .host = true ∧ ((recovering .timeout 1 0).segment .a).state = .recovering ∧
      ((scanning 0x30 []).segment .b).scan = ⟨.running ⟨.console, 0x30, 0x34⟩ 0x30, []⟩ := by
  decide +kernel

theorem witness_ScanReplacesTheScanContext :
    (base 0).ready .host = true ∧ segmentOf 1 = some .b ∧ 2 ≤ (2 : Byte).toNat ∧ (0x0F : Byte).toNat < 0x10 ∧ 0x6F < (0x70 : Byte).toNat ∧
      (State.reset.segment .b).state = .off ∧ ((base 0).segment .b).state = .up ∧
      ((scanning 0x30 []).segment .b).scan.state = .running ⟨.console, 0x30, 0x34⟩ 0x30 ∧
      ((base 0).segment .b).scan.state = .idle := by decide +kernel

theorem witness_RecoveryAttemptsFollowTheirStepsAndTheirEnds :
    (heldLow.fcRises = false ∧ free.fcRises = true ∧ free.fd = true ∧
      (let r : RecoveryReads := ⟨true, false, List.replicate 11 (some false) ++ [some true], some true, true, true⟩
      r.fd = false ∧ 11 < 12 ∧ r.pulses = List.replicate 11 (some false) ++ some true :: []) ∧
      (let r : RecoveryReads := ⟨true, false, [none], none, true, false⟩
      r.pulses = List.replicate 0 (some false) ++ none :: []) ∧
      (let r : RecoveryReads := ⟨true, false, List.replicate 12 (some false), none, true, false⟩
      r.pulses = List.replicate 12 (some false) ++ [])) ∧
      (let s := recovering .contest 1 0
      (s.segment .a).state = .recovering ∧ (s.segment .a).cause = some .contest ∧ (s.segment .a).retryTime = none ∧
        (s.segment .a).attempts < 2) ∧
      attemptResult free = some true ∧ attemptResult heldLow = some false ∧
      2 ≤ ((recovering .contest 2 0).segment .a).attempts ∧
      (let s := (recovering .contest 1 60).modSegment .a fun x => { x with retryTime := some 60 }
      (s.segment .a).retryTime = some 60 ∧ reached 60 s.clock = true) := by decide +kernel

theorem witness_HostTransactionsFollowTheirFirstByte :
    ({ base 0 with hostRx := .ignoring } : State).hostRx = .ignoring ∧ (base 0).hostRx ≠ .ignoring ∧
      (base 0).inReset = false ∧ (base 0).heldInReset.inReset = true ∧
      ((0x00 : Byte) ≠ 0xA5 ∧ (0x00 : Byte) ≠ 0x5A ∧ ([1, 2] : List Byte).length < 3 ∧ (96 : Byte).toNat ≤ 96 ∧
        (List.replicate 97 (0 : Byte)).length < (96 : Byte).toNat + 2 ∧ 96 < (97 : Byte).toNat) ∧
      (let s := next (.release .host 1 ⟨0, 0⟩) (base 0)
      ((base 0).portOf .host).response = none ∧ s.hostRx ≠ .ignoring ∧
        (s.portOf .host).response = some ⟨1, .badHandle, false, false, []⟩ ∧
        6 ≤ (ResponseFrame.mk 1 .badHandle false false []).bytes.length ∧
        (ResponseFrame.mk 1 .badHandle false false []).bytes.length < 7) ∧
      (((base 0).portOf .host).request = none ∧ (List.replicate 96 (0 : Byte)).length = (96 : Byte).toNat ∧
        ([] : List Byte).length = (0 : Byte).toNat) := by decide +kernel

/-- R177, R180: a frame of an unknown kind with a CRC that differs is stored and the byte behind it ignored; a second one is
dropped. -/
theorem test_host_frame_is_stored_unjudged :
    (let s := next (.hostRequestTransaction [0xA5, 1, 0xEE, 0, 0x12, 0x34, 0x77]) (base 0)
    (s.portOf .host).request = some ⟨1, 0xEE, [], 0x1234⟩ ∧ (s.portOf .host).dropped = false ∧ s.hostRx = .idle ∧
      (let t := next (.hostRequestTransaction [0xA5, 2, 1, 0, 0, 0]) s
      (t.portOf .host).request = some ⟨1, 0xEE, [], 0x1234⟩ ∧ (t.portOf .host).dropped = true)) := by decide +kernel

theorem witness_ConsolePortFollowsItsTables :
    (base 0).assembly = .hunt ∧ (base 0).inReset = false ∧ (base 0).heldInReset.inReset = true ∧ (0xC3 : Byte) = 0xC3 ∧ (0xC2 : Byte) ≠ 0xC3 ∧
      (let s := fun x => ({ base 5 with assembly := x, gapDue := some 5 } : State)
      (s (.header [1])).assembly = .header [1] ∧ (s (.header [1, 2])).assembly = .header [1, 2] ∧
        1 ≤ (96 : Byte).toNat ∧ (96 : Byte).toNat ≤ 96 ∧ 96 < (97 : Byte).toNat ∧
        (s (.body 1 2 2 [])).assembly = .body 1 2 2 [] ∧ (s (.body 1 2 1 [])).assembly = .body 1 2 1 [] ∧
        (s (.crc 1 2 [] none)).assembly = .crc 1 2 [] none ∧ (s (.crc 1 2 [] (some 3))).assembly = .crc 1 2 [] (some 3) ∧
        (s .skip).assembly = .skip ∧ (s .skip).gapDue = some 5 ∧ reached 5 (s .skip).clock = true) ∧
      ((next (.release .console 1 ⟨0, 0⟩) (base 0)).portOf .console).response = some ⟨1, .badHandle, false, false, []⟩ := by
  decide +kernel

theorem witness_RequestUnitServesThePortsInTurn :
    (let s := (base 0).storeRequest .host (frameOf 1 .time)
    (s.portOf .host).request = some (frameOf 1 .time) ∧ (s.portOf .host).response = none ∧ s.lastServed = Port.other .host ∧
      (s.portOf (Port.other .host)).request = none ∧ ∀ a ∈ [frameOf 2 .time], a.body.length ≤ 96) ∧
      ((base 0).portOf .host).request = none ∧ ((base 0).portOf .console).request = none := by decide +kernel

/-- The bits of a byte pass with an answer in its acceptance bit. -/
theorem answered_bits (b : Byte) (refuse : Bool) : answered b refuse (bitsOf b ++ [refuse]) := by
  refine ⟨_, rfl, rfl, fun k hk hb => ?_⟩
  match k, hk with
  | 0, _ | 1, _ | 2, _ | 3, _ | 4, _ | 5, _ | 6, _ | 7, _ => exact congrArg some hb

/-- Bytes pass one after the other, each accepted. -/
theorem accepted_bits (bytes : List Byte) : accepted bytes (bytes.flatMap taken) := by
  induction bytes with
  | nil => rfl
  | cons b rest ih => exact ⟨_, _, rfl, answered_bits b false, ih⟩

/-- A byte whose first 1 is bit `n` is fought in it. -/
theorem fights_at (b : Byte) (n : Nat) (hn : n < 8) (h : ∀ k, k < n → wireBit b k = false) (k : wireBit b n = true) :
    fights b (List.replicate n false ++ [false]) :=
  ⟨_, rfl, by simpa using hn, fun j hj hb => absurd hb (by simp [h j (by simpa using hj)]), by simpa using k⟩

/-- 0x42, the address byte of node 0x21 with direction write, is fought in its second bit. -/
theorem fights_address : fights 0x42 [false, false] := fights_at 0x42 1 (by decide) (by decide) rfl

theorem witness_EngineDrivesTheLinesCycleByCycle :
    ((base 0).segment .a).transaction = none ∧
      (engaged.segment .b).transaction = some ⟨.roll, .lineCheck 70109, false⟩ ∧
      (∀ pos ∈ [.sending 0 7, .sending 0 8, .restart, .receiving [0, 0xC8] (List.replicate 8 true), LinkPos.stop .noNode],
        (((base 5).modSegment .a fun x => { x with transaction := some ⟨reading, .onWires 5 5 pos, false⟩ }).segment .a).transaction
          = some ⟨reading, .onWires 5 5 pos, false⟩) := by decide +kernel

theorem witness_ReadEndsByItsTableOnTheWires :
    (answered 0x42 true (refused 0x42) ∧ answered 0x42 false (taken 0x42) ∧ fights 0x42 [false, false] ∧
      answered 0x04 true (refused 0x04) ∧ answered 0x04 false (taken 0x04) ∧ fights 0x04 (List.replicate 5 false ++ [false]) ∧
      answered 0x43 true (refused 0x43) ∧ answered 0x43 false (taken 0x43) ∧ fights 0x43 [false, false]) ∧
      nodesSend ([0x00, 0xC8] ++ [0xDD]) (taken 0x00 ++ taken 0xC8 ++ refused 0xDD) ∧ [(0x00 : Byte), 0xC8].length = 2 ∧
      ((0x21 : Address) ++ (0 : BitVec 1) : Byte) = 0x42 ∧ ((0x21 : Address) ++ (1 : BitVec 1) : Byte) = 0x43 ∧
      (List.replicate 8 true).length = 8 :=
  ⟨⟨answered_bits _ _, answered_bits _ _, fights_address, answered_bits _ _, answered_bits _ _,
      fights_at _ 5 (by decide) (by decide) rfl, answered_bits _ _, answered_bits _ _, fights_at 0x43 1 (by decide) (by decide) rfl⟩,
    ⟨false, _, rfl, false, _, rfl, true, _, rfl, rfl⟩, rfl, rfl,
    rfl, rfl⟩

theorem witness_WriteEndsByItsTableOnTheWires :
    (let bytes := [0x42, 0x09] ++ [0x28] ++ [crc8 ([0x42, 0x09] ++ [0x28])]
    accepted bytes (bytes.flatMap taken) ∧ bytes = [] ++ 0x42 :: [0x09, 0x28, 0x35] ∧ accepted [] [] ∧
      answered 0x42 true (refused 0x42) ∧ fights 0x42 [false, false] ∧
      bytes = [0x42, 0x09, 0x28] ++ 0x35 :: [] ∧ accepted [0x42, 0x09, 0x28] ([0x42, 0x09, 0x28].flatMap taken) ∧
      answered 0x35 true (refused 0x35) ∧ fights 0x35 (List.replicate 2 false ++ [false])) :=
  ⟨accepted_bits _, by decide +kernel, rfl, answered_bits _ _, fights_address, by decide +kernel, accepted_bits _,
    answered_bits _ _, fights_at _ 2 (by decide) (by decide) rfl⟩

theorem witness_ProbeEndsByItsTableOnTheWires :
    Work.probe 0x21 ∈ [Work.probe 0x21, .scanStep 0x21] ∧ ((0x21 : Address) ++ (0 : BitVec 1) : Byte) = 0x42 ∧
      answered 0x42 false (taken 0x42) ∧ answered 0x42 true (refused 0x42) ∧ fights 0x42 [false, false] :=
  ⟨by decide, rfl, answered_bits _ _, answered_bits _ _, fights_address⟩

theorem witness_RollEndsByItsTableOnTheWires :
    (answered 0x11 true (refused 0x11) ∧ answered 0x11 false (taken 0x11) ∧
      fights 0x11 (List.replicate 3 false ++ [false])) ∧
      nodesSend [0x43, 0xCE] (taken 0x43 ++ refused 0xCE) ∧ nodesSend [0x1F, 0xFF] (taken 0x1F ++ refused 0xFF) ∧
      ((0x43 : Byte).getLsbD 0 = true ∧ 0x10 ≤ (0x43 : Byte).toNat / 2 ∧ (0x43 : Byte).toNat / 2 ≤ 0x6F ∧ 0xCE = crc8 [0x43]) ∧
      (0x1F : Byte).toNat / 2 < 0x10 :=
  ⟨⟨answered_bits _ _, answered_bits _ _, fights_at _ 3 (by decide) (by decide) rfl⟩,
    ⟨false, _, rfl, true, _, rfl, rfl⟩, ⟨false, _, rfl, true, _, rfl, rfl⟩, by decide +kernel, by decide⟩

/-- Segment A with a QUEUED OUTPUT in slot 2 and a due INPUT in slot 0. -/
def busy (fairness : Nat) : State :=
  (scheduled .a 0 0 true (put 2 (out .active (.queued ⟨7, .host⟩ none)) (one id))).modSegment .a fun x =>
    { x with commandQueue := [2], fairness := fairness }

/-- A slot of a state whose table holds at most the points of slots 0 and 2. -/
theorem lookup {s : State} {x y : Slot} (h : s.slots = ((Vector.replicate 256 Slot.reset).set 0 x).set 2 y) (i : SlotNo) :
    s.point? i = if i = 2 then y.point else if i = 0 then x.point else none := by
  have e2 : (i = 2) = (2 = i.val) := by rw [Fin.ext_iff]; exact propext eq_comm
  have e0 : (i = 0) = (0 = i.val) := by rw [Fin.ext_iff]; exact propext eq_comm
  simp only [State.point?, h, Fin.getElem_fin, Vector.getElem_set, Vector.getElem_replicate, e2, e0]
  split
  · rfl
  · split <;> rfl

/-- The point of a slot owes a verification read that has not started (R134). -/
def owes (g : SegId) (s : State) (i : SlotNo) : Prop :=
  ∃ pt cmd v next, s.point? i = some pt ∧ pt.segment = g ∧ pt.command = some cmd ∧ cmd.stand = .verifying v next ∧
    ∀ f, pt.inFlight = some f → f.kind ≠ .verify

/-- No verification is owed where no point of slots 0 and 2 is VERIFYING. -/
theorem none_owes {s : State} {x y : Slot} {g : SegId} (h : s.slots = ((Vector.replicate 256 Slot.reset).set 0 x).set 2 y)
    (hx : x.point.any (fun pt => pt.command.any (·.stand.code == .verifying)) = false)
    (hy : y.point.any (fun pt => pt.command.any (·.stand.code == .verifying)) = false) : ∀ i, ¬owes g s i := by
  rintro i ⟨pt, cmd, v, next, hp, -, hc, hs, -⟩
  rw [lookup h] at hp
  have : ∀ o : Option Point, o.any (fun pt => pt.command.any (·.stand.code == .verifying)) = false → o ≠ some pt := by
    rintro o k rfl
    simp only [Option.any_some, hc, hs, Stand.code] at k
    exact absurd k (by decide)
  split at hp
  · exact this _ hy hp
  · split at hp
    · exact this _ hx hp
    · cases hp

theorem busy_owes (n : Nat) : ∀ i, ¬owes .a (busy n) i :=
  none_owes (x := ⟨0, some input⟩) (y := ⟨0, some (out .active (.queued ⟨7, .host⟩ none))⟩) rfl rfl rfl

/-- The base state with the ACTIVE INPUT of slot 0 and an empty slot 2. -/
def lone : State := (one id).setSlot 2 Slot.reset

theorem lone_owes (f : Segment → Segment) : ∀ i, ¬owes .a (lone.modSegment .a f) i :=
  none_owes (x := ⟨0, some input⟩) (y := Slot.reset) rfl rfl rfl

/-- A command whose point is HELD stands in the queue before a due poll. -/
def refusing : State :=
  (scheduled .a 0 0 true (put 2 (out .held (.queued ⟨7, .host⟩ none)) (one id))).modSegment .a fun x =>
    { x with commandQueue := [2] }

theorem witness_ArbiterChoosesInItsOrder :
    (let s := delivering (.verifying ⟨7, .host⟩ none) 0 none 0
    (∃ pt, s.point? 2 = some pt ∧ pt.segment = .a ∧ pt.awaitsVerify = true)) ∧
      ((∀ i, ¬owes .a (busy 3) i) ∧ (∀ i, ¬owes .a (busy 4) i) ∧ ∀ f i, ¬owes .a (lone.modSegment .a f) i) ∧
      ((busy 3).segment .a).commandQueue = [] ++ 2 :: [] ∧ (busy 3).point? 2 = some (out .active (.queued ⟨7, .host⟩ none)) ∧
      (busy 3).nodeLost .a 0x21 = false ∧ ((busy 3).segment .a).fairness < 4 ∧ 4 ≤ ((busy 4).segment .a).fairness ∧
      ((busy 4).segment .a).schedule = [] ++ ⟨0, ⟨0, false⟩, true⟩ :: [] ∧
      ((lone.segment .a).commandQueue = [] ∧ (lone.segment .a).suppression = none ∧ (lone.segment .a).lines.fa = true ∧
        (lone.segment .a).schedule = [] ∧ lone.directory.countP (·.presence = .lost) = 0 ∧
        (lone.segment .a).scan.state = .idle) ∧
      (let e : NodeEntry := ⟨.a, 0x21, .lost, 1, 8, some ⟨0, true⟩⟩
      (nodeIs (fun _ => e) lone).directory = [e] ∧ [e].Pairwise (fun e f => e.before f = true)) ∧
      ((scanning 0x30 []).segment .b).scan.state = .running ⟨.console, 0x30, 0x34⟩ 0x30 ∧
      ((refusing.segment .a).state = .up ∧ (refusing.segment .a).transaction = none ∧
        refusing.candidates .a = [.command 2] ++ .poll 0 :: [] ∧ (claimStart .a (.command 2) refusing).isNone = true ∧
        (claimStart .a (.poll 0) refusing).isSome = true) ∧
      (let s := refusing.modSegment .a fun x => { x with schedule := [] }
      s.candidates .a = [.command 2] ∧ (claimStart .a (.command 2) s).isNone = true) :=
  ⟨⟨_, rfl, rfl, rfl⟩, ⟨busy_owes 3, busy_owes 4, lone_owes⟩, by decide +kernel⟩

theorem witness_GrantedStartTakesThePointFromItsCollection :
    let free : Lines := ⟨true, true, true⟩
    let held : Lines := ⟨true, false, true⟩
    (((busy 3).setLines .a free).candidates .a).head? = some (.command 2) ∧
      (((busy 4).setLines .a held).candidates .a).head? = some (.poll 0) ∧
      ((lone.setLines .a ⟨true, true, false⟩).candidates .a).head? = some .roll ∧
      (((delivering (.verifying ⟨7, .host⟩ none) 0 none 0).setLines .a free).candidates .a).head? = some (.verify 2) ∧
      ((delivering (.verifying ⟨7, .host⟩ none) 0 none 0).point? 2).map (·.inFlight) = some none ∧
      (let s := nodeIs (fun e => { e with presence := .lost, misses := 8, probe := some ⟨0, true⟩ }) lone
      ((s.setLines .a free).candidates .a).head? = some (.probe 0x21) ∧
        s.nodeEntry? .a 0x21 = some ⟨.a, 0x21, .lost, 1, 8, some ⟨0, true⟩⟩) ∧
      (let s := (base 0).modSegment .b fun y => { y with scan := ⟨.running ⟨.console, 0x30, 0x34⟩ 0x30, []⟩ }
      ((s.setLines .b held).candidates .b).head? = some (.scanStep 0x30)) ∧
      (State.reset.segment .a).state ≠ .up ∧ ((busy 3).segment .a).state = .up ∧ ((busy 3).segment .a).transaction = none ∧
      (busy 3).point? 2 = some (out .active (.queued ⟨7, .host⟩ none)) ∧ (busy 3).stand 2 = .queued ⟨7, .host⟩ none ∧
      (busy 4).point? 0 = some input ∧ input.state = .active ∧ input.inFlight = none ∧
      (busy 4).entryOf? .a 0 = some ⟨0, ⟨0, false⟩, true⟩ := by decide +kernel

theorem witness_LineEventsMoveTheTransactionOn :
    (let s := fun now => checked .a .roll 10 (base now)
    ((s 12).segment .a).transaction = some ⟨.roll, .lineCheck 10, false⟩ ∧ laterThan (s 12).clock (10 + 2) = false ∧
      laterThan (s 13).clock (10 + 2) = true) ∧
      (∀ w ∈ [reading, writing 7, .probe 0x21, .scanStep 0x21, .roll],
        ((wires .a w 10 (base 11)).segment .a).transaction = some ⟨w, .onWires 10 11 .first, false⟩ ∧ [true] ≠ [] ∧
          w.afterCycles false .first [true] = .going (.sending 0 1)) := by decide +kernel

theorem witness_SegmentFaultsBeginARecovery :
    ((((checked .a .roll 10 (base 12)).segment .a).transaction = some ⟨.roll, .lineCheck 10, false⟩ ∧
      reached (10 + 2) (checked .a .roll 10 (base 12)).clock = true ∧ reached (10 + 2) (base 11).clock = false) ∧
      (((wires .a .roll 10 (base 30)).segment .a).transaction = some ⟨.roll, .onWires 10 30 .first, false⟩ ∧
      reached (10 + 20) (wires .a .roll 10 (base 30)).clock = true ∧ reached (30 + 2) (base 30).clock = false ∧
      reached (30 + 2) (base 32).clock = true) ∧
      (∀ pos ∈ [.sending 1 0, .sending 1 8, .sending 0 1, .restart, .receiving [0] [], .receiving [0] [true, true],
          LinkPos.stop .noNode],
        (((base 0).modSegment .a fun x => { x with transaction := some ⟨reading, .onWires 0 0 pos, true⟩ }).segment .a).transaction
          = some ⟨reading, .onWires 0 0 pos, true⟩) ∧ TxOutcome.noNode.fault? = none) ∧
      reading.sends.getD 1 0 = 0x04 ∧ reading.sends.getD 0 0 = 0x42 ∧ answered 0x04 true (refused 0x04) ∧
      answered 0x04 false (taken 0x04) ∧ fights 0x42 [false, false] ∧ nodesSend [0xC8] (refused 0xC8) ∧
      (taken 0x04 = bitsOf 0x04 ++ [false] ∧ (bitsOf 0x04).length = 8) ∧ [false, false] = [false] ++ [false] ∧
      refused 0xC8 = [true, true] ++ ([false, false, true, false, false, false] ++ [true]) :=
  ⟨by decide +kernel, rfl, rfl, answered_bits _ _, answered_bits _ _, fights_address, ⟨true, _, rfl, rfl⟩, ⟨rfl, rfl⟩,
    rfl, rfl⟩

/-- A transaction of slot 2's OUTPUT in flight, a WRITE or a VERIFY by where its command stands. -/
def servicing (w : Work) (x : Stand) : State := wires .a w 0 (delivering x 0 (flight .write 0) 2)

theorem witness_FaultsAndAbandonmentsReachTheRecords :
    ((((checked .a .roll 10 (base 12)).segment .a).transaction = some ⟨.roll, .lineCheck 10, false⟩ ∧
        reached (10 + 2) (base 12).clock = true) ∧
      (((scanning 0x30 []).segment .b).transaction = some ⟨.scanStep 0x30, .onWires 40000 40001 .first, false⟩ ∧
        reached (40001 + 2) (base 40003).clock = true ∧ reached (40000 + 20) (base 40020).clock = true) ∧
      ((wires .a (.probe 0x21) 0 (base 0)).segment .a).transaction = some ⟨.probe 0x21, .onWires 0 0 .first, false⟩) ∧
      ((atStep12.segment .b).transaction = some ⟨.read .poll 1 0x30 0 .four, .onWires 7 7 .first, false⟩ ∧
        (atStep12.point? 1).map (fun pt => (pt.state, pt.segment)) = some (.retiring .host, .b)) ∧
      (let s := polling .poll 10 12 input
      (s.segment .a).transaction = some ⟨reading, .onWires 10 12 .first, false⟩ ∧
        (s.point? 0).map (·.segment) = some .a ∧ ReadKind.poll ≠ .verify) ∧
      (let next : Option NextValue := some ⟨⟨8, .host⟩, none, true⟩
      (∀ x ∈ [.writing ⟨7, .host⟩ none, .writing ⟨7, .host⟩ next], (servicing (writing 7) x).stand 2 = x) ∧
        (∀ x ∈ [.verifying ⟨7, .host⟩ none, Stand.verifying ⟨7, .host⟩ (some ⟨⟨8, .host⟩, none, false⟩)],
          (servicing verification x).stand 2 = x) ∧
        ((servicing (writing 7) (.writing ⟨7, .host⟩ next)).point? 2).map (·.segment) = some .a ∧
        ((servicing verification (.verifying ⟨7, .host⟩ none)).segment .a).transaction
          = some ⟨verification, .onWires 0 2 .first, false⟩) ∧
      ∀ q, input.state ≠ .retiring q :=
  ⟨by decide +kernel, by decide +kernel, by decide +kernel, by decide +kernel, not_retiring rfl⟩

/-- A node whose entry has missed nothing neither returns nor is lost by an outcome. -/
theorem node_stays (s : State) (h : s.nodeEntry? .a 0x21 = some ⟨.a, 0x21, .unconfirmed, 1, 0, none⟩) (o : TxOutcome) :
    s.nodeStays .a 0x21 o := by
  intro e k
  rw [h] at k
  cases k
  exact ⟨fun _ => .inr (by decide), fun _ _ => by decide⟩

/-- The read of a poll that the node accepts, refuses and garbles. -/
theorem witness_ReadOutcomesReachThePointsRecord :
    (let s := polling .poll 10 14 input
    (s.segment .a).transaction = some ⟨reading, .onWires 10 14 .first, false⟩ ∧
      reading.afterCycles false .first (reads 5) = .ended (.done [0, 5]) ∧
      reading.afterCycles false .first (refused 0x42 ++ [true]) = .ended .noNode ∧
      reading.afterCycles false .first [false, false] = .ended .contest ∧ TxOutcome.contest.fault? = some .contest ∧
      (s.point? 0).map (·.state) = some .active) ∧
      (let cmd : Command := { stand := .confirmed ⟨1, .host⟩, attempts := 0, confirmedValue := some 1, restore := true }
      let s := polling .guard 10 14 { input with command := some cmd }
      (s.segment .a).transaction = some ⟨.read .guard 0 0x21 4 .two, .onWires 10 14 .first, false⟩ ∧
        (Work.read .guard 0 0x21 4 .two).afterCycles false .first (reads 5) = .ended (.done [0, 5]) ∧
        (s.point? 0).map (·.command) = some (some cmd)) ∧
      ((polling .refreshPoll 10 14 input).segment .a).transaction
        = some ⟨.read .refreshPoll 0 0x21 4 .two, .onWires 10 14 .first, false⟩ ∧
      ((polling .poll 10 14 { input with state := .held }).point? 0).map (·.state) = some .held ∧
      (∀ o, (polling .poll 10 14 { input with state := .held }).nodeStays .a 0x21 o) ∧
      ∀ q, input.state ≠ .retiring q :=
  ⟨by decide +kernel, by decide +kernel, by decide +kernel, by decide +kernel, node_stays _ (by decide +kernel),
    not_retiring rfl⟩

/-- R53, R88: a POLL clears both fresh wanted flags, a GUARD keeps them; its restore goes to the tail of the command queue. -/
theorem test_fresh_flags_and_restore :
    (let t := next (.pollCompletion .a (reads 5)) (polling .poll 10 14 { input with fresh := ⟨true, true⟩ })
    (t.point? 0).map (·.fresh) = some ⟨false, false⟩) ∧
      (let cmd : Command := { stand := .confirmed ⟨1, .host⟩, attempts := 0, confirmedValue := some 1, restore := true }
      let s := polling .guard 10 14 { input with command := some cmd, fresh := ⟨true, false⟩ }
      let t := next (.guardCompletion .a (reads 5)) (s.modSegment .a fun x => { x with commandQueue := [7] })
      (t.point? 0).map (·.fresh) = some ⟨true, false⟩ ∧ (t.segment .a).commandQueue = [7, 0]) := by decide +kernel

theorem witness_ReadCompletionNotifiesInOrder :
    (let s := polling .poll 10 14 input
    ((s.segment .a).transaction = some ⟨reading, .onWires 10 14 .first, false⟩ ∧
      reading.afterCycles false .first (reads 5) = .ended (.done [0, 5]) ∧
      reading.afterCycles false .first (refused 0x42 ++ [true]) = .ended .noNode ∧
      reading.afterCycles false .first [false, false] = .ended .contest ∧
      (s.notifyOf .host).enabled = true ∧ (s.notifyOf .host).queue.length ≤ 59) ∧
      ∀ o, s.nodeStays .a 0x21 o) ∧
      (TxOutcome.noNode, FreshOutcome.noNode) ∈
        [(TxOutcome.noNode, .noNode), (.noAccept, .noAccept), (.checkFail, FreshOutcome.checkFail)] ∧
      ∀ q, input.state ≠ .retiring q := by
  exact ⟨⟨by decide +kernel, node_stays _ (by decide +kernel)⟩, by decide, not_retiring rfl⟩

theorem witness_ReadsReenterTheScheduleByTheirRhythm :
    (let pt := { input with staleLimit := some 1200, inFlight := flight .refreshPoll 10, rhythmDue := some ⟨400, false⟩
                            subscriptions := ⟨SubSet.ofByte 4, SubSet.ofByte 0⟩ }
    let s := polling .refreshPoll 10 14 pt
    let work : Work := .read .refreshPoll 0 0x21 4 .two
    (s.segment .a).transaction = some ⟨work, .onWires 10 14 .first, false⟩ ∧ s.point? 0 = some pt ∧
      pt.state = .active ∧ pt.period = some 500 ∧ pt.inFlight = some ⟨.refreshPoll, some ⟨10, false⟩⟩ ∧
      s.entryOf? .a 0 = none ∧ work.afterCycles false .first (reads 5) = .ended (.done [0, 5]) ∧
      (next (.refreshPollCompletion .a (reads 5)) s).nodeLost .a 0x21 = false ∧
      (next (.refreshPollCompletion .a (refused 0x42 ++ [true]))
        (nodeIs (fun e => { e with misses := 7 }) s)).nodeLost .a 0x21 = true ∧
      laterThan (after 10 500) 509 = true ∧ laterThan (after 10 500) 510 = false ∧ (500 : Interval) ≠ 0 ∧
      laterThan 400 s.clock = true ∧
      ((next (.refreshPollCompletion .a (reads 5)) s).entryOf? .a 0).map (·.marked) = some false) := by decide +kernel

theorem witness_DeliveryStepMovesTheCommand :
    (let s := wires .a (writing 7) 0 (delivering (.writing ⟨7, .host⟩ none) 2 (flight .write 0) 1)
    (s.segment .a).transaction = some ⟨writing 7, .onWires 0 1 .first, false⟩ ∧ s.stand 2 = .writing ⟨7, .host⟩ none ∧
      s.attempts 2 = 2 ∧
      (writing 7).afterCycles false .first (taken 0x42 ++ taken 9 ++ taken 7 ++ taken (crc8 [0x42, 9, 7]) ++ [true])
        = .ended (.done []) ∧
      (writing 7).afterCycles false .first (refused 0x42 ++ [true]) = .ended .noNode ∧
      (writing 7).afterCycles false .first (taken 0x42 ++ refused 9 ++ [true]) = .ended .noAccept ∧
      (writing 7).afterCycles false .first [false, false] = .ended .contest) ∧
      (let s := wires .a verification 0
        (delivering (.verifying ⟨7, .host⟩ (some ⟨⟨8, .host⟩, none, true⟩)) 0 (flight .verify 0) 1)
      (s.segment .a).transaction = some ⟨verification, .onWires 0 1 .first, false⟩ ∧
        s.stand 2 = .verifying ⟨7, .host⟩ (some ⟨⟨8, .host⟩, none, true⟩) ∧
        verification.afterCycles false .first (verifies 7) = .ended (.done [7]) ∧
        verification.afterCycles false .first (taken 0x42 ++ taken 9 ++ [true] ++ taken 0x43 ++ taken 7 ++ refused 0 ++ [true])
          = .ended .checkFail ∧
        (s.notifyOf .host).enabled = true ∧ (s.notifyOf .host).queue.length + s.pointsNaming .a 0x21 + 4 ≤ 64 ∧
        s.nodeEntry? .a 0x21 = some ⟨.a, 0x21, .unconfirmed, 1, 0, none⟩ ∧
        s.nodeStays .a 0x21 (.done [7]) ∧
        notes .host (next (.verifyCompletion .a (verifies 7)) s) =
          [.command ⟨2, 0⟩ 7 (.confirmed 0), .command ⟨2, 0⟩ 8 (.failed .expired 0)]) ∧
      (let pt := { output (.writing ⟨7, .host⟩ none) with period := some 500, inFlight := flight .write 0 }
      let s := wires .a (writing 7) 0 (put 2 pt (base 1))
      s.point? 2 = some pt ∧ pt.inFlight = some ⟨.write, some ⟨0, false⟩⟩ ∧ pt.period = some 500 ∧ pt.state = .active ∧
        s.entryOf? .a 2 = none ∧
        (next (.writeCompletion .a (refused 0x42 ++ [true])) (nodeIs (fun e => { e with misses := 7 }) s)).nodeLost .a 0x21 = true ∧
        (next (.writeCompletion .a (refused 0x42 ++ [true])) s).nodeLost .a 0x21 = false) ∧
      ∀ q, (output (.writing ⟨7, .host⟩ none)).state ≠ .retiring q :=
  ⟨by decide +kernel,
    ⟨by decide +kernel, by decide +kernel, by decide +kernel, by decide +kernel, by decide +kernel, by decide +kernel,
      by decide +kernel, node_stays _ (by decide +kernel) _, by decide +kernel⟩,
    by decide +kernel, not_retiring rfl⟩

theorem witness_NodeEntryCountsTheOutcomes :
    (let s := wires .a (.probe 0x21) 0 (nodeIs (fun e => { e with presence := .lost, misses := 8 }) (one id))
    (s.segment .a).transaction = some ⟨.probe 0x21, .onWires 0 0 .first, false⟩ ∧
      s.nodeEntry? .a 0x21 = some ⟨.a, 0x21, .lost, 1, 8, none⟩ ∧
      (Work.probe 0x21).afterCycles false .first (taken 0x42 ++ [true]) = .ended (.done []) ∧
      (Work.probe 0x21).afterCycles false .first (refused 0x42 ++ [true]) = .ended .noNode ∧
      (Work.probe 0x21).afterCycles false .first [false, false] = .ended .contest ∧
      (one id).entryOf? .a 0 = none ∧ input.names .a 0x21 = true ∧
      (s.notifyOf .host).enabled = true ∧ (s.notifyOf .host).nodeEvents = true ∧ (s.notifyOf .host).queue.length < 64) ∧
      (let s := wires .a (.scanStep 0x21) 0 (nodeIs (fun e => { e with misses := 6 }) (one id))
      (s.segment .a).transaction = some ⟨.scanStep 0x21, .onWires 0 0 .first, false⟩ ∧
        s.nodeEntry? .a 0x21 = some ⟨.a, 0x21, .unconfirmed, 1, 6, none⟩) ∧
      (let waits := { input with item := 5, fresh := ⟨true, false⟩ }
      let s := nodeIs (fun e => { e with misses := 7 }) (put 1 waits (polling .poll 10 14 input))
      (s.segment .a).transaction = some ⟨reading, .onWires 10 14 .first, false⟩ ∧
        s.nodeEntry? .a 0x21 = some ⟨.a, 0x21, .unconfirmed, 2, 7, none⟩ ∧ s.point? 1 = some waits ∧
        (s.notifyOf .host).enabled = true ∧ (s.notifyOf .host).queue.length + s.pointsNaming .a 0x21 + 1 ≤ 64 ∧
        waits.names .a 0x21 = true ∧ waits.fresh.get .host = true ∧ some 1 ≠ reading.flight.map (·.1)) ∧
      ∀ q, input.state ≠ .retiring q :=
  ⟨by decide +kernel, by decide +kernel, by decide +kernel, not_retiring rfl⟩

theorem witness_ScanStepsAndRollsHaveTheirEffects :
    (let s := scanning 0x34 [0x30]
    (s.segment .b).transaction = some ⟨.scanStep 0x34, .onWires 40000 40001 .first, false⟩ ∧
      (s.segment .b).scan = ⟨.running ⟨.console, 0x30, 0x34⟩ 0x34, [0x30]⟩ ∧
      (Work.scanStep 0x34).afterCycles false .first (taken 0x68 ++ [true]) = .ended (.done []) ∧
      (Work.scanStep 0x34).afterCycles false .first (refused 0x68 ++ [true]) = .ended .noNode ∧
      (Work.scanStep 0x34).afterCycles false .first [false, false] = .ended .contest ∧
      (s.notifyOf .console).enabled = true ∧ (s.notifyOf .console).queue.length + s.pointsNaming .b 0x34 + 2 ≤ 64) ∧
      (let s := wires .a .roll 0 (scheduled .a 0 9 false (one fun pt => { pt with alertDriven := true }))
      (s.segment .a).transaction = some ⟨.roll, .onWires 0 0 .first, false⟩ ∧
        s.nodeEntry? .a 0x21 = some ⟨.a, 0x21, .unconfirmed, 1, 0, none⟩ ∧ s.nodeEntry? .a 0x33 = none ∧
        s.point? 5 = none ∧ s.entryOf? .a 5 = none ∧ s.entryOf? .a 0 = some ⟨0, ⟨9, false⟩, false⟩) ∧
      (let s := wires .a .roll 0 (nodeIs (fun e => { e with presence := .lost, misses := 8 }) (one id))
      s.nodeEntry? .a 0x21 = some ⟨.a, 0x21, .lost, 1, 8, none⟩ ∧ s.point? 0 = some input ∧ s.entryOf? .a 0 = none ∧
        (s.notifyOf .host).nodeEvents = true ∧ (s.notifyOf .host).queue.length < 64) ∧
      Work.roll.afterCycles false .first (taken 0x11 ++ taken 0x43 ++ refused 0xCE ++ [true]) = .ended (.winner 0x21) ∧
      Work.roll.afterCycles false .first (refused 0x11 ++ [true]) = .ended .empty ∧
      Work.roll.afterCycles false .first (refused 0x11 ++ [false]) = .ended .contest := by decide +kernel

theorem witness_ExpiriesHaveTheirEffects :
    (let s := scheduled .a 0 9 false { one id with clock := 9 }
    (s.segment .a).schedule = [] ++ ⟨0, ⟨9, false⟩, false⟩ :: [] ∧ reached 9 s.clock = true ∧
      (let s := s.modSegment .a fun x => { x with suppression := some 9 }
      (s.segment .a).suppression = some 9) ∧
      s.entryOf? .a 0 = some ⟨0, ⟨9, false⟩, false⟩ ∧ reached ((9 : Time) + 65535) (9 + 65535) = true) ∧
      (nodeIs (fun e => { e with presence := .lost, probe := some ⟨9, false⟩ }) (one id)).nodeEntry? .a 0x21
        = some ⟨.a, 0x21, .lost, 1, 0, some ⟨9, false⟩⟩ ∧
      (let pt := { input with
          value := some ⟨1, 0, false⟩, quality := .good, staleDue := some 9, rhythmDue := some ⟨9, false⟩
          inFlight := flight .poll 9 }
      (one fun _ => pt).point? 0 = some pt ∧ pt.staleDue = some 9 ∧ pt.quality = .good ∧ input.quality ≠ .good ∧
        pt.value = some ⟨1, 0, false⟩ ∧ pt.inFlight = some ⟨.poll, some ⟨9, false⟩⟩ ∧ pt.rhythmDue = some ⟨9, false⟩) ∧
      (let n : Option NextValue := some ⟨⟨2, .host⟩, some 9, false⟩
      (delivering (.pending ⟨1, .host⟩ (some 9)) 0 none 9).stand 2 = .pending ⟨1, .host⟩ (some 9) ∧
        (delivering (.queued ⟨1, .host⟩ (some 9)) 0 none 9).stand 2 = .queued ⟨1, .host⟩ (some 9) ∧
        (delivering (.writing ⟨1, .host⟩ n) 0 none 9).stand 2 = .writing ⟨1, .host⟩ n ∧
        (delivering (.verifying ⟨1, .host⟩ n) 0 none 9).stand 2 = .verifying ⟨1, .host⟩ n) := by decide +kernel

theorem witness_AlarmEvaluationFollowsItsTable :
    (let l : Limits := ⟨100, 200, 100⟩
    asInt true l.low < asInt true l.high ∧ (l.hysteresis.toNat : Int) ≤ asInt true l.high - asInt true l.low ∧
      (one fun pt => { pt with limits := some l }).point? 0 = some { input with limits := some l }) := by decide +kernel

/-- The base state with one ACTIVE INPUT in its schedule and a command that waits. -/
def roster : State := (scheduled .a 0 9 false lone).setPending [.hostPortResync]

theorem roster_point (i : SlotNo) : roster.point? i = if i = 0 then some input else none := by
  rw [lookup (s := roster) (x := ⟨0, some input⟩) (y := Slot.reset) rfl]
  split
  · next h => rw [h]; rfl
  · rfl

/-- The five statements of what every step keeps: every law of the records and of the engines holds at once of a state with a
point, and a step leads on from it. -/
theorem witness_StepsKeep :
    roster.noDuplicates ∧ roster.fieldsOk ∧ roster.queuesOk ∧ roster.marksOk ∧ roster.directoryOk ∧ roster.schedulesOk ∧
      roster.commandQueuesOk ∧ roster.flightsOk ∧ step roster = .next { roster with hostRx := .idle, pending := [] } ∧
      (∀ x y e, Instr.hostPortResync ≠ .hardReset x y e) ∧ roster.enginesOk := by
  have ident : ∀ i, roster.ident i = if i = 0 then some input.identity else none := fun i => by
    simp only [State.ident, roster_point]
    split <;> rfl
  have wants : roster.wantsEntry input = true := by decide +kernel
  have ha : (roster.segment .a).schedule = [⟨0, ⟨9, false⟩, false⟩] ∧ (roster.segment .b).schedule = [] := by decide +kernel
  have hq : (roster.segment .a).commandQueue = [] ∧ (roster.segment .b).commandQueue = [] := by decide +kernel
  have ht : (roster.segment .a).transaction = none ∧ (roster.segment .b).transaction = none := by decide +kernel
  have hn : ∀ p, (roster.notifyOf p).queue = [] ∧ (roster.notifyOf p).systemMark = false := fun p => by cases p <;> decide +kernel
  refine ⟨?_, ?_, ?_, ?_, ⟨by decide +kernel, by decide +kernel, by decide +kernel, ?_⟩, ?_, ⟨?_, ?_⟩, ⟨?_, ?_⟩, rfl, by simp,
    ?_⟩
  · intro i j a b h k _
    simp only [ident] at h k
    split at h <;> split at k <;> simp_all
  · intro i a h
    rw [ident] at h
    split at h
    · cases h
      exact ⟨by decide, by decide, by simp [input, Point.identity, Point.isOutput],
        fun _ => ⟨500, 2000, rfl, rfl, by decide⟩, by decide, by decide, by decide⟩
    · cases h
  · intro p
    simp [Notify.wellNumbered, hn p, consecutiveFrom]
  · rintro p (h | ⟨i, h⟩)
    · simp [hn p] at h
    · simp only [State.marked, roster_point] at h
      cases p <;> split at h <;> exact absurd h (by decide)
  · intro i a h
    rw [ident] at h
    split at h
    · cases h
      exact ⟨⟨.a, 0x21, .unconfirmed, 1, 0, none⟩, by decide +kernel, by decide⟩
    · cases h
  · intro g
    have one : ∀ i, roster.scheduledOn g i = true ↔ i = 0 ∧ g = .a := by
      intro i
      simp only [State.scheduledOn, roster_point]
      split
      · next h => cases g <;> simp [h, wants] <;> decide
      · next h => simp [h]
    cases g <;> simp [ha, one]
  · intro i pt h
    rw [roster_point] at h
    split at h <;> cases h
    simp [input]
  · intro g
    have no : ∀ i, roster.queuedOn g i = false := by
      intro i
      simp only [State.queuedOn, roster_point]
      split <;> simp [input]
    cases g <;> simp [hq, no]
  · rintro g i k ⟨t, h, _⟩
    cases g <;> simp [ht] at h
  · intro i k h
    simp only [State.flightOf, roster_point] at h
    split at h <;> simp [input] at h
  · intro g
    unfold Segment.engineOk
    cases g <;> decide +kernel

end Sys2Proof.Tests
end

/-!
Times (R31): each comparison of the model read off the modular difference of the two readings, and the difference that
an interval ahead of a reading, or `k` ms after it, gives.
-/
namespace Sys2Proof.Machine

/-! ### The comparisons by the modular difference -/

/-- Subtraction of clock words is R31's difference, taken modulo 2^32. -/
theorem toNat_time_sub (t u : Time) : (t - u).toNat = (t.toNat + 2 ^ 32 - u.toNat) % 2 ^ 32 := by
  rw [BitVec.toNat_sub, Nat.add_comm, ← Nat.add_sub_assoc u.isLt.le]

theorem laterThan_iff (t u : Time) : laterThan t u = true ↔ 1 ≤ (t - u).toNat ∧ (t - u).toNat < 2 ^ 31 := by
  simp [laterThan]

theorem earlierThan_iff (t u : Time) : earlierThan t u = true ↔ 2 ^ 31 ≤ (t - u).toNat := by
  simp [earlierThan]

theorem reached_iff (d t : Time) : reached d t = true ↔ (t - d).toNat < 2 ^ 31 := by
  simp [reached]

theorem time_eq_iff (t u : Time) : t = u ↔ (t - u).toNat = 0 := by
  rw [← sub_eq_zero (a := t) (b := u), BitVec.toNat_eq]
  rfl

/-- A difference below 2^31 is 0, which is equality, or at least 1, which is later. -/
theorem reached_iff_eq_or_laterThan (d t : Time) : reached d t = true ↔ t = d ∨ laterThan t d = true := by
  rw [reached_iff, laterThan_iff, time_eq_iff]
  omega

/-! ### A due time set an interval ahead -/

/-- An interval has 16 bits, so the difference it gives does not wrap. -/
theorem toNat_after_sub (now : Time) (d : Interval) : (after now d - now).toNat = d.toNat := by
  have ahead : after now d - now = d.zeroExtend 32 := add_sub_cancel_left _ _
  rw [ahead]
  exact BitVec.toNat_setWidth_of_le (by decide)

theorem laterThan_after (now : Time) {d : Interval} (hd : d ≠ 0) : laterThan (after now d) now = true := by
  have positive : d.toNat ≠ 0 := fun h => hd (BitVec.eq_of_toNat_eq h)
  have bound : d.toNat < 2 ^ 16 := d.isLt
  rw [laterThan_iff, toNat_after_sub]
  omega

/-- The difference taken the other way round is the complement modulo 2^32, which lies above 2^31. -/
theorem not_reached_of_laterThan {d t : Time} (h : laterThan d t = true) : reached d t = false := by
  obtain ⟨positive, bound⟩ := (laterThan_iff d t).mp h
  rw [Bool.eq_false_iff, Ne, reached_iff]
  rw [toNat_time_sub] at positive bound ⊢
  omega

theorem reached_add_ofNat (d : Time) {k : Nat} (hk : k < 2 ^ 31) : reached d (d + BitVec.ofNat 32 k) = true := by
  rw [reached_iff, add_sub_cancel_left, BitVec.toNat_ofNat]
  omega

/-! ### The statement -/

/-- Settles O3: the comparisons are those of the difference, and an interval ahead gives a difference from 1 to 65,535. -/
theorem timesAreComparedByModularDifference : Obligations.TimesAreComparedByModularDifference := by
  refine ⟨fun t u => ⟨?later, ?earlier, ?equal, reached_iff_eq_or_laterThan u t⟩, fun now d hd => ?ahead⟩
  case later =>
    rw [laterThan_iff, toNat_time_sub]
    omega
  case earlier =>
    rw [earlierThan_iff, toNat_time_sub]
    omega
  case equal => rw [time_eq_iff, toNat_time_sub]
  case ahead =>
    have later := laterThan_after now hd
    exact ⟨later, not_reached_of_laterThan later, fun _ => reached_add_ofNat _⟩

end Sys2Proof.Machine

/-!
Alarm evaluation (R57): what TABLE 3-1 gives from each starting state, when it gives each new state, what one evaluation
does to the state of the part, and the boundaries for limits that SET_LIMITS accepts.
-/
namespace Sys2Proof.Machine

section Table
variable (signed : Bool) (l : Limits) (v : Value)

/-! ### TABLE 3-1 from each starting state -/

theorem evaluateAlarm_normal :
    evaluateAlarm signed l .normal v =
      if asInt signed v < asInt signed l.low then .low
      else if asInt signed l.high < asInt signed v then .high else .normal := rfl

theorem evaluateAlarm_low :
    evaluateAlarm signed l .low v =
      if asInt signed l.high < asInt signed v then .high
      else if asInt signed l.low + l.hysteresis.toNat ≤ asInt signed v then .normal else .low := rfl

theorem evaluateAlarm_high :
    evaluateAlarm signed l .high v =
      if asInt signed v < asInt signed l.low then .low
      else if asInt signed v ≤ asInt signed l.high - l.hysteresis.toNat then .normal else .high := rfl

/-! ### When a new state is given -/

theorem evaluateAlarm_normal_eq_normal_iff :
    evaluateAlarm signed l .normal v = .normal ↔
      asInt signed l.low ≤ asInt signed v ∧ asInt signed v ≤ asInt signed l.high := by
  rw [evaluateAlarm_normal]
  split_ifs <;> simp <;> omega

/-- From LOW the crossing of the high limit is tested first. -/
theorem evaluateAlarm_low_eq_high_iff :
    evaluateAlarm signed l .low v = .high ↔ asInt signed l.high < asInt signed v := by
  rw [evaluateAlarm_low]
  split_ifs <;> simp <;> omega

theorem evaluateAlarm_low_eq_normal_iff :
    evaluateAlarm signed l .low v = .normal ↔
      asInt signed v ≤ asInt signed l.high ∧ asInt signed l.low + l.hysteresis.toNat ≤ asInt signed v := by
  rw [evaluateAlarm_low]
  split_ifs <;> simp <;> omega

theorem evaluateAlarm_low_eq_low_iff :
    evaluateAlarm signed l .low v = .low ↔
      asInt signed v ≤ asInt signed l.high ∧ asInt signed v < asInt signed l.low + l.hysteresis.toNat := by
  rw [evaluateAlarm_low]
  split_ifs <;> simp <;> omega

/-- From HIGH the crossing of the low limit is tested first. -/
theorem evaluateAlarm_high_eq_low_iff :
    evaluateAlarm signed l .high v = .low ↔ asInt signed v < asInt signed l.low := by
  rw [evaluateAlarm_high]
  split_ifs <;> simp <;> omega

theorem evaluateAlarm_high_eq_normal_iff :
    evaluateAlarm signed l .high v = .normal ↔
      asInt signed l.low ≤ asInt signed v ∧ asInt signed v ≤ asInt signed l.high - l.hysteresis.toNat := by
  rw [evaluateAlarm_high]
  split_ifs <;> simp <;> omega

theorem evaluateAlarm_high_eq_high_iff :
    evaluateAlarm signed l .high v = .high ↔
      asInt signed l.low ≤ asInt signed v ∧ asInt signed l.high - l.hysteresis.toNat < asInt signed v := by
  rw [evaluateAlarm_high]
  split_ifs <;> simp <;> omega

end Table

/-! ### One evaluation of a point with limits -/

/-- An evaluation that keeps the alarm leaves the part as it is; a change makes one ALARM LIMIT (R58). -/
theorem evaluate_of_limits {i : SlotNo} {pt : Point} {l : Limits} {s : State} (v : Value) (hp : s.point? i = some pt)
    (hl : pt.limits = some l) :
    evaluate i v s =
      if evaluateAlarm pt.signed l pt.alarm v = pt.alarm then s
      else offerSubscribers (·.alarm) i
        (.alarm (s.handle i) v pt.alarm (evaluateAlarm pt.signed l pt.alarm v) .limit)
        (s.setPoint i { pt with alarm := evaluateAlarm pt.signed l pt.alarm v }) := by
  simp only [evaluate, hp, hl, beq_iff_eq]

/-! ### The statement -/

/-- Settles O55: for limits that SET_LIMITS accepts, a value beyond one limit has passed the return threshold of the other
(`low + h ≤ high` and `low ≤ high - h`), so the crossing tested first hides no other outcome. -/
theorem alarmEvaluationFollowsItsTable : Obligations.AlarmEvaluationFollowsItsTable := by
  rintro signed l v n low high h rfl rfl rfl rfl ev rfl
  refine ⟨evaluateAlarm_normal signed l v, evaluateAlarm_low signed l v, evaluateAlarm_high signed l v, ?onePoint, ?accepted⟩
  case onePoint =>
    rintro i pt s hp hl rfl
    exact evaluate_of_limits v hp hl
  case accepted =>
    intro ordered narrow
    simp only [evaluateAlarm_normal_eq_normal_iff, evaluateAlarm_low_eq_high_iff, evaluateAlarm_low_eq_normal_iff,
      evaluateAlarm_low_eq_low_iff, evaluateAlarm_high_eq_low_iff, evaluateAlarm_high_eq_normal_iff,
      evaluateAlarm_high_eq_high_iff]
    refine ⟨?notBoth, ?aboveHigh, ?belowLow, ?atALimit, ?noHysteresis, ?widestHysteresis, ?staysLow, ?staysHigh⟩ <;> omega

end Sys2Proof.Machine

/-!
A request carried out at once (R161, R177, R191), for any request whose body fits a frame, and what TIME then answers
(R173).
-/
namespace Sys2Proof.Machine

/-! ### A request carried out at once -/

theorem ready_iff (s : State) (p : Port) :
    s.ready p = true ↔ s.inReset = false ∧ s.slotsBusy p = false ∧ s.goesFirst p = true := by
  simp [State.ready]

/-- A port that is ready neither drops a request nor lets it wait: the response stands in the records as the request left
them. -/
theorem submit_of_ready {p : Port} {r : Request} {s : State} (tag : Byte) (look : State → State)
    (ready : s.ready p = true) (fits : r.body.length ≤ bodyLimit) :
    submit p tag r look s =
      responded p tag (carryOut p r ((look s).served p)).2 (carryOut p r ((look s).served p)).1 := by
  obtain ⟨running, empty, turn⟩ := (ready_iff s p).mp ready
  have notDropped : ¬(bodyLimit < r.body.length || s.slotsBusy p) = true := by
    simpa [empty] using fits
  calc submit p tag r look s
      = answerRequest p tag r (look s) := by
        rw [submit, if_neg (by simp [running]), if_neg notDropped, if_pos turn]
    _ = responded p tag (carryOut p r ((look s).served p)).2 (carryOut p r ((look s).served p)).1 := rfl

/-! ### TIME -/

theorem exec_time (p : Port) (tag : Byte) (s : State) : exec (.time p tag) s = .next (submit p tag .time id s) := rfl

/-- The answer does not depend on the port that asks, and the state goes through as it is. -/
theorem carryOut_time (p : Port) (s : State) : carryOut p .time s = (s, ⟨.ok, bytes32 s.clock⟩) := rfl

@[simp] theorem served_clock (s : State) (p : Port) : (s.served p).clock = s.clock := rfl

/-! ### The statement -/

/-- Settles O20: a ready port's TIME is carried out at once, on a state whose clock is that of `s`. -/
theorem timeReportsTheRosterClock : Obligations.TimeReportsTheRosterClock := by
  have emptyBody : Request.body .time = [] := rfl
  refine ⟨emptyBody, fun p tag s ready => ?_⟩
  have fits : (Request.body .time).length ≤ bodyLimit := by simp [emptyBody]
  rw [exec_time, submit_of_ready tag id ready fits, id_eq, carryOut_time, served_clock, bytes32]

end Sys2Proof.Machine

/-!
What a step can do to the roster (R30, R161, R191): one command on the state with that command taken from the queue, one
millisecond, or nothing; and the induction over the shapes of `RecordStep`, so that a law of the roster is proved kept shape
by shape.
-/
namespace Sys2Proof.Machine

set_option Elab.async false

/-! ### The step -/

theorem setPending_pending_self {s : State} {l : List Instr} (h : s.pending = l) : s.setPending l = s := by
  subst h; rfl

/-- A step runs one command on the state with a rest of the queue waiting, counts one millisecond, or changes nothing. -/
theorem step_cases {s t : State} (h : step s = .next t) :
    (∃ c l, exec c (s.setPending l) = .next t) ∨ t = s.tick ∨ t = s := by
  unfold step at h
  split at h
  · exact .inl ⟨_, _, h⟩
  · next empty =>
    unfold idleStep at h
    split at h
    · exact .inl ⟨_, [], by rwa [setPending_pending_self empty]⟩
    · obtain rfl := Host.Outcome.next.inj h
      split
      · exact .inr (.inr rfl)
      · exact .inr (.inl rfl)

/-- A law that every command keeps, and that reads neither the clock nor the queue, is kept by every step. -/
theorem law_of_exec {P : State → Prop} (waiting : ∀ s l, P s → P (s.setPending l)) (clock : ∀ s, P s → P s.tick)
    (command : ∀ c s t, exec c s = .next t → P s → P t) {s t : State} (hs : P s) (h : step s = .next t) : P t := by
  rcases step_cases h with ⟨c, l, h⟩ | rfl | rfl
  · exact command c _ t h (waiting s l hs)
  · exact clock s hs
  · exact hs

/-! ### Hard reset -/

/-- The records and engines of `t` are those after hard reset, the levels of the lines those of `s` (R27, R104, R127, R159). -/
structure AtReset (s t : State) : Prop where
  point : ∀ i, t.point? i = none
  generation : ∀ i, t.generation i = 0
  directory : t.directory = []
  segment : ∀ g, t.segment g = Segment.reset (s.segment g).lines
  notify : ∀ p, t.notifyOf p = Notify.reset

theorem AtReset.ident {s t : State} (h : AtReset s t) (i : SlotNo) : t.ident i = none := by
  simp [State.ident, h.point i]

theorem atReset_afterReset (s : State) (x y z : Bool) (l : List Instr) :
    AtReset s (State.afterReset x y z (s.segment .a).lines (s.segment .b).lines l) where
  point i := by simp [State.afterReset, State.point?, Slot.reset]
  generation i := by simp [State.afterReset, State.generation, Slot.reset]
  directory := rfl
  segment g := by cases g <;> rfl
  notify p := by cases p <;> rfl

theorem atReset_heldInReset (s : State) : AtReset s s.heldInReset := by
  obtain ⟨point, generation, directory, segment, notify⟩ :=
    atReset_afterReset s false false (s.hostRx != .idle) s.pending
  exact ⟨point, generation, directory, segment, notify⟩

theorem atReset_exec {x y : Bool} {e : ResetEdge} {s t : State} (h : exec (.hardReset x y e) s = .next t) :
    AtReset s t := by
  cases e with
  | begins =>
    obtain rfl := Host.Outcome.next.inj h
    exact atReset_heldInReset s
  | ends z =>
    obtain rfl := Host.Outcome.next.inj h
    exact atReset_afterReset s x y z s.pending

/-! ### Laws of the roster -/

/-- A law of the roster that each shape of `RecordStep` and hard reset keep is kept by every step. -/
theorem law_of_records {P : State → Prop} (waiting : ∀ s l, P s → P (s.setPending l)) (clock : ∀ s, P s → P s.tick)
    (reset : ∀ s t, AtReset s t → P t) (kept : ∀ s t, RosterKept s t → P s → P t)
    (freed : ∀ i s pt, s.point? i = some pt → P s → P (freeSlot i s))
    (defined : ∀ p d i s, (∃ f, checkDefine f = some d) → defineResources d s = .ok i → P s → P (definePoint p d i s))
    (acknowledged : ∀ p seq rest s, afterSeq seq (s.notifyOf p).queue = some rest → P s → P (acknowledge p rest s))
    (enables : ∀ p a b s, P s → P (setNodeEvents p b (setNotifications p a s)))
    (cleared : ∀ s, P s → P (clearRecords s)) {s t : State} (hs : P s) (h : step s = .next t) : P t := by
  refine law_of_exec waiting clock (fun c s t h hs => ?_) hs h
  by_cases hc : ∀ x y e, c ≠ .hardReset x y e
  · cases recordStep_exec c s t h hc with
    | kept k => exact kept s t k hs
    | freed i u k hp l =>
      obtain ⟨pt, hp⟩ := Option.isSome_iff_exists.mp hp
      exact kept _ t l (freed i u pt hp (kept s u k hs))
    | defined p d i u k hf hr l => exact kept _ t l (defined p d i u hf hr (kept s u k hs))
    | acknowledged p seq rest u k ha l => exact kept _ t l (acknowledged p seq rest u ha (kept s u k hs))
    | enables p a b u k l => exact kept _ t l (enables p a b u (kept s u k hs))
    | cleared u k l => exact kept _ t l (cleared u (kept s u k hs))
  · push Not at hc
    obtain ⟨x, y, e, rfl⟩ := hc
    exact reset s t (atReset_exec h)

/-! ### The fixed fields under each shape -/

theorem point?_isNone_iff_ident (s : State) (i : SlotNo) : s.ident i = none ↔ s.point? i = none := by
  simp [State.ident]

theorem ident_eq_some {s : State} {i : SlotNo} {a : Identity} (h : s.ident i = some a) :
    ∃ pt, s.point? i = some pt ∧ pt.identity = a := by simpa [State.ident] using h

theorem freeSlot_ident {i : SlotNo} {s : State} {pt : Point} (h : s.point? i = some pt) (j : SlotNo) :
    (freeSlot i s).ident j = if i = j then none else s.ident j := by
  unfold State.ident
  rw [freeSlot_point i j s pt h]
  split <;> rfl

theorem definePoint_ident (p : Port) (d : Definition) (i j : SlotNo) (s : State) :
    (definePoint p d i s).ident j = if i = j then some (Point.new p d).identity else s.ident j := by
  unfold State.ident
  rw [definePoint_point]
  split <;> rfl

theorem setNodeEvents_slots (p : Port) (a : Action) (s : State) : (setNodeEvents p a s).slots = s.slots := by
  cases a <;> rfl

theorem setNodeEvents_directory (p : Port) (a : Action) (s : State) : (setNodeEvents p a s).directory = s.directory := by
  cases a <;> rfl

theorem notificationsOff_point (p : Port) (s : State) (i : SlotNo) :
    (notificationsOff p s).point? i = (s.point? i).map (·.setMark p false) :=
  clearPointMarks_point p _ i

theorem notificationsOff_generation (p : Port) (s : State) (i : SlotNo) :
    (notificationsOff p s).generation i = s.generation i :=
  clearPointMarks_generation p _ i

/-- Turning notifications off touches the marks of a record and nothing that DEFINE fixed. -/
theorem notificationsOff_ident (p : Port) (s : State) (i : SlotNo) : (notificationsOff p s).ident i = s.ident i := by
  unfold State.ident
  rw [notificationsOff_point]
  cases s.point? i <;> rfl

theorem setNotifications_remove (p : Port) (s : State) :
    setNotifications p .remove s = if (s.notifyOf p).enabled then notificationsOff p s else s := rfl

theorem setNotifications_ident (p : Port) (a : Action) (s : State) (i : SlotNo) :
    (setNotifications p a s).ident i = s.ident i := by
  cases a with
  | keep => rfl
  | set => rfl
  | remove =>
    rw [setNotifications_remove]
    split
    · exact notificationsOff_ident p s i
    · rfl

theorem setNotifications_generation (p : Port) (a : Action) (s : State) (i : SlotNo) :
    (setNotifications p a s).generation i = s.generation i := by
  cases a with
  | keep => rfl
  | set => rfl
  | remove =>
    rw [setNotifications_remove]
    split
    · exact notificationsOff_generation p s i
    · rfl

theorem setNotifications_directory (p : Port) (a : Action) (s : State) :
    (setNotifications p a s).directory = s.directory := by
  cases a with
  | keep => rfl
  | set => rfl
  | remove => rw [setNotifications_remove]; split <;> rfl

theorem setEnables_ident (p : Port) (a b : Action) (s : State) (i : SlotNo) :
    (setNodeEvents p b (setNotifications p a s)).ident i = s.ident i := by
  rw [← setNotifications_ident p a s i]
  unfold State.ident State.point?
  rw [setNodeEvents_slots]

theorem setEnables_generation (p : Port) (a b : Action) (s : State) (i : SlotNo) :
    (setNodeEvents p b (setNotifications p a s)).generation i = s.generation i := by
  rw [← setNotifications_generation p a s i]
  unfold State.generation
  rw [setNodeEvents_slots]

theorem kept_acknowledge_drain (p : Port) (rest : List Entry) (s : State) :
    Kept (s.setNotify p { s.notifyOf p with queue := rest }) (acknowledge p rest s) := kept_drain p _

theorem acknowledge_ident (p : Port) (rest : List Entry) (s : State) (i : SlotNo) :
    (acknowledge p rest s).ident i = s.ident i := (kept_acknowledge_drain p rest s).ident i

theorem acknowledge_generation (p : Port) (rest : List Entry) (s : State) (i : SlotNo) :
    (acknowledge p rest s).generation i = s.generation i := (kept_acknowledge_drain p rest s).generation i

theorem acknowledge_count (p : Port) (rest : List Entry) (s : State) :
    (acknowledge p rest s).directory.map NodeEntry.count = s.directory.map NodeEntry.count :=
  (kept_acknowledge_drain p rest s).count

theorem clearRecords_ident (s : State) (i : SlotNo) : (clearRecords s).ident i = none := by
  simp [State.ident, clearRecords_point]

/-- DEFINE takes a FREE slot and names an item that no point names (R13, R14). -/
theorem defineResources_free {d : Definition} {s : State} {i : SlotNo} (h : defineResources d s = .ok i) :
    s.ident i = none ∧ ∀ j a, s.ident j = some a → ∀ p, (Point.new p d).identity.sameItem a = false := by
  obtain ⟨free, single, -⟩ := defineResources_ok h
  refine ⟨(point?_isNone_iff_ident s i).mpr (lowestFree_free free), fun j a ha p => ?_⟩
  obtain ⟨pt, hp, rfl⟩ := ident_eq_some ha
  have other : ((s.point? j).any fun q => q.names d.segment d.address && q.item == d.item) = false := by
    have := List.any_eq_false.mp single j (mem_allSlots j)
    simpa using this
  rw [hp] at other
  simp only [Identity.sameItem, Point.identity, Point.new, Option.any_some, Point.names] at other ⊢
  rw [Bool.eq_false_iff] at other ⊢
  intro same
  apply other
  simp only [Bool.and_eq_true, beq_iff_eq] at same ⊢
  obtain ⟨⟨hg, hx⟩, hi⟩ := same
  exact ⟨⟨hg.symm, hx.symm⟩, hi.symm⟩

/-! ### Points stay apart and fixed (R3, R4, R5, R12, R13) -/

theorem noDuplicates_of_subset {s t : State} (h : ∀ i a, t.ident i = some a → s.ident i = some a)
    (hs : s.noDuplicates) : t.noDuplicates :=
  fun i j a b ha hb => hs i j a b (h i a ha) (h j b hb)

theorem noDuplicates_definePoint (p : Port) {d : Definition} {i : SlotNo} {s : State}
    (h : defineResources d s = .ok i) (hs : s.noDuplicates) : (definePoint p d i s).noDuplicates := by
  obtain ⟨-, single⟩ := defineResources_free h
  have symm (a b : Identity) : a.sameItem b = b.sameItem a := by
    simp only [Identity.sameItem, Bool.beq_comm]
  intro j k a b ha hb same
  rw [definePoint_ident] at ha hb
  split at ha <;> split at hb
  · next hj hk => exact hj.symm.trans hk
  · obtain rfl := Option.some.inj ha
    rw [single k b hb p] at same
    cases same
  · obtain rfl := Option.some.inj hb
    rw [symm, single j a ha p] at same
    cases same
  · exact hs j k a b ha hb same

theorem step_keeps_noDuplicates {s t : State} (hs : s.noDuplicates) (h : step s = .next t) : t.noDuplicates := by
  refine law_of_records (P := State.noDuplicates) (fun _ _ hs => hs) (fun _ hs => hs) ?reset ?kept ?freed ?defined
    ?acknowledged ?enables ?cleared hs h
  case reset =>
    intro s t at_reset i j a b ha
    rw [at_reset.ident] at ha
    cases ha
  case kept => exact fun s t k hs => noDuplicates_of_subset (fun i a ha => by rwa [k.ident] at ha) hs
  case freed =>
    intro i s pt hp hs
    refine noDuplicates_of_subset (fun j a ha => ?_) hs
    rw [freeSlot_ident hp] at ha
    split at ha
    · cases ha
    · exact ha
  case defined => exact fun p d i s _ hr hs => noDuplicates_definePoint p hr hs
  case acknowledged =>
    exact fun p _ rest s _ hs => noDuplicates_of_subset (fun i a ha => by rwa [acknowledge_ident] at ha) hs
  case enables => exact fun p a b s hs => noDuplicates_of_subset (fun i a ha => by rwa [setEnables_ident] at ha) hs
  case cleared =>
    intro s _ i j a b ha
    rw [clearRecords_ident] at ha
    cases ha

theorem fieldsOk_of_subset {s t : State} (h : ∀ i a, t.ident i = some a → s.ident i = some a) (hs : s.fieldsOk) :
    t.fieldsOk := fun i a ha => hs i a (h i a ha)

theorem step_keeps_fieldsOk {s t : State} (hs : s.fieldsOk) (h : step s = .next t) : t.fieldsOk := by
  refine law_of_records (P := State.fieldsOk) (fun _ _ hs => hs) (fun _ hs => hs) ?reset ?kept ?freed ?defined
    ?acknowledged ?enables ?cleared hs h
  case reset =>
    intro s t at_reset i a ha
    rw [at_reset.ident] at ha
    cases ha
  case kept => exact fun s t k hs => fieldsOk_of_subset (fun i a ha => by rwa [k.ident] at ha) hs
  case freed =>
    intro i s pt hp hs
    refine fieldsOk_of_subset (fun j a ha => ?_) hs
    rw [freeSlot_ident hp] at ha
    split at ha
    · cases ha
    · exact ha
  case defined =>
    rintro p d i s ⟨f, hf⟩ - hs j a ha
    rw [definePoint_ident] at ha
    split at ha
    · obtain rfl := Option.some.inj ha
      exact checkDefine_fieldsOk p hf
    · exact hs j a ha
  case acknowledged =>
    exact fun p _ rest s _ hs => fieldsOk_of_subset (fun i a ha => by rwa [acknowledge_ident] at ha) hs
  case enables => exact fun p a b s hs => fieldsOk_of_subset (fun i a ha => by rwa [setEnables_ident] at ha) hs
  case cleared =>
    intro s _ i a ha
    rw [clearRecords_ident] at ha
    cases ha

theorem slotRule_of_same {s t : State} {i : SlotNo} (hg : t.generation i = s.generation i) (hi : t.ident i = s.ident i) :
    slotRule s t i := .inl ⟨hg, .inl hi⟩

/-- Keeping the roster before and after changes nothing of what is done to a slot. -/
theorem slotRule_between {s u v t : State} {i : SlotNo} (h : RosterKept s u) (r : slotRule u v i) (k : RosterKept v t) :
    slotRule s t i := by
  unfold slotRule at r ⊢
  rwa [k.generation, k.ident, ← h.generation, ← h.ident]

/-- Each shape keeps a slot, fills it while FREE, or frees it with its generation advanced. -/
theorem slotRule_of_recordStep {s t : State} (h : RecordStep s t) (j : SlotNo) : slotRule s t j := by
  cases h with
  | kept k => exact slotRule_of_same (k.generation j) (k.ident j)
  | freed i u k hp l =>
    obtain ⟨pt, hp⟩ := Option.isSome_iff_exists.mp hp
    refine slotRule_between k ?_ l
    unfold slotRule
    rw [freeSlot_generation i j u pt hp, freeSlot_ident hp]
    by_cases e : i = j
    · subst e
      exact .inr ⟨by simp [State.ident, hp], if_pos rfl, if_pos rfl⟩
    · exact .inl ⟨if_neg e, .inl (if_neg e)⟩
  | defined p d i u k _ hr l =>
    refine slotRule_between k ?_ l
    obtain ⟨free, -⟩ := defineResources_free hr
    unfold slotRule
    rw [definePoint_generation, definePoint_ident]
    by_cases e : i = j
    · exact .inl ⟨rfl, .inr (e ▸ free)⟩
    · exact .inl ⟨rfl, .inl (if_neg e)⟩
  | acknowledged p _ rest u k _ l =>
    exact slotRule_between k (slotRule_of_same (acknowledge_generation p rest u j) (acknowledge_ident p rest u j)) l
  | enables p a b u k l =>
    exact slotRule_between k (slotRule_of_same (setEnables_generation p a b u j) (setEnables_ident p a b u j)) l
  | cleared u k l =>
    refine slotRule_between k ?_ l
    unfold slotRule
    rw [clearRecords_generation, clearRecords_ident]
    cases hp : u.point? j with
    | none => exact .inl ⟨rfl, .inl (by simp [State.ident, hp])⟩
    | some pt => exact .inr ⟨by simp [State.ident, hp], rfl, rfl⟩

/-- Settles O56: shape by shape of `RecordStep`. -/
theorem stepsKeepPointsApartAndFixed : Obligations.StepsKeepPointsApartAndFixed :=
  ⟨fun _ _ => step_keeps_noDuplicates, fun _ _ => step_keeps_fieldsOk,
    fun c s t hc h i => slotRule_of_recordStep (recordStep_exec c s t h hc) i⟩

end Sys2Proof.Machine

/-!
The notification queues and their marks (R146, R147, R150, R155), shape by shape of what a step does to the roster.
-/
namespace Sys2Proof.Machine

set_option Elab.async false

/-! ### One queue -/

theorem wellNumbered_congr {q r : Notify} (hq : r.queue = q.queue) (hn : r.nextSeq = q.nextSeq) (h : q.wellNumbered) :
    r.wellNumbered := by
  unfold Notify.wellNumbered
  rw [hq, hn]
  exact h

theorem wellNumbered_of_empty {q : Notify} (h : q.queue = []) : q.wellNumbered := by
  simp [Notify.wellNumbered, h, consecutiveFrom]

/-- What is left behind an acknowledged entry is numbered on to the same next number (R147, R154). -/
theorem wellNumbered_afterSeq {q : Notify} {seq : SeqNo} {rest : List Entry} (h : q.wellNumbered)
    (k : afterSeq seq q.queue = some rest) : ({ q with queue := rest } : Notify).wellNumbered := by
  obtain ⟨m, e, split, -⟩ := afterSeq_suffix k
  obtain ⟨room, numbered⟩ := h
  rw [split, List.append_cons] at numbered
  rw [split, List.length_append, List.length_cons] at room
  refine ⟨by show rest.length ≤ _; omega, ?_⟩
  have tail := ((consecutiveFrom_append _ _ _).mp numbered).2
  have first : q.nextSeq - BitVec.ofNat 16 (m ++ [e] ++ rest).length + BitVec.ofNat 16 (m ++ [e]).length =
      q.nextSeq - BitVec.ofNat 16 rest.length := by
    rw [List.length_append (as := m ++ [e]), BitVec.ofNat_add]
    abel
  rwa [first] at tail

/-! ### The two laws under each shape -/

/-- Both laws of the queues (R146, R150). -/
def State.notifyOk (s : State) : Prop := s.queuesOk ∧ s.marksOk

theorem RosterKept.notifyOk {s t : State} (k : RosterKept s t) (h : s.notifyOk) : t.notifyOk := by
  obtain ⟨queues, marks⟩ := h
  have queues' : t.queuesOk := fun p => Notify.extends_wellNumbered (k.notify p) (queues p)
  refine ⟨queues', fun p marked => (queues' p).1.antisymm ?_⟩
  have still (m : (s.notifyOf p).systemMark = true ∨ ∃ i, s.marked p i = true) :
      queueCapacity ≤ (t.notifyOf p).queue.length :=
    (marks p m).symm.le.trans (Notify.extends_length (k.notify p))
  rcases marked with system | ⟨i, point⟩
  · exact (k.systemMark p system).elim (fun m => still (.inl m)) id
  · exact (k.marked p i point).elim (fun m => still (.inr ⟨i, m⟩)) id

/-- Queues that stay as they are, with no mark set where none stood. -/
theorem notifyOk_of_same {s t : State} (hq : ∀ p, (t.notifyOf p).queue = (s.notifyOf p).queue)
    (hn : ∀ p, (t.notifyOf p).nextSeq = (s.notifyOf p).nextSeq)
    (hm : ∀ p, ((t.notifyOf p).systemMark = true ∨ ∃ i, t.marked p i = true) →
      (s.notifyOf p).systemMark = true ∨ ∃ i, s.marked p i = true) (h : s.notifyOk) : t.notifyOk :=
  ⟨fun p => wellNumbered_congr (hq p) (hn p) (h.1 p), fun p m => by rw [hq]; exact h.2 p (hm p m)⟩

/-- A freed point's marks have become its ports' system marks, so none is new (R11). -/
theorem notifyOk_freeSlot {i : SlotNo} {s : State} {pt : Point} (hp : s.point? i = some pt) (h : s.notifyOk) :
    (freeSlot i s).notifyOk := by
  refine notifyOk_of_same (s := s) (fun p => by rw [freeSlot_notify i s pt hp]) (fun p => by rw [freeSlot_notify i s pt hp])
    (fun p m => ?_) h
  rcases m with system | ⟨j, point⟩
  · rw [freeSlot_notify i s pt hp, Bool.or_eq_true] at system
    exact system.imp_right fun m => ⟨i, by simpa [State.marked, hp] using m⟩
  · rw [State.marked, freeSlot_point i j s pt hp] at point
    split at point
    · simp at point
    · exact .inr ⟨j, point⟩

theorem notifyOk_definePoint (p : Port) (d : Definition) (i : SlotNo) {s : State} (h : s.notifyOk) :
    (definePoint p d i s).notifyOk := by
  refine notifyOk_of_same (s := s) (fun q => by rw [definePoint_notify]) (fun q => by rw [definePoint_notify])
    (fun q m => ?_) h
  rcases m with system | ⟨j, point⟩
  · rw [definePoint_notify] at system
    exact .inl system
  · rw [State.marked, definePoint_point] at point
    split at point
    · cases q <;> simp [Point.new] at point
    · exact .inr ⟨j, point⟩

/-- The drain leaves a mark of its own port only on a full queue, and does not touch the other port (R155). -/
theorem notifyOk_acknowledge {p : Port} {seq : SeqNo} {rest : List Entry} {s : State}
    (k : afterSeq seq (s.notifyOf p).queue = some rest) (h : s.notifyOk) : (acknowledge p rest s).notifyOk := by
  obtain ⟨queues, marks⟩ := h
  have cut : (s.setNotify p { s.notifyOf p with queue := rest }).queuesOk := by
    intro q
    rw [State.setNotify_read_notifyOf]
    split
    · next e => exact wellNumbered_afterSeq (queues p) k
    · exact queues q
  have drained : (acknowledge p rest s).queuesOk := fun q =>
    Notify.extends_wellNumbered ((kept_acknowledge_drain p rest s).notify q) (cut q)
  refine ⟨drained, fun q m => ?_⟩
  by_cases e : p = q
  · subst e
    exact (drained p).1.antisymm (drain_marks p _ m)
  · have same : (acknowledge p rest s).notifyOf q = s.notifyOf q := by
      rw [acknowledge, drain_other p q e, State.setNotify_read_notifyOf, if_neg e]
    rw [same] at m ⊢
    refine marks q (m.imp_right fun ⟨i, hi⟩ => ⟨i, ?_⟩)
    rwa [acknowledge, drain_marked_other p q e] at hi

theorem notifyOk_setNodeEvents (p : Port) (a : Action) {s : State} (h : s.notifyOk) : (setNodeEvents p a s).notifyOk := by
  refine notifyOk_of_same (s := s) (fun q => ?_) (fun q => ?_) (fun q m => ?_) h
  · cases a <;> cases p <;> cases q <;> rfl
  · cases a <;> cases p <;> cases q <;> rfl
  · cases a <;> cases p <;> cases q <;> exact m

theorem notifyOk_notificationsOff (p : Port) {s : State} (h : s.notifyOk) : (notificationsOff p s).notifyOk := by
  have own (q : Port) : (notificationsOff p s).notifyOf q =
      if p = q then { s.notifyOf p with queue := [], systemMark := false, enabled := false } else s.notifyOf q :=
    State.setNotify_read_notifyOf s p q _
  constructor
  · intro q
    rw [own]
    split
    · exact wellNumbered_of_empty rfl
    · exact h.1 q
  · intro q m
    rw [own] at m ⊢
    simp only [State.marked, notificationsOff_point, Option.any_map] at m
    by_cases e : p = q
    · subst e
      simp [Point.setMark] at m
    · rw [if_neg e] at m ⊢
      refine h.2 q (m.imp_right fun ⟨i, hi⟩ => ⟨i, ?_⟩)
      simpa [Point.setMark, Function.comp_def, e, State.marked] using hi

theorem notifyOk_setNotifications (p : Port) (a : Action) {s : State} (h : s.notifyOk) :
    (setNotifications p a s).notifyOk := by
  cases a with
  | keep => exact h
  | set =>
    refine notifyOk_of_same (s := s) (fun q => ?_) (fun q => ?_) (fun q m => ?_) h
    · cases p <;> cases q <;> rfl
    · cases p <;> cases q <;> rfl
    · cases p <;> cases q <;> exact m
  | remove =>
    rw [setNotifications_remove]
    split
    · exact notifyOk_notificationsOff p h
    · exact h

theorem notifyOk_of_emptied {t : State} (hq : ∀ p, (t.notifyOf p).queue = []) (hs : ∀ p, (t.notifyOf p).systemMark = false)
    (hp : ∀ i, t.point? i = none) : t.notifyOk := by
  refine ⟨fun p => wellNumbered_of_empty (hq p), fun p m => ?_⟩
  simp [State.marked, hs, hp] at m

theorem step_keeps_notifyOk {s t : State} (hs : s.notifyOk) (h : step s = .next t) : t.notifyOk := by
  refine law_of_records (P := State.notifyOk) (fun _ _ hs => hs) (fun _ hs => hs) ?reset ?kept ?freed ?defined
    ?acknowledged ?enables ?cleared hs h
  case reset => exact fun s t r => notifyOk_of_emptied (fun p => by rw [r.notify]; rfl) (fun p => by rw [r.notify]; rfl) r.point
  case kept => exact fun s t k hs => k.notifyOk hs
  case freed => exact fun i s pt hp hs => notifyOk_freeSlot hp hs
  case defined => exact fun p d i s _ _ hs => notifyOk_definePoint p d i hs
  case acknowledged => exact fun p seq rest s k hs => notifyOk_acknowledge k hs
  case enables => exact fun p a b s hs => notifyOk_setNodeEvents p b (notifyOk_setNotifications p a hs)
  case cleared =>
    exact fun s _ => notifyOk_of_emptied (fun p => by cases p <;> rfl) (fun p => by cases p <;> rfl) (clearRecords_point s)

/-- Settles O57. -/
theorem stepsKeepTheQueuesNumberedAndTheMarksTrue : Obligations.StepsKeepTheQueuesNumberedAndTheMarksTrue :=
  fun _ _ queues marks h => step_keeps_notifyOk ⟨queues, marks⟩ h

end Sys2Proof.Machine

/-!
The node directory (R91, R92, R93, R103): the order of its keys, the count of the points of a node under a slot filled or
freed, and its law shape by shape of what a step does to the roster.
-/
namespace Sys2Proof.Machine

set_option Elab.async false

/-! ### The order of the keys (R103) -/

theorem before_iff (e f : NodeEntry) :
    e.before f = true ↔
      (e.segment = .a ∧ f.segment = .b) ∨ (e.segment = f.segment ∧ e.address.toNat < f.address.toNat) := by
  unfold NodeEntry.before
  cases e.segment <;> cases f.segment <;> simp

theorem hasKey_iff (e : NodeEntry) (g : SegId) (x : Address) :
    e.hasKey g x = true ↔ e.segment = g ∧ e.address = x := by
  simp [NodeEntry.hasKey]

theorem hasKey_self (e : NodeEntry) : e.hasKey e.segment e.address = true := (hasKey_iff e _ _).mpr ⟨rfl, rfl⟩

theorem before_trans {e f h : NodeEntry} (a : e.before f = true) (b : f.before h = true) : e.before h = true := by
  rw [before_iff] at a b ⊢
  rcases a with ⟨a1, a2⟩ | ⟨a1, a2⟩ <;> rcases b with ⟨b1, b2⟩ | ⟨b1, b2⟩
  · rw [a2] at b1; cases b1
  · exact .inl ⟨a1, b1 ▸ a2⟩
  · exact .inl ⟨a1 ▸ b1, b2⟩
  · exact .inr ⟨a1.trans b1, a2.trans b2⟩

/-- Of two entries with different keys one comes before the other. -/
theorem before_of_not_before {e f : NodeEntry} (differ : f.hasKey e.segment e.address = false)
    (h : e.before f = false) : f.before e = true := by
  rw [← Bool.not_eq_true, before_iff] at h
  rw [before_iff]
  rw [← Bool.not_eq_true, hasKey_iff] at differ
  push Not at h differ
  obtain ⟨crossing, same⟩ := h
  by_cases hs : f.segment = e.segment
  · have unequal : f.address.toNat ≠ e.address.toNat := fun k => differ hs (BitVec.eq_of_toNat_eq k)
    have := same hs.symm
    exact .inr ⟨hs, by omega⟩
  · left
    cases he : e.segment <;> cases hf : f.segment <;> simp_all

theorem before_irrefl (e : NodeEntry) : e.before e = false := by
  rw [← Bool.not_eq_true, before_iff]
  rintro (⟨a, b⟩ | ⟨-, lt⟩)
  · rw [a] at b; cases b
  · exact lt.ne rfl

/-! ### An entry put in its place -/

theorem insertNode_cons_before {e f : NodeEntry} (h : e.before f = true) (l : List NodeEntry) :
    insertNode e (f :: l) = e :: f :: l := by simp [insertNode, h]

theorem insertNode_cons_behind {e f : NodeEntry} (h : e.before f = false) (l : List NodeEntry) :
    insertNode e (f :: l) = f :: insertNode e l := by simp [insertNode, h]

/-- A new entry stands behind those it does not come before, ahead of the next one. -/
theorem insertNode_splits (e : NodeEntry) (l : List NodeEntry) :
    ∃ ahead behind, l = ahead ++ behind ∧ insertNode e l = ahead ++ e :: behind ∧ (∀ f ∈ ahead, e.before f = false) ∧
      ∀ f, behind.head? = some f → e.before f = true := by
  induction l with
  | nil => exact ⟨[], [], rfl, rfl, by simp, by simp⟩
  | cons f l ih =>
    cases h : e.before f with
    | true => exact ⟨[], f :: l, rfl, insertNode_cons_before h l, by simp, by simpa using h⟩
    | false =>
      obtain ⟨ahead, behind, split, put, passed, next⟩ := ih
      refine ⟨f :: ahead, behind, by rw [split]; rfl, by rw [insertNode_cons_behind h, put]; rfl, ?_, next⟩
      intro k hk
      rcases List.mem_cons.mp hk with rfl | hk
      · exact h
      · exact passed k hk

theorem mem_insertNode {e f : NodeEntry} {l : List NodeEntry} : f ∈ insertNode e l ↔ f = e ∨ f ∈ l := by
  obtain ⟨ahead, behind, split, put, -⟩ := insertNode_splits e l
  rw [put, split]
  simp only [List.mem_append, List.mem_cons]
  tauto

theorem length_insertNode (e : NodeEntry) (l : List NodeEntry) : (insertNode e l).length = l.length + 1 := by
  obtain ⟨ahead, behind, split, put, -⟩ := insertNode_splits e l
  rw [put, split]
  simp only [List.length_append, List.length_cons]
  omega

/-- A new key put in its place keeps the order of the keys. -/
theorem pairwise_insertNode {e : NodeEntry} {l : List NodeEntry} (ordered : l.Pairwise fun e f => e.before f = true)
    (fresh : ∀ f ∈ l, f.hasKey e.segment e.address = false) :
    (insertNode e l).Pairwise fun e f => e.before f = true := by
  obtain ⟨ahead, behind, rfl, put, passed, next⟩ := insertNode_splits e l
  obtain ⟨first, second, across⟩ := List.pairwise_append.mp ordered
  have afterwards : ∀ f ∈ behind, e.before f = true := by
    cases behind with
    | nil => simp
    | cons k behind =>
      have head := next k rfl
      intro f hf
      rcases List.mem_cons.mp hf with rfl | hf
      · exact head
      · exact before_trans head ((List.pairwise_cons.mp second).1 f hf)
  rw [put]
  refine List.pairwise_append.mpr ⟨first, List.pairwise_cons.mpr ⟨afterwards, second⟩, fun f hf k hk => ?_⟩
  rcases List.mem_cons.mp hk with rfl | hk
  · exact before_of_not_before (fresh f (List.mem_append_left _ hf)) (passed f hf)
  · exact across f hf k hk

/-! ### The points of a node -/

theorem nodup_allSlots : allSlots.Nodup := List.nodup_finRange 256

/-- Slots of which one alone is counted otherwise. -/
theorem countP_allSlots_of_one {f h : SlotNo → Bool} {i : SlotNo} (other : ∀ j, j ≠ i → f j = h j) (hi : h i = false) :
    allSlots.countP f = allSlots.countP h + if f i = true then 1 else 0 := by
  obtain ⟨l, m, split⟩ := List.append_of_mem (mem_allSlots i)
  have apart : i ∉ l ∧ i ∉ m := by
    have := nodup_allSlots
    rw [split, List.nodup_append, List.nodup_cons] at this
    obtain ⟨-, ⟨hm, -⟩, disjoint⟩ := this
    exact ⟨fun hl => disjoint i hl i (by simp) rfl, hm⟩
  have same (k : List SlotNo) (hk : i ∉ k) : k.countP f = k.countP h :=
    List.countP_congr fun j hj => by rw [other j (fun e => hk (e ▸ hj))]
  rw [split, List.countP_append, List.countP_append, List.countP_cons, List.countP_cons, same l apart.1, same m apart.2, hi]
  simp only [Bool.false_eq_true, if_false]
  omega

/-- A slot filled or freed counts for the node that its point names (R92). -/
theorem pointsNaming_of_one {s t : State} {i : SlotNo} {a : Identity} (other : ∀ j, j ≠ i → s.ident j = t.ident j)
    (hs : s.ident i = some a) (ht : t.ident i = none) (g : SegId) (x : Address) :
    s.pointsNaming g x = t.pointsNaming g x + if a.segment = g ∧ a.address = x then 1 else 0 := by
  unfold State.pointsNaming
  rw [countP_allSlots_of_one (i := i) (fun j hj => by rw [other j hj]) (by rw [ht]; rfl), hs]
  simp

theorem one_le_pointsNaming {s : State} {i : SlotNo} {a : Identity} (h : s.ident i = some a) :
    1 ≤ s.pointsNaming a.segment a.address := by
  refine List.countP_pos_iff.mpr ⟨i, mem_allSlots i, ?_⟩
  simp [h]

/-! ### The law under each shape -/

/-- An entry of the directory agrees with the points that name its node (R91, R92, R93). -/
def NodeEntry.countOk (s : State) (e : NodeEntry) : Prop :=
  e.points = s.pointsNaming e.segment e.address ∧ 1 ≤ e.points ∧ e.points ≤ nodePointLimit

theorem count_eq_iff (e f : NodeEntry) :
    e.count = f.count ↔ e.segment = f.segment ∧ e.address = f.address ∧ e.points = f.points := by
  simp [NodeEntry.count]

theorem pointsNaming_congr {s t : State} (h : ∀ i, t.ident i = s.ident i) (g : SegId) (x : Address) :
    t.pointsNaming g x = s.pointsNaming g x := by
  simp only [State.pointsNaming, h]

/-- The law reads of an entry its key and its count alone. -/
theorem directoryOk_congr {s t : State} (hi : ∀ i, t.ident i = s.ident i)
    (hc : t.directory.map NodeEntry.count = s.directory.map NodeEntry.count) (h : s.directoryOk) : t.directoryOk := by
  obtain ⟨room, ordered, counted, named⟩ := h
  have match_of_mem {l m : List NodeEntry} (hc : l.map NodeEntry.count = m.map NodeEntry.count) {e : NodeEntry}
      (he : e ∈ l) : ∃ f ∈ m, f.count = e.count :=
    List.mem_map.mp (hc ▸ List.mem_map_of_mem he)
  refine ⟨?room, ?ordered, fun e he => ?counted, fun i a ha => ?named⟩
  case room => simpa using (congrArg List.length hc).trans_le (by simpa using room)
  case ordered =>
    have onCounts (l : List NodeEntry) : l.Pairwise (fun e f => e.before f = true) ↔
        (l.map NodeEntry.count).Pairwise fun c d =>
          (c.1 = .a ∧ d.1 = .b) ∨ (c.1 = d.1 ∧ c.2.1.toNat < d.2.1.toNat) := by
      simp only [List.pairwise_map, NodeEntry.count, before_iff]
    rw [onCounts, hc, ← onCounts]
    exact ordered
  case counted =>
    obtain ⟨f, hf, same⟩ := match_of_mem hc he
    obtain ⟨hg, hx, hn⟩ := (count_eq_iff f e).mp same
    rw [pointsNaming_congr hi, ← hg, ← hx, ← hn]
    exact counted f hf
  case named =>
    rw [hi] at ha
    obtain ⟨e, he, key⟩ := named i a ha
    obtain ⟨f, hf, same⟩ := match_of_mem hc.symm he
    obtain ⟨hg, hx, -⟩ := (count_eq_iff f e).mp same
    refine ⟨f, hf, ?_⟩
    rwa [hasKey_iff, hg, hx, ← hasKey_iff]

theorem directoryOk_of_empty {t : State} (hd : t.directory = []) (hi : ∀ i, t.ident i = none) : t.directoryOk := by
  refine ⟨by simp [hd], by simp [hd], by simp [hd], fun i a ha => ?_⟩
  rw [hi] at ha
  cases ha

/-- The entry with its count lowered, as the freeing procedure leaves it (R11). -/
def NodeEntry.dropOne (g : SegId) (x : Address) (e : NodeEntry) : NodeEntry :=
  if e.hasKey g x then { e with points := e.points - 1 } else e

/-- The entry with its count raised, as DEFINE leaves it (R14). -/
def NodeEntry.addOne (g : SegId) (x : Address) (e : NodeEntry) : NodeEntry :=
  if e.hasKey g x then { e with points := e.points + 1 } else e

theorem dropOne_key (g : SegId) (x : Address) (e : NodeEntry) :
    (e.dropOne g x).segment = e.segment ∧ (e.dropOne g x).address = e.address := by
  unfold NodeEntry.dropOne
  split <;> exact ⟨rfl, rfl⟩

theorem addOne_key (g : SegId) (x : Address) (e : NodeEntry) :
    (e.addOne g x).segment = e.segment ∧ (e.addOne g x).address = e.address := by
  unfold NodeEntry.addOne
  split <;> exact ⟨rfl, rfl⟩

/-- A change that keeps the keys keeps their order. -/
theorem pairwise_before_map {f : NodeEntry → NodeEntry} (hf : ∀ e, (f e).segment = e.segment ∧ (f e).address = e.address)
    {l : List NodeEntry} (h : l.Pairwise fun e k => e.before k = true) :
    (l.map f).Pairwise fun e k => e.before k = true := by
  refine List.pairwise_map.mpr (h.imp fun {e k} hb => ?_)
  rwa [before_iff, (hf e).1, (hf e).2, (hf k).1, (hf k).2, ← before_iff]

theorem dropNodePoint_directory (g : SegId) (x : Address) (s : State) :
    (dropNodePoint g x s).directory =
      (s.directory.map (NodeEntry.dropOne g x)).filter fun e => !(e.hasKey g x && e.points == 0) := rfl

theorem addNodePoint_directory_of_some {g : SegId} {x : Address} {s : State} {e : NodeEntry}
    (h : s.nodeEntry? g x = some e) :
    (addNodePoint g x s).directory = s.directory.map (NodeEntry.addOne g x) := by
  simp only [addNodePoint, h]
  rfl

theorem addNodePoint_directory_of_none {g : SegId} {x : Address} {s : State} (h : s.nodeEntry? g x = none) :
    (addNodePoint g x s).directory =
      insertNode { segment := g, address := x, presence := .unconfirmed, points := 1, misses := 0, probe := none }
        s.directory := by
  simp only [addNodePoint, h]
  rfl

/-- The freeing procedure counts the point out of its node's entry, which goes at 0 (R11, R92). -/
theorem directoryOk_freeSlot {i : SlotNo} {s : State} {pt : Point} (hp : s.point? i = some pt) (h : s.directoryOk) :
    (freeSlot i s).directoryOk := by
  obtain ⟨room, ordered, counted, named⟩ := h
  have gone : s.ident i = some pt.identity := by simp [State.ident, hp]
  have before (g : SegId) (x : Address) : s.pointsNaming g x =
      (freeSlot i s).pointsNaming g x + if pt.segment = g ∧ pt.address = x then 1 else 0 :=
    pointsNaming_of_one (fun j hj => by rw [freeSlot_ident hp, if_neg (Ne.symm hj)]) gone
      (by rw [freeSlot_ident hp, if_pos rfl]) g x
  have entries : (freeSlot i s).directory = _ := (freeSlot_directory i s pt hp).trans (dropNodePoint_directory _ _ s)
  have lowered : ∀ e ∈ s.directory,
      (e.dropOne pt.segment pt.address).points = (freeSlot i s).pointsNaming e.segment e.address := by
    intro e he
    have count := (counted e he).1
    rw [before] at count
    unfold NodeEntry.dropOne
    by_cases key : e.hasKey pt.segment pt.address = true
    · obtain ⟨hg, hx⟩ := (hasKey_iff e _ _).mp key
      rw [if_pos ⟨hg.symm, hx.symm⟩] at count
      rw [if_pos key]
      show e.points - 1 = _
      omega
    · have differ : ¬(pt.segment = e.segment ∧ pt.address = e.address) := fun ⟨hg, hx⟩ =>
        key ((hasKey_iff e _ _).mpr ⟨hg.symm, hx.symm⟩)
      rw [if_neg key, count, if_neg differ]
      rfl
  have atMost : ∀ e : NodeEntry, (e.dropOne pt.segment pt.address).points ≤ e.points := by
    intro e
    unfold NodeEntry.dropOne
    split
    · exact Nat.sub_le _ _
    · exact le_rfl
  refine ⟨?room, ?ordered, fun e he => ?counted, fun j a ha => ?named⟩
  case room =>
    rw [entries]
    exact (List.length_filter_le _ _).trans ((List.length_map _).trans_le room)
  case ordered =>
    rw [entries]
    exact (pairwise_before_map (dropOne_key _ _) ordered).filter _
  case counted =>
    rw [entries, List.mem_filter] at he
    obtain ⟨mem, stays⟩ := he
    obtain ⟨e, he, rfl⟩ := List.mem_map.mp mem
    obtain ⟨hg, hx⟩ := dropOne_key pt.segment pt.address e
    rw [hg, hx]
    refine ⟨lowered e he, ?_, (atMost e).trans (counted e he).2.2⟩
    by_cases key : e.hasKey pt.segment pt.address = true
    · have key' : (e.dropOne pt.segment pt.address).hasKey pt.segment pt.address = true := by
        rwa [hasKey_iff, hg, hx, ← hasKey_iff]
      rw [key'] at stays
      simp only [Bool.true_and, Bool.not_eq_true', beq_eq_false_iff_ne] at stays
      omega
    · unfold NodeEntry.dropOne
      rw [if_neg key]
      exact (counted e he).2.1
  case named =>
    have there := one_le_pointsNaming ha
    rw [freeSlot_ident hp] at ha
    split at ha
    · cases ha
    · obtain ⟨e, he, key⟩ := named j a ha
      obtain ⟨hg, hx⟩ := (hasKey_iff e _ _).mp key
      obtain ⟨hg', hx'⟩ := dropOne_key pt.segment pt.address e
      refine ⟨e.dropOne pt.segment pt.address, ?_, by rw [hasKey_iff, hg', hx']; exact ⟨hg, hx⟩⟩
      rw [entries, List.mem_filter]
      refine ⟨List.mem_map_of_mem he, ?_⟩
      have : (e.dropOne pt.segment pt.address).points ≠ 0 := by
        rw [lowered e he, hg, hx]
        omega
      simp [this]

/-- DEFINE counts the point in its node's entry, or makes the entry in its place (R14, R92). -/
theorem directoryOk_definePoint (p : Port) {d : Definition} {i : SlotNo} {s : State} (hr : defineResources d s = .ok i)
    (h : s.directoryOk) : (definePoint p d i s).directoryOk := by
  obtain ⟨room, ordered, counted, named⟩ := h
  obtain ⟨free, -⟩ := defineResources_free hr
  have now (j : SlotNo) := definePoint_ident p d i j s
  have after (g : SegId) (x : Address) : (definePoint p d i s).pointsNaming g x =
      s.pointsNaming g x + if d.segment = g ∧ d.address = x then 1 else 0 :=
    pointsNaming_of_one (a := (Point.new p d).identity) (fun j hj => by rw [now, if_neg (Ne.symm hj)])
      (by rw [now, if_pos rfl]) free g x
  obtain ⟨-, -, place⟩ := defineResources_ok hr
  rcases place with ⟨none, spare⟩ | ⟨known, found, limit⟩
  · have entries : (definePoint p d i s).directory = _ :=
      (definePoint_directory p d i s).trans (addNodePoint_directory_of_none none)
    have absent : ∀ e ∈ s.directory, e.hasKey d.segment d.address = false := by
      intro e he
      simpa using List.find?_eq_none.mp none e he
    refine ⟨?room1, ?ordered1, fun e he => ?counted1, fun j a ha => ?named1⟩
    case room1 =>
      rw [entries, length_insertNode]
      exact spare
    case ordered1 =>
      rw [entries]
      exact pairwise_insertNode ordered absent
    case counted1 =>
      rw [entries, mem_insertNode] at he
      rcases he with rfl | he
      · have unnamed : s.pointsNaming d.segment d.address = 0 := by
          refine List.countP_eq_zero.mpr fun j _ hj => ?_
          obtain ⟨a, ha, key⟩ := Option.any_eq_true _ _ |>.mp hj
          obtain ⟨e, he, hk⟩ := named j a ha
          simp only [Bool.and_eq_true, beq_iff_eq] at key
          rw [key.1, key.2, absent e he] at hk
          cases hk
        refine ⟨?_, le_rfl, (by decide : 1 ≤ nodePointLimit)⟩
        rw [after, unnamed, if_pos ⟨rfl, rfl⟩]
      · have differ : ¬(d.segment = e.segment ∧ d.address = e.address) := fun ⟨hg, hx⟩ => by
          have := absent e he
          rw [hg, hx, hasKey_self] at this
          cases this
        rw [after, if_neg differ]
        exact counted e he
    case named1 =>
      rw [now] at ha
      rw [entries]
      simp only [mem_insertNode]
      split at ha
      · obtain rfl := Option.some.inj ha
        exact ⟨_, .inl rfl, by rw [hasKey_iff]; exact ⟨rfl, rfl⟩⟩
      · obtain ⟨e, he, key⟩ := named j a ha
        exact ⟨e, .inr he, key⟩
  · have entries : (definePoint p d i s).directory = _ :=
      (definePoint_directory p d i s).trans (addNodePoint_directory_of_some found)
    have key := List.find?_some found
    have mem := List.mem_of_find?_eq_some found
    refine ⟨?room2, ?ordered2, fun e he => ?counted2, fun j a ha => ?named2⟩
    case room2 => rw [entries, List.length_map]; exact room
    case ordered2 => rw [entries]; exact pairwise_before_map (addOne_key _ _) ordered
    case counted2 =>
      rw [entries] at he
      obtain ⟨e, listed, rfl⟩ := List.mem_map.mp he
      obtain ⟨hg, hx⟩ := addOne_key d.segment d.address e
      obtain ⟨count, atLeast, atMost⟩ := counted e listed
      rw [hg, hx, after]
      by_cases hk : e.hasKey d.segment d.address = true
      · obtain ⟨hg', hx'⟩ := (hasKey_iff e _ _).mp hk
        obtain ⟨kg, kx⟩ := (hasKey_iff known _ _).mp key
        have same := (counted known mem).1
        rw [kg, kx, ← hg', ← hx', ← count] at same
        rw [if_pos ⟨hg'.symm, hx'.symm⟩, ← count]
        unfold NodeEntry.addOne
        rw [if_pos hk]
        exact ⟨rfl, by show 1 ≤ e.points + 1; omega, by show e.points + 1 ≤ _; omega⟩
      · have differ : ¬(d.segment = e.segment ∧ d.address = e.address) := fun ⟨hg, hx⟩ =>
          hk ((hasKey_iff e _ _).mpr ⟨hg.symm, hx.symm⟩)
        rw [if_neg differ]
        unfold NodeEntry.addOne
        rw [if_neg hk]
        exact ⟨count, atLeast, atMost⟩
    case named2 =>
      rw [now] at ha
      have covered : ∃ e ∈ s.directory, e.hasKey a.segment a.address = true := by
        split at ha
        · obtain rfl := Option.some.inj ha
          exact ⟨known, mem, key⟩
        · exact named j a ha
      obtain ⟨e, he, hk⟩ := covered
      obtain ⟨hg, hx⟩ := addOne_key d.segment d.address e
      refine ⟨e.addOne d.segment d.address, entries ▸ List.mem_map_of_mem he, ?_⟩
      rwa [hasKey_iff, hg, hx, ← hasKey_iff]

theorem step_keeps_directoryOk {s t : State} (hs : s.directoryOk) (h : step s = .next t) : t.directoryOk := by
  refine law_of_records (P := State.directoryOk) (fun _ _ hs => hs) (fun _ hs => hs) ?reset ?kept ?freed ?defined
    ?acknowledged ?enables ?cleared hs h
  case reset => exact fun s t r => directoryOk_of_empty r.directory r.ident
  case kept => exact fun s t k hs => directoryOk_congr k.ident k.count hs
  case freed => exact fun i s pt hp hs => directoryOk_freeSlot hp hs
  case defined => exact fun p d i s _ hr hs => directoryOk_definePoint p hr hs
  case acknowledged =>
    exact fun p _ rest s _ hs => directoryOk_congr (acknowledge_ident p rest s) (acknowledge_count p rest s) hs
  case enables =>
    exact fun p a b s hs => directoryOk_congr (setEnables_ident p a b s)
      (by rw [setNodeEvents_directory, setNotifications_directory]) hs
  case cleared => exact fun s _ => directoryOk_of_empty rfl (clearRecords_ident s)

/-- Settles O58. -/
theorem stepsKeepTheDirectoryOfTheNodes : Obligations.StepsKeepTheDirectoryOfTheNodes :=
  fun _ _ hs h => step_keeps_directoryOk hs h

end Sys2Proof.Machine

/-!
States compared update by update; a request that is ready carried out, with the point its handle names; and what an offered
notification does (R147, R149, R150): only the queues and the marks of the point it is about change.
-/
namespace Sys2Proof.Machine

set_option Elab.async false

/-! ### Updates of the state -/

theorem SlotNo.val_ne {i j : SlotNo} (h : i ≠ j) : (i : Nat) ≠ (j : Nat) := fun e => h (Fin.ext e)

theorem slots_set_self {s : State} {i : SlotNo} : s.slots.set i s.slots[i] = s.slots := by
  refine Vector.ext fun k hk => ?_
  rw [Vector.getElem_set]
  split
  · next e => subst e; rfl
  · rfl

theorem setSlot_self (s : State) (i : SlotNo) : s.setSlot i s.slots[i] = s := by
  unfold State.setSlot
  rw [slots_set_self]

theorem setPoint_self {s : State} {i : SlotNo} {pt : Point} (h : s.point? i = some pt) : s.setPoint i pt = s := by
  have slot : ({ generation := s.generation i, point := some pt } : Slot) = s.slots[i] := by
    rw [← h]; rfl
  rw [State.setPoint, slot, setSlot_self]

@[simp] theorem setSlot_setSlot (s : State) (i : SlotNo) (x y : Slot) : (s.setSlot i x).setSlot i y = s.setSlot i y := by
  simp [State.setSlot]

@[simp] theorem setPoint_setPoint (s : State) (i : SlotNo) (a b : Point) :
    (s.setPoint i a).setPoint i b = s.setPoint i b := by
  rw [State.setPoint, State.setPoint_read_generation, State.setPoint, setSlot_setSlot, State.setPoint]

@[simp] theorem setSegment_setSegment (s : State) (g : SegId) (x y : Segment) :
    (s.setSegment g x).setSegment g y = s.setSegment g y := by cases g <;> rfl

@[simp] theorem setSegment_self (s : State) (g : SegId) : s.setSegment g (s.segment g) = s := by cases g <;> rfl

@[simp] theorem setNotify_self (s : State) (p : Port) : s.setNotify p (s.notifyOf p) = s := by cases p <;> rfl

@[simp] theorem setNotify_setNotify (s : State) (p : Port) (x y : Notify) :
    (s.setNotify p x).setNotify p y = s.setNotify p y := by cases p <;> rfl

theorem setPoint_setSegment (s : State) (i : SlotNo) (pt : Point) (g : SegId) (x : Segment) :
    (s.setSegment g x).setPoint i pt = (s.setPoint i pt).setSegment g x := rfl

theorem setPoint_setNotify (s : State) (i : SlotNo) (pt : Point) (p : Port) (x : Notify) :
    (s.setNotify p x).setPoint i pt = (s.setPoint i pt).setNotify p x := rfl

theorem modPoint_setSegment (s : State) (i : SlotNo) (f : Point → Point) (g : SegId) (x : Segment) :
    (s.setSegment g x).modPoint i f = (s.modPoint i f).setSegment g x := by
  cases h : s.point? i with
  | none => rw [State.modPoint_of_none s i f h]; exact State.modPoint_of_none (s.setSegment g x) i f h
  | some pt => rw [State.modPoint_of_some s i f pt h]; exact State.modPoint_of_some (s.setSegment g x) i f pt h

theorem modPoint_modSegment (s : State) (i : SlotNo) (f : Point → Point) (g : SegId) (h : Segment → Segment) :
    (s.modSegment g h).modPoint i f = (s.modPoint i f).modSegment g h := by
  rw [State.modSegment, modPoint_setSegment, State.modSegment, State.modPoint_read_segment]

theorem modPoint_setPoint (s : State) (i : SlotNo) (f : Point → Point) (pt : Point) :
    (s.setPoint i pt).modPoint i f = s.setPoint i (f pt) := by
  rw [State.modPoint_of_some _ _ _ pt (by simp), setPoint_setPoint]

theorem modPoint_modPoint (s : State) (i : SlotNo) (f h : Point → Point) :
    (s.modPoint i f).modPoint i h = s.modPoint i (h ∘ f) := by
  cases e : s.point? i with
  | none => rw [State.modPoint_of_none _ _ f e, State.modPoint_of_none _ _ _ e, State.modPoint_of_none _ _ _ e]
  | some pt => rw [State.modPoint_of_some _ _ f _ e, State.modPoint_of_some _ _ _ _ e, modPoint_setPoint]; rfl

theorem modSegment_modSegment (s : State) (g : SegId) (f h : Segment → Segment) :
    (s.modSegment g f).modSegment g h = s.modSegment g (h ∘ f) := by
  rw [State.modSegment, State.modSegment_read_segment, if_pos rfl, State.modSegment, setSegment_setSegment, State.modSegment]
  rfl

theorem filter_bne (l : List SlotNo) (i : SlotNo) : (l.filter (· != i)) = l.filter (· ≠ i) :=
  List.filter_congr fun j _ => by simp [bne, beq_eq_decide]

theorem filter_slot_bne (l : List SchedEntry) (i : SlotNo) :
    (l.filter (·.slot != i)) = l.filter (·.slot ≠ i) :=
  List.filter_congr fun j _ => by simp [bne, beq_eq_decide]

/-! ### Requests of a ready port -/

/-- A request command submits its request; an ENABLE looks at the lines first (log entry 7). -/
theorem exec_request {c : Instr} {p : Port} {tag : Byte} {r : Request} (h : asRequest c = some (p, tag, r))
    (hc : ∀ q u b x y, c ≠ .enable q u b x y) (s : State) : exec c s = .next (submit p tag r id s) := by
  cases c with
  | enable q u b x y => exact absurd rfl (hc q u b x y)
  | _ => cases h <;> rfl

theorem exec_enable (p : Port) (tag b : Byte) (x y : Bool) (s : State) :
    exec (.enable p tag b x y) s = .next (submit p tag (.segmentControl b 0 0) (lookAt b x y) s) := rfl

/-- A ready port's request is carried out at once and answered. -/
theorem exec_of_ready {c : Instr} {p : Port} {tag : Byte} {r : Request} {s : State} (h : asRequest c = some (p, tag, r))
    (ready : s.ready p = true) (fits : r.body.length ≤ bodyLimit) (hc : ∀ q u b x y, c ≠ .enable q u b x y)
    {t : State} {reply : Reply} (carried : carryOut p r (s.served p) = (t, reply)) :
    exec c s = .next (responded p tag reply t) := by
  rw [exec_request h hc, submit_of_ready tag id ready fits, id_eq, carried]

theorem resolve_rawHandle {s : State} {i : SlotNo} {pt : Point} (h : s.point? i = some pt) :
    resolve (s.rawHandle i) s = .ok (i, pt) := by
  simp [resolve, h, State.rawHandle]

theorem withPoint_rawHandle {s : State} {i : SlotNo} {pt : Point} (h : s.point? i = some pt)
    (k : SlotNo → Point → Carry) : withPoint (s.rawHandle i) s k = k i pt := by
  simp [withPoint, resolve_rawHandle h]

@[simp] theorem served_rawHandle (s : State) (p : Port) (i : SlotNo) : (s.served p).rawHandle i = s.rawHandle i := rfl

theorem isRetiring_iff (pt : Point) : pt.isRetiring = true ↔ ∃ q, pt.state = .retiring q := by
  unfold Point.isRetiring
  cases pt.state <;> simp

theorem isRetiring_eq_false {pt : Point} (h : ∀ q, pt.state ≠ .retiring q) : pt.isRetiring = false := by
  rw [← Bool.not_eq_true, isRetiring_iff]
  rintro ⟨q, e⟩
  exact h q e

theorem isActive_iff (pt : Point) : pt.isActive = true ↔ pt.state = .active := by simp [Point.isActive]

theorem not_retiring_of_held {pt : Point} (h : pt.state = .held) : pt.isRetiring = false :=
  isRetiring_eq_false fun q e => by rw [h] at e; cases e

theorem not_retiring_of_active {pt : Point} (h : pt.state = .active) : pt.isRetiring = false :=
  isRetiring_eq_false fun q e => by rw [h] at e; cases e

theorem isActive_of_held {pt : Point} (h : pt.state = .held) : pt.isActive = false := by simp [Point.isActive, h]

/-! ### Offers -/

/-- From `s` to `t` only the queues and the marks of slot `i` have changed. -/
def Noted (i : SlotNo) (s t : State) : Prop :=
  ∃ (m : PerPort Bool → PerPort Bool) (n : PerPort Notify),
    t = { s.modPoint i (fun pt => { pt with marks := m pt.marks }) with notify := n }

theorem modPoint_marks_id (s : State) (i : SlotNo) : s.modPoint i (fun pt => { pt with marks := id pt.marks }) = s := by
  cases h : s.point? i with
  | none => exact State.modPoint_of_none _ _ _ h
  | some pt => rw [State.modPoint_of_some _ _ _ _ h]; exact setPoint_self h

theorem modPoint_withNotify (s : State) (i : SlotNo) (f : Point → Point) (n : PerPort Notify) :
    ({ s with notify := n } : State).modPoint i f = { s.modPoint i f with notify := n } := by
  cases h : s.point? i with
  | none => rw [State.modPoint_of_none s i f h]; exact State.modPoint_of_none { s with notify := n } i f h
  | some pt => rw [State.modPoint_of_some s i f pt h]; exact State.modPoint_of_some { s with notify := n } i f pt h

theorem Noted.withNotify (i : SlotNo) (s : State) (n : PerPort Notify) : Noted i s { s with notify := n } :=
  ⟨id, n, by rw [modPoint_marks_id]⟩

theorem Noted.refl (i : SlotNo) (s : State) : Noted i s s := Noted.withNotify i s s.notify

theorem Noted.trans {i : SlotNo} {s t u : State} (h : Noted i s t) (k : Noted i t u) : Noted i s u := by
  obtain ⟨m, n, rfl⟩ := h
  obtain ⟨m', n', rfl⟩ := k
  exact ⟨m' ∘ m, n', by rw [modPoint_withNotify, modPoint_modPoint]; rfl⟩

theorem noted_offerPoint (p : Port) (i : SlotNo) (n : Note) (s : State) : Noted i s (offerPoint p i n s) := by
  unfold offerPoint
  dsimp only
  split
  · exact Noted.refl i s
  · split
    · exact Noted.withNotify i s _
    · refine ⟨fun m => m.set p true, s.notify, ?_⟩
      rw [← State.modPoint_notify s i fun pt => { pt with marks := pt.marks.set p true }]
      rfl

theorem noted_offerSystem (i : SlotNo) (p : Port) (n : Note) (s : State) : Noted i s (offerSystem p n s) := by
  unfold offerSystem
  dsimp only
  split
  · exact Noted.refl i s
  · split <;> exact Noted.withNotify i s _

theorem Noted.iteId {c : Prop} [Decidable c] {i : SlotNo} {s t : State} (h : Noted i s t) :
    Noted i s (if c then t else s) := by
  split
  · exact h
  · exact Noted.refl i s

theorem noted_offerSubscribers (f : SubSet → Bool) (i : SlotNo) (n : Note) (s : State) :
    Noted i s (offerSubscribers f i n s) :=
  (Noted.iteId (noted_offerPoint .host i n s)).trans (Noted.iteId (noted_offerPoint .console i n _))

theorem noted_closeCommand (i : SlotNo) (v : Issued) (c : Close) (s : State) : Noted i s (closeCommand i v c s) :=
  (Noted.iteId (noted_offerPoint .host i _ s)).trans (Noted.iteId (noted_offerPoint .console i _ _))

theorem noted_offerNodeEvents (i : SlotNo) (n : Note) (s : State) : Noted i s (offerNodeEvents n s) :=
  (Noted.iteId (noted_offerSystem i .host n s)).trans (Noted.iteId (noted_offerSystem i .console n _))

/-! ### What a noted state reads as -/

section Reads
variable {i : SlotNo} {s t : State}

theorem Noted.segments (h : Noted i s t) : t.segments = s.segments := by
  obtain ⟨m, n, rfl⟩ := h
  exact State.modPoint_segments _ _ _

theorem Noted.segment (h : Noted i s t) (g : SegId) : t.segment g = s.segment g := by
  unfold State.segment
  rw [h.segments]

theorem Noted.directory (h : Noted i s t) : t.directory = s.directory := by
  obtain ⟨m, n, rfl⟩ := h
  exact State.modPoint_directory _ _ _

theorem Noted.clock (h : Noted i s t) : t.clock = s.clock := by
  obtain ⟨m, n, rfl⟩ := h
  exact State.modPoint_clock _ _ _

theorem Noted.generation (h : Noted i s t) (j : SlotNo) : t.generation j = s.generation j := by
  obtain ⟨m, n, rfl⟩ := h
  exact State.modPoint_read_generation _ _ _ _

theorem Noted.handle (h : Noted i s t) (j : SlotNo) : t.handle j = s.handle j := by
  unfold State.handle
  rw [h.generation]

theorem Noted.point_of_ne (h : Noted i s t) {j : SlotNo} (hj : i ≠ j) : t.point? j = s.point? j := by
  obtain ⟨m, n, rfl⟩ := h
  exact (State.modPoint_read_point _ _ _ _).trans (if_neg hj)

/-- The slot's own point keeps all but its marks. -/
theorem Noted.point_self (h : Noted i s t) {pt : Point} (hp : s.point? i = some pt) :
    ∃ m, t.point? i = some { pt with marks := m } := by
  obtain ⟨m, n, rfl⟩ := h
  refine ⟨m pt.marks, (State.modPoint_read_point _ _ _ _).trans ?_⟩
  rw [if_pos rfl, hp]
  rfl

theorem Noted.point_none (h : Noted i s t) (hp : s.point? i = none) : t.point? i = none := by
  obtain ⟨m, n, rfl⟩ := h
  refine (State.modPoint_read_point _ _ _ _).trans ?_
  rw [if_pos rfl, hp]
  rfl

/-- What does not read the marks reads the same of every point. -/
theorem Noted.map_point {α : Type} (h : Noted i s t) {f : Point → α} (hf : ∀ pt m, f { pt with marks := m } = f pt)
    (j : SlotNo) : (t.point? j).map f = (s.point? j).map f := by
  by_cases e : i = j
  · subst e
    cases hp : s.point? i with
    | none => rw [h.point_none hp]
    | some pt =>
      obtain ⟨m, hm⟩ := h.point_self hp
      rw [hm, Option.map_some, Option.map_some, hf]
  · rw [h.point_of_ne e]

/-- With the point at hand, a noted state is the record with its marks replaced and the queues replaced. -/
theorem Noted.form (h : Noted i s t) {pt : Point} (hp : s.point? i = some pt) :
    ∃ m n, t = { s.setPoint i { pt with marks := m } with notify := n } := by
  obtain ⟨m, n, rfl⟩ := h
  exact ⟨m pt.marks, n, by rw [State.modPoint_of_some _ _ _ _ hp]⟩

end Reads

/-! ### What one offer does (R150) -/

section Offer
variable {p : Port} {i : SlotNo} {n : Note} {s : State}

theorem offerPoint_off (h : (s.notifyOf p).enabled = false) : offerPoint p i n s = s := by simp [offerPoint, h]

theorem offerSystem_off (h : (s.notifyOf p).enabled = false) : offerSystem p n s = s := by simp [offerSystem, h]

theorem hasRoom_eq_true {q : Notify} (h : q.queue.length < 64) : q.hasRoom = true := by
  exact decide_eq_true h

theorem hasRoom_eq_false {q : Notify} (h : 64 ≤ q.queue.length) : q.hasRoom = false := by
  exact decide_eq_false (Nat.not_lt.mpr h)

theorem offerPoint_room (on : (s.notifyOf p).enabled = true) (room : (s.notifyOf p).queue.length < 64) :
    offerPoint p i n s = s.setNotify p ((s.notifyOf p).push s.clock n) := by
  simp [offerPoint, on, hasRoom_eq_true room]

theorem offerSystem_room (on : (s.notifyOf p).enabled = true) (room : (s.notifyOf p).queue.length < 64) :
    offerSystem p n s = s.setNotify p ((s.notifyOf p).push s.clock n) := by
  simp [offerSystem, on, hasRoom_eq_true room]

theorem offerPoint_full (on : (s.notifyOf p).enabled = true) (full : 64 ≤ (s.notifyOf p).queue.length) :
    offerPoint p i n s = s.modPoint i (·.setMark p true) := by
  simp [offerPoint, on, hasRoom_eq_false full]

theorem offerSystem_full (on : (s.notifyOf p).enabled = true) (full : 64 ≤ (s.notifyOf p).queue.length) :
    offerSystem p n s = s.setNotify p { s.notifyOf p with systemMark := true } := by
  simp [offerSystem, on, hasRoom_eq_false full]

/-- An offer of a point kind reaches its own port alone (R147). -/
theorem offerPoint_notifyOf_other (q : Port) (h : p ≠ q) : (offerPoint p i n s).notifyOf q = s.notifyOf q := by
  unfold offerPoint
  dsimp only
  split
  · rfl
  · split <;> simp [h]

theorem offerSystem_notifyOf_other (q : Port) (h : p ≠ q) : (offerSystem p n s).notifyOf q = s.notifyOf q := by
  unfold offerSystem
  dsimp only
  split
  · rfl
  · split <;> simp [h]

/-- What an offer makes of its port's queue is read off that queue and the clock. -/
theorem offerPoint_notifyOf_congr {t : State} (hq : t.notifyOf p = s.notifyOf p) (hc : t.clock = s.clock) :
    (offerPoint p i n t).notifyOf p = (offerPoint p i n s).notifyOf p := by
  unfold offerPoint
  dsimp only
  rw [hq]
  split
  · exact hq
  · split <;> simp [hc, hq]

theorem offerSystem_notifyOf_congr {t : State} (hq : t.notifyOf p = s.notifyOf p) (hc : t.clock = s.clock) :
    (offerSystem p n t).notifyOf p = (offerSystem p n s).notifyOf p := by
  unfold offerSystem
  dsimp only
  rw [hq]
  split
  · exact hq
  · split <;> simp [hc]

/-- The point's mark for the port of an offer stands afterwards where it stood, or where the queue was full. -/
theorem offerPoint_point {pt : Point} (hp : s.point? i = some pt) :
    (offerPoint p i n s).point? i = some { pt with
      marks := pt.marks.set p
        (pt.marks.get p || ((s.notifyOf p).enabled && decide (64 ≤ (s.notifyOf p).queue.length))) } := by
  have keep : pt.marks.set p (pt.marks.get p) = pt.marks := PerPort.set_get _ _
  cases on : (s.notifyOf p).enabled with
  | false => simp [offerPoint_off on, hp, keep]
  | true =>
    by_cases room : (s.notifyOf p).queue.length < 64
    · simp [offerPoint_room on room, hp, keep, Nat.not_le.mpr room]
    · have full := Nat.not_lt.mp room
      simp [offerPoint_full on full, hp, full, Point.setMark]

end Offer

end Sys2Proof.Machine

/-! To which ports a notification is offered, and what becomes of it there (R147, R149, R150). -/
namespace Sys2Proof.Machine

set_option Elab.async false

/-- A notification about slot `i` offered to each port that `named` holds of, HOST first. -/
def offerPorts (named : Port → Bool) (i : SlotNo) (n : Note) (s : State) : State :=
  let s1 := if named .host then offerPoint .host i n s else s
  if named .console then offerPoint .console i n s1 else s1

/-- A system notification offered to each port that `named` holds of, HOST first. -/
def offerSystems (named : Port → Bool) (n : Note) (s : State) : State :=
  let s1 := if named .host then offerSystem .host n s else s
  if named .console then offerSystem .console n s1 else s1

theorem State.subs_of_point {s : State} {i : SlotNo} {pt : Point} (h : s.point? i = some pt) (p : Port) :
    s.subs i p = pt.subscriptions.get p := by simp [State.subs, h]

theorem Noted.subs {i : SlotNo} {s t : State} (h : Noted i s t) (j : SlotNo) (p : Port) : t.subs j p = s.subs j p := by
  have same := h.map_point (f := fun pt => pt.subscriptions.get p) (fun _ _ => rfl) j
  unfold State.subs
  cases hs : s.point? j <;> cases ht : t.point? j <;> rw [hs, ht] at same <;> simp_all

theorem offerSubscribers_eq_offerPorts {s : State} {i : SlotNo} {pt : Point} (h : s.point? i = some pt)
    (f : SubSet → Bool) (n : Note) :
    offerSubscribers f i n s = offerPorts (fun p => f (pt.subscriptions.get p)) i n s := by
  unfold offerSubscribers offerPorts
  dsimp only
  rw [(Noted.iteId (noted_offerPoint .host i n s)).subs i .console, State.subs_of_point h, State.subs_of_point h]

theorem closeCommand_eq_offerPorts {s : State} {i : SlotNo} {pt : Point} (h : s.point? i = some pt) (v : Issued)
    (c : Close) :
    closeCommand i v c s =
      offerPorts (fun p => v.issuer == p || (pt.subscriptions.get p).command) i (.command (s.handle i) v.value c) s := by
  unfold closeCommand offerPorts
  dsimp only
  rw [(Noted.iteId (noted_offerPoint .host i _ s)).subs i .console, State.subs_of_point h, State.subs_of_point h]

theorem offerNodeEvents_eq_offerSystems (n : Note) (s : State) :
    offerNodeEvents n s = offerSystems (fun p => (s.notifyOf p).nodeEvents) n s := by
  unfold offerNodeEvents offerSystems
  dsimp only
  split
  · rw [offerSystem_notifyOf_other .console (by decide)]
  · rfl

/-- A noted state's record says which marks were replaced. -/
theorem Noted.form_of_point {i : SlotNo} {s t : State} (h : Noted i s t) {pt : Point} (hp : s.point? i = some pt)
    {m : PerPort Bool} (ht : t.point? i = some { pt with marks := m }) :
    t = { s.setPoint i { pt with marks := m } with notify := t.notify } := by
  obtain ⟨m', n, rfl⟩ := h.form hp
  have own := (State.setPoint_read_point s i i _).symm.trans ht
  rw [if_pos rfl] at own
  have same : m' = m := congrArg Point.marks (Option.some.inj own)
  rw [same]

section
variable {named : Port → Bool} {i : SlotNo} {n : Note} {s : State}

theorem noted_offerPorts (named : Port → Bool) (i : SlotNo) (n : Note) (s : State) : Noted i s (offerPorts named i n s) :=
  (Noted.iteId (noted_offerPoint .host i n s)).trans (Noted.iteId (noted_offerPoint .console i n _))

/-- Each port's queue fares as by the offer to it alone. -/
theorem offerPorts_notifyOf (p : Port) :
    (offerPorts named i n s).notifyOf p = if named p then (offerPoint p i n s).notifyOf p else s.notifyOf p := by
  have noted := Noted.iteId (c := named .host = true) (noted_offerPoint .host i n s)
  have console : (if named .host then offerPoint .host i n s else s).notifyOf .console = s.notifyOf .console := by
    split
    · exact offerPoint_notifyOf_other .console (by decide)
    · rfl
  unfold offerPorts
  cases p with
  | host =>
    dsimp only
    split
    · rw [offerPoint_notifyOf_other .host (by decide)]
      split <;> rfl
    · split <;> rfl
  | console =>
    dsimp only
    split
    · exact offerPoint_notifyOf_congr console noted.clock
    · exact console

theorem offerSystems_notifyOf (p : Port) :
    (offerSystems named n s).notifyOf p = if named p then (offerSystem p n s).notifyOf p else s.notifyOf p := by
  have noted := Noted.iteId (c := named .host = true) (noted_offerSystem (0 : SlotNo) .host n s)
  have console : (if named .host then offerSystem .host n s else s).notifyOf .console = s.notifyOf .console := by
    split
    · exact offerSystem_notifyOf_other .console (by decide)
    · rfl
  unfold offerSystems
  cases p with
  | host =>
    dsimp only
    split
    · rw [offerSystem_notifyOf_other .host (by decide)]
      split <;> rfl
    · split <;> rfl
  | console =>
    dsimp only
    split
    · exact offerSystem_notifyOf_congr console noted.clock
    · exact console

/-- The mark of a port after an offer to the ports named: set where it was set, or where the port's queue was full (R150). -/
def markAfter (named : Port → Bool) (s : State) (pt : Point) (p : Port) : Bool :=
  pt.marks.get p || (named p && (s.notifyOf p).enabled && decide (64 ≤ (s.notifyOf p).queue.length))

theorem iteOffer_point {p : Port} {pt : Point} (h : s.point? i = some pt) (b : Bool) :
    (if b then offerPoint p i n s else s).point? i = some { pt with
      marks := pt.marks.set p
        (pt.marks.get p || (b && (s.notifyOf p).enabled && decide (64 ≤ (s.notifyOf p).queue.length))) } := by
  cases b with
  | true => simpa using offerPoint_point h
  | false => simp [h]

theorem offerPorts_point {pt : Point} (h : s.point? i = some pt) :
    (offerPorts named i n s).point? i =
      some { pt with marks := ⟨markAfter named s pt .host, markAfter named s pt .console⟩ } := by
  have console : (if named .host then offerPoint .host i n s else s).notifyOf .console = s.notifyOf .console := by
    split
    · exact offerPoint_notifyOf_other .console (by decide)
    · rfl
  unfold offerPorts
  dsimp only
  rw [iteOffer_point (iteOffer_point h _), console]
  rfl

theorem offerPorts_form {pt : Point} (h : s.point? i = some pt) :
    offerPorts named i n s =
      { s.setPoint i { pt with marks := ⟨markAfter named s pt .host, markAfter named s pt .console⟩ } with
        notify := (offerPorts named i n s).notify } :=
  (noted_offerPorts named i n s).form_of_point h (offerPorts_point h)

theorem offerSystem_form (p : Port) : offerSystem p n s = { s with notify := (offerSystem p n s).notify } := by
  unfold offerSystem
  dsimp only
  split
  · rfl
  · split <;> rfl

theorem offerSystems_form : offerSystems named n s = { s with notify := (offerSystems named n s).notify } := by
  unfold offerSystems
  dsimp only
  split
  · rw [offerSystem_form]
    split
    · rw [offerSystem_form]
    · rfl
  · split
    · exact offerSystem_form _
    · rfl

end

/-- Settles O27: the offer to one port by its queue's three cases; a route as the offer to the ports it names. -/
theorem offeredNotificationIsMadeOrMarked : Obligations.OfferedNotificationIsMadeOrMarked := by
  unfold Obligations.OfferedNotificationIsMadeOrMarked
  intro i pt n s hp
  refine ⟨fun p => ⟨fun off => ⟨offerPoint_off off, offerSystem_off off⟩, ?_, ?_⟩, ?_, ?_⟩
  · rintro on room u rfl
    exact ⟨offerPoint_room on room, offerSystem_room on room⟩
  · intro on full
    refine ⟨(offerPoint_full on full).trans (State.modPoint_of_some _ _ _ _ hp), offerSystem_full on full⟩
  · intro route note named routed
    have ports : route = offerPorts named i note s := by
      rcases routed with ⟨v, c, rfl, rfl, rfl⟩ | ⟨f, rfl, rfl, rfl⟩
      · rw [closeCommand_eq_offerPorts hp]
        congr 1
      · exact offerSubscribers_eq_offerPorts hp f note
    rw [ports]
    refine ⟨fun p => offerPorts_notifyOf p, ?_⟩
    rintro m rfl
    exact offerPorts_form hp
  · rintro route rfl
    rw [offerNodeEvents_eq_offerSystems]
    exact ⟨offerSystems_form, fun p => offerSystems_notifyOf p⟩

end Sys2Proof.Machine

/-!
What a command does to the records and the engines: nothing but to the lines as last observed, or one of the moves of
`RosterMove` (`moved_exec`). A law of records and engines is kept by every command when it is kept by each move.
-/
namespace Sys2Proof.Machine

set_option Elab.async false

/-- Records, directory and engines are the same, but for the levels of the lines as last observed. -/
structure SameRoster (s t : State) : Prop where
  slots : t.slots = s.slots
  directory : t.directory = s.directory
  segment : ∀ g, { t.segment g with lines := (s.segment g).lines } = s.segment g

theorem SameRoster.of_eq {s t : State} (slots : t.slots = s.slots) (directory : t.directory = s.directory)
    (segments : t.segments = s.segments) : SameRoster s t where
  slots := slots
  directory := directory
  segment g := by
    have same : t.segment g = s.segment g := congrArg (PerSegment.get · g) segments
    rw [same]

theorem SameRoster.refl (s : State) : SameRoster s s := .of_eq rfl rfl rfl

theorem SameRoster.trans {s t u : State} (h : SameRoster s t) (k : SameRoster t u) : SameRoster s u where
  slots := k.slots.trans h.slots
  directory := k.directory.trans h.directory
  segment g := by
    rw [← h.segment g, ← k.segment g]

theorem sameRoster_setLines (s : State) (g : SegId) (l : Lines) : SameRoster s (s.setLines g l) where
  slots := rfl
  directory := rfl
  segment h := by
    rw [State.setLines, State.modSegment_read_segment]
    split
    · next e => subst e; rfl
    · rfl

/-- One thing that a command does to the records or to an engine. -/
inductive RosterMove (s : State) : State → Prop
  | request (p : Port) (r : Request) : RosterMove s (carryOut p r s).1
  | chosen (g : SegId) : RosterMove s (chooseWork g s)
  | started (g : SegId) :
    RosterMove s (s.modSegment g fun x =>
      { x with
        lines := { x.lines with fc := true, fd := true }
        transaction := x.transaction.map fun t => { t with phase := .started s.clock } })
  | driven (g : SegId) (resume : LinkPos → LinkPos) (levels : List Bool) : RosterMove s (driveOn g resume levels s)
  | ended (g : SegId) (outcome : TxOutcome) : RosterMove s (endWith g outcome s)
  | recovered (g : SegId) (cause : RecoveryCause) (h : (s.segment g).attempting = some cause) :
    RosterMove s (recoverUp g cause s)
  | attemptFailed (g : SegId) (cause : RecoveryCause) (h : (s.segment g).attempting = some cause) :
    RosterMove s (attemptFailed g cause s)
  | retried (g : SegId) : RosterMove s (s.modSegment g fun x => { x with retryTime := none })
  | unsuppressed (g : SegId) : RosterMove s (s.modSegment g fun x => { x with suppression := none })
  | pollMarked (g : SegId) (i : SlotNo) :
    RosterMove s (s.modSegment g fun x => { x with schedule := markEntry i x.schedule })
  | stale (i : SlotNo) : RosterMove s (takeStale i s)
  | ageCap (i : SlotNo) : RosterMove s (s.modPoint i Point.capAge)
  | dueCap (i : SlotNo) (which : CapHolder) : RosterMove s (takeDueCap i which s)
  | deadline (i : SlotNo) : RosterMove s (takeDeadline i s)
  | nextDeadline (i : SlotNo) : RosterMove s (setStand i (s.stand i).markExpired s)
  | probeMarked (g : SegId) (x : Address) : RosterMove s (s.modNode g x NodeEntry.markProbe)

/-- From `s` to `t` at most one move is made. -/
def Moved (s t : State) : Prop := SameRoster s t ∨ ∃ u v, SameRoster s u ∧ RosterMove u v ∧ SameRoster v t

theorem Moved.same {s t : State} (h : SameRoster s t) : Moved s t := .inl h

theorem Moved.move {s t : State} (h : RosterMove s t) : Moved s t := .inr ⟨s, t, SameRoster.refl s, h, SameRoster.refl t⟩

theorem Moved.between {s t u v : State} (h : SameRoster s t) (m : Moved t u) (k : SameRoster u v) : Moved s v := by
  rcases m with same | ⟨a, b, ha, move, hb⟩
  · exact .inl ((h.trans same).trans k)
  · exact .inr ⟨a, b, h.trans ha, move, hb.trans k⟩

theorem Moved.iteId {c : Prop} [Decidable c] {s t : State} (h : Moved s t) : Moved s (if c then t else s) := by
  split
  · exact h
  · exact .same (SameRoster.refl s)

/-! ### Requests -/

theorem moved_judge (p : Port) (f : RequestFrame) (s : State) : Moved s (judge p f s).1 := by
  have refused : Moved s s := .same (SameRoster.refl s)
  unfold judge
  split
  · split
    · exact refused
    · exact refused
    · exact .move (.request p _)
  · exact refused

theorem sameRoster_setPort (s : State) (p : Port) (x : PortSlots) : SameRoster s (s.setPort p x) := .of_eq rfl rfl rfl

theorem sameRoster_placeResponse (p : Port) (tag : Byte) (c : Carry) : SameRoster c.1 (placeResponse p tag c) :=
  .of_eq rfl rfl rfl

theorem sameRoster_receiveFrame (p : Port) (f : RequestFrame) (s : State) : SameRoster s (receiveFrame p f s) := by
  unfold receiveFrame
  split <;> exact sameRoster_setPort _ _ _

theorem sameRoster_arrivals (p : Port) (l : List RequestFrame) (s : State) : SameRoster s (l.foldl (arrive p) s) := by
  induction l generalizing s with
  | nil => exact SameRoster.refl s
  | cons f rest ih =>
    have arrived : SameRoster s (arrive p s f) := by
      unfold arrive
      split
      · exact sameRoster_setPort _ _ _
      · exact sameRoster_receiveFrame _ _ _
    exact arrived.trans (ih _)

theorem moved_takeFrom (p : Port) (l : List RequestFrame) (s : State) : Moved s (takeFrom p l s) := by
  unfold takeFrom
  split
  · exact .same (SameRoster.refl s)
  · next f _ =>
    let c := judge p f ((s.emptyRequest p).served p)
    exact .between (.of_eq rfl rfl rfl : SameRoster s ((s.emptyRequest p).served p)) (moved_judge p f _)
      ((sameRoster_arrivals p l _).trans (sameRoster_placeResponse p f.tag (l.foldl (arrive p) c.1, c.2)))

theorem moved_submit (p : Port) (tag : Byte) (r : Request) (look : State → State)
    (hl : ∀ s, SameRoster s (look s)) (s : State) : Moved s (submit p tag r look s) := by
  unfold submit
  split
  · exact .same (SameRoster.refl s)
  · split
    · exact .same (sameRoster_setPort _ _ _)
    · split
      · exact .between ((hl s).trans (.of_eq (t := (look s).served p) rfl rfl rfl)) (.move (.request p r))
          (sameRoster_placeResponse _ _ _)
      · exact .same (sameRoster_setPort _ _ _)

theorem sameRoster_lookAt (b : Byte) (fc fd : Bool) (s : State) : SameRoster s (lookAt b fc fd s) := by
  unfold lookAt
  split
  · exact SameRoster.refl s
  · exact sameRoster_setLines _ _ _

/-! ### The ports -/

theorem sameRoster_requestTransaction (got : List Byte) (s : State) : SameRoster s (requestTransaction got s) := by
  unfold requestTransaction
  dsimp only
  split
  · exact .of_eq rfl rfl rfl
  · exact .of_eq rfl rfl rfl
  · exact (SameRoster.of_eq (s := s) (t := s.setHostPort .idle (List.replicate (got.length + 1) 0)) rfl rfl rfl).trans
      (sameRoster_receiveFrame _ _ _)

theorem sameRoster_hostTransaction (bytes : List Byte) (s : State) : SameRoster s (hostTransaction bytes s) := by
  unfold hostTransaction
  split
  · exact .of_eq rfl rfl rfl
  · split
    · exact sameRoster_requestTransaction _ _
    · split <;> exact .of_eq rfl rfl rfl

theorem sameRoster_setAssembly (x : Assembly) (s : State) : SameRoster s (s.setAssembly x) := .of_eq rfl rfl rfl

theorem sameRoster_headerByte (got : List Byte) (b : Byte) (s : State) : SameRoster s (headerByte got b s) := by
  unfold headerByte
  split
  · unfold lengthByte
    split
    · exact .of_eq rfl rfl rfl
    · split <;> exact sameRoster_setAssembly _ _
  · exact sameRoster_setAssembly _ _

theorem sameRoster_bodyByte (tag kind : Byte) (left : Nat) (got : List Byte) (b : Byte) (s : State) :
    SameRoster s (bodyByte tag kind left got b s) := by
  unfold bodyByte
  split <;> exact sameRoster_setAssembly _ _

theorem sameRoster_crcByte (tag kind : Byte) (body : List Byte) (high : Option Byte) (b : Byte) (s : State) :
    SameRoster s (crcByte tag kind body high b s) := by
  unfold crcByte
  split
  · exact sameRoster_setAssembly _ _
  · exact (sameRoster_receiveFrame _ _ _).trans (sameRoster_setAssembly _ _)

theorem sameRoster_consoleByte {b : Byte} {s t : State} (h : exec (.consoleByteReceived b) s = .next t) :
    SameRoster s t := by
  simp only [exec, execConsoleByteReceived] at h
  split at h
  · split at h
    · cases h; exact SameRoster.refl s
    · split at h <;> cases h
      · exact .of_eq rfl rfl rfl
      · exact SameRoster.refl s
  · cases h; exact sameRoster_headerByte _ _ _
  · cases h; exact sameRoster_bodyByte _ _ _ _ _ _
  · cases h; exact sameRoster_crcByte _ _ _ _ _ _
  · cases h; exact sameRoster_setAssembly _ _

/-! ### Every command -/

theorem moved_completeWith (g : SegId) (f : Work → Bool) (l : List Bool) (s : State) :
    Moved s (completeWith g f l s) := .iteId (.move (.driven g id l))

/-- What a command does that takes its effect `t` when its condition holds and else none (log entry 4). -/
theorem Moved.of_ite {c : Prop} [Decidable c] {s t u : State} (h : Moved s t)
    (e : (if c then Host.Outcome.next t else Host.Outcome.next s : Result) = .next u) : Moved s u := by
  split at e <;> cases e
  · exact h
  · exact .same (SameRoster.refl s)

/-- Every command but HARD_RESET makes at most one move. -/
theorem moved_exec {c : Instr} {s t : State} (h : exec c s = .next t) (hc : ∀ x y e, c ≠ .hardReset x y e) :
    Moved s t := by
  have same := SameRoster.refl s
  cases c with
  | hardReset x y e => exact absurd rfl (hc x y e)
  | enable p tag b fc fd => cases h; exact moved_submit _ _ _ _ (sameRoster_lookAt b fc fd) _
  | define _ _ _ | activate _ _ _ | hold _ _ _ | retire _ _ _ | describe _ _ _ | read _ _ _ | readMany _ _ _ _
  | refresh _ _ _ | setLimits _ _ _ _ | write _ _ _ _ _ | cancel _ _ _ | nodeQuery _ _ _ _ | nodeList _ _ _ _
  | disable _ _ _ | segmentRestart _ _ _ | setSpeed _ _ _ _ | scan _ _ _ _ _ | scanResult _ _ _ _
  | subscribe _ _ _ _ | fetch _ _ _ | ack _ _ _ | claim _ _ _ _ | release _ _ _ | status _ _ | time _ _ | clear _ _
  | portSet _ _ _ _ => cases h; exact moved_submit _ _ _ _ SameRoster.refl _
  | hostRequestTransaction bytes =>
    simp only [exec, execHostRequestTransaction] at h
    split at h
    · cases h; exact .same same
    · split at h <;> cases h
      · exact .same (.of_eq rfl rfl rfl)
      · exact .same (sameRoster_hostTransaction _ _)
  | hostResponseTransaction n =>
    simp only [exec, execHostResponseTransaction] at h
    split at h
    · cases h; exact .same same
    · split at h <;> cases h <;> exact .same (.of_eq rfl rfl rfl)
  | hostPortResync => cases h; exact .same (.of_eq rfl rfl rfl)
  | consoleByteReceived b => exact .same (sameRoster_consoleByte h)
  | consoleFramingError =>
    simp only [exec, execConsoleFramingError] at h
    split at h <;> cases h
    · exact .same same
    all_goals exact .same (.of_eq rfl rfl rfl)
  | consoleGapExpiry => exact .of_ite (.same (sameRoster_setAssembly _ _)) h
  | consoleResponseSent =>
    simp only [exec, execConsoleResponseSent] at h
    split at h <;> cases h <;> exact .same (.of_eq rfl rfl rfl)
  | requestTaken ls l =>
    simp only [exec, execRequestTaken] at h
    split at h <;> cases h
    · exact .same same
    · exact .between ((sameRoster_setLines _ _ _).trans (sameRoster_setLines _ _ _)) (moved_takeFrom _ _ _)
        (SameRoster.refl _)
  | arbiterChoose g l => cases h; exact .between (sameRoster_setLines _ _ _) (.move (.chosen g)) (SameRoster.refl _)
  | faFall g => cases h; exact .same (sameRoster_setLines _ _ _)
  | startAfterLineCheck g => exact .of_ite (.move (.started g)) h
  | lineCheckExpiry g => exact .of_ite (.move (.ended g _)) h
  | holdAllowanceExpiry g => exact .of_ite (.move (.ended g _)) h
  | transactionLimitExpiry g => exact .of_ite (.move (.ended g _)) h
  | pollCompletion g l | refreshPollCompletion g l | guardCompletion g l | writeCompletion g l
  | verifyCompletion g l | probeCompletion g l | scanStepCompletion g l => cases h; exact moved_completeWith _ _ _ _
  | rollCompletion g l fa =>
    exact .of_ite (.between (sameRoster_setLines _ _ _) (.move (.driven g id l)) (SameRoster.refl _)) h
  | recoveryAttemptEnd g r =>
    simp only [exec, execRecoveryAttemptEnd] at h
    split at h
    · next attempting _ => cases h; exact .move (.recovered g _ attempting)
    · next attempting _ => cases h; exact .move (.attemptFailed g _ attempting)
    · cases h; exact .same same
  | recoveryRetryExpiry g => exact .of_ite (.move (.retried g)) h
  | clearEndTransaction g between l => exact .of_ite (.move (.driven g _ l)) h
  | pollDueExpiry g =>
    simp only [exec, execPollDueExpiry] at h
    split at h <;> cases h
    · exact .same same
    · exact .move (.pollMarked g _)
  | staleExpiry i => exact .of_ite (.move (.stale i)) h
  | ageCapExpiry i => exact .of_ite (.move (.ageCap i)) h
  | dueCapExpiry i w => exact .of_ite (.move (.dueCap i w)) h
  | deadlineExpiry i => exact .of_ite (.move (.deadline i)) h
  | nextValueDeadlineExpiry i => exact .of_ite (.move (.nextDeadline i)) h
  | probeExpiry g x => exact .of_ite (.move (.probeMarked g x)) h
  | alertSuppressionExpiry g => exact .of_ite (.move (.unsuppressed g)) h

/-- A step is at most one move, or leaves everything as hard reset does. -/
theorem moved_step {s t : State} (h : step s = .next t) : Moved s t ∨ ∃ u, AtReset u t := by
  rcases step_cases h with ⟨c, l, h⟩ | rfl | rfl
  · by_cases hc : ∃ x y e, c = .hardReset x y e
    · obtain ⟨x, y, e, rfl⟩ := hc
      exact .inr ⟨_, atReset_exec h⟩
    · exact .inl (.between (.of_eq (t := s.setPending l) rfl rfl rfl) (moved_exec h fun x y e hx => hc ⟨x, y, e, hx⟩)
        (SameRoster.refl t))
  · exact .inl (.same (.of_eq rfl rfl rfl))
  · exact .inl (.same (SameRoster.refl _))

/-- A law of the records and engines, blind to the levels last observed, that every move keeps and hard reset establishes is
kept by every step. -/
theorem law_of_moves {P : State → Prop} (blind : ∀ s t, SameRoster s t → P s → P t)
    (move : ∀ s t, RosterMove s t → P s → P t) (reset : ∀ s t, AtReset s t → P t) {s t : State} (hs : P s)
    (h : step s = .next t) : P t := by
  rcases moved_step h with (same | ⟨u, v, su, m, vt⟩) | ⟨u, atReset⟩
  · exact blind s t same hs
  · exact blind v t vt (move u v m (blind s u su hs))
  · exact reset u t atReset

end Sys2Proof.Machine

/-!
The engines keep the relations of TABLE 7-1 (R105, R122, R127, R130, R135, R138). What ends a transaction for its records
leaves the engines alone (`GearsKept`); the moves that do change an engine change it by one of a few updates, each with its
lemma.
-/
namespace Sys2Proof.Machine

set_option Elab.async false

/-- A segment's engine, without the collections, the scan and the levels last observed. -/
def Segment.gears (x : Segment) : Segment :=
  { x with lines := ⟨true, true, true⟩, schedule := [], commandQueue := [], scan := .idle }

theorem engineOk_gears (x : Segment) : x.gears.engineOk ↔ x.engineOk := Iff.rfl

/-- The engines of both segments stay as they are. -/
def GearsKept (s t : State) : Prop := ∀ g, (t.segment g).gears = (s.segment g).gears

theorem GearsKept.refl (s : State) : GearsKept s s := fun _ => rfl

theorem GearsKept.trans {s t u : State} (h : GearsKept s t) (k : GearsKept t u) : GearsKept s u :=
  fun g => (k g).trans (h g)

theorem GearsKept.after {s t u : State} (k : GearsKept t u) (h : GearsKept s t) : GearsKept s u := h.trans k

theorem GearsKept.enginesOk {s t : State} (h : GearsKept s t) (ok : s.enginesOk) : t.enginesOk := fun g => by
  rw [← engineOk_gears, h g]
  exact (engineOk_gears _).mpr (ok g)

theorem GearsKept.transaction {s t : State} (h : GearsKept s t) (g : SegId) :
    (t.segment g).transaction = (s.segment g).transaction :=
  (congrArg Segment.transaction (h g) : (t.segment g).gears.transaction = (s.segment g).gears.transaction)

theorem GearsKept.state {s t : State} (h : GearsKept s t) (g : SegId) : (t.segment g).state = (s.segment g).state :=
  (congrArg Segment.state (h g) : (t.segment g).gears.state = (s.segment g).gears.state)

theorem GearsKept.of_segment {s t : State} (h : ∀ g, t.segment g = s.segment g) : GearsKept s t := fun g => by rw [h g]

theorem gearsKept_modSegment (s : State) (g : SegId) (f : Segment → Segment) (hf : ∀ x, (f x).gears = x.gears) :
    GearsKept s (s.modSegment g f) := fun h => by
  rw [State.modSegment_read_segment]
  split
  · next e => subst e; exact hf _
  · rfl

theorem SameRoster.gearsKept {s t : State} (h : SameRoster s t) : GearsKept s t := fun g => by
  rw [← h.segment g]
  rfl

/-! ### What leaves the engines alone -/

/-- What leaves alone what a transaction's end leaves alone, leaves the engines alone. -/
theorem Beside.gearsKept {own : Option SlotNo} {near : SlotNo → Prop} {g : SegId} {x : Address} {s t : State}
    (h : Beside own near g x s t) : GearsKept s t := fun k => by
  rw [← h.segment k]
  rfl

theorem gearsKept_offerSystem (p : Port) (n : Note) (s : State) : GearsKept s (offerSystem p n s) :=
  .of_segment (noted_offerSystem 0 p n s).segment

theorem gearsKept_offerNodeEvents (n : Note) (s : State) : GearsKept s (offerNodeEvents n s) :=
  .of_segment (noted_offerNodeEvents 0 n s).segment

theorem gearsKept_abortScan (g : SegId) (s : State) : GearsKept s (abortScan g s) := by
  unfold abortScan
  dsimp only
  split
  · exact (gearsKept_offerSystem _ _ _).after (gearsKept_modSegment _ _ _ fun _ => rfl)
  · exact GearsKept.refl s

theorem gearsKept_scanEffects (g : SegId) (x : Address) (o : TxOutcome) (s : State) :
    GearsKept s (scanEffects g x o s) := by
  obtain ⟨-, segment, -, -⟩ := scanEffects_frame (g := g) (x := x) o s
  intro h
  rw [← segment h]
  rfl

theorem segment_markToSystem (pt : Point) (p : Port) (s : State) (g : SegId) :
    (markToSystem pt p s).segment g = s.segment g := by
  unfold markToSystem
  split <;> simp

theorem gearsKept_freeSlot (i : SlotNo) (s : State) : GearsKept s (freeSlot i s) := by
  unfold freeSlot
  split
  · exact GearsKept.refl s
  · next pt _ =>
    have left : GearsKept s (leaveQueue pt.segment i (leaveSchedule pt.segment i s)) :=
      (gearsKept_modSegment s _ (fun x => { x with schedule := removeEntry i x.schedule }) fun _ => rfl).trans
        (gearsKept_modSegment _ _ (fun x => { x with commandQueue := x.commandQueue.filter (· != i) }) fun _ => rfl)
    refine left.trans (.of_segment fun g => ?_)
    simp [dropNodePoint, segment_markToSystem]

theorem gearsKept_endRetirement (p : Port) (i : SlotNo) (s : State) : GearsKept s (endRetirement p i s) :=
  (gearsKept_freeSlot i s).trans (gearsKept_offerSystem _ _ _)

theorem gearsKept_finishPoint (i : SlotNo) (effects : Point → State → State) (reentry : Option Due → State → State)
    (he : ∀ pt s, GearsKept s (effects pt s)) (hr : ∀ d s, GearsKept s (reentry d s)) (s : State) :
    GearsKept s (finishPoint i effects reentry s) := by
  unfold finishPoint
  split
  · exact GearsKept.refl s
  · split
    · exact gearsKept_endRetirement _ _ _
    · refine (hr _ _).after ((he _ _).after (.of_segment fun g => ?_))
      simp [endFlight]

section
variable (i : SlotNo)

theorem gearsKept_reenterDelivery (o : TxOutcome) (d : Option Due) (s : State) : GearsKept s (reenterDelivery o i d s) :=
  (beside_reenterDelivery (own := some i) (near := fun _ => True) (g := .a) (x := 0) rfl o d s).gearsKept

theorem gearsKept_reenterPoll (k : ReadKind) (o : TxOutcome) (d : Option Due) (s : State) :
    GearsKept s (reenterPoll k o i d s) := by
  unfold reenterPoll
  split
  · exact (beside_reenter (own := some i) (near := fun _ => True) (g := .a) (x := 0) i _ s (.inl rfl)).gearsKept
  · exact (beside_reenterRead (own := some i) (near := fun _ => True) (g := .a) (x := 0) _ d i s rfl).gearsKept

theorem gearsKept_finishPoll (k : ReadKind) (o : TxOutcome) (s : State) : GearsKept s (finishPoll k i o s) :=
  gearsKept_finishPoint i _ _
    (fun pt s => (beside_pollEffects (near := fun _ => True) (g := .a) (x := 0) rfl k pt o s).gearsKept)
    (gearsKept_reenterPoll i k o) s

theorem gearsKept_finishVerify (o : TxOutcome) (s : State) : GearsKept s (finishVerify i o s) :=
  gearsKept_finishPoint i _ _
    (fun pt s => (beside_verifyEffects (near := fun _ => True) (g := .a) (x := 0) rfl pt o s).gearsKept)
    (gearsKept_reenterDelivery i o) s

theorem gearsKept_finishWrite (o : TxOutcome) (s : State) : GearsKept s (finishWrite i o s) :=
  gearsKept_finishPoint i _ _
    (fun pt s => (beside_writeEffects (near := fun _ => True) (g := .a) (x := 0) rfl pt o s).gearsKept)
    (gearsKept_reenterDelivery i o) s

end

section
variable (x : Address) (g : SegId)

theorem gearsKept_nodeOutcome (cause : Option SlotNo) (o : TxOutcome) (s : State) :
    GearsKept s (nodeOutcome g x cause o s) :=
  (beside_nodeOutcome (own := none) (near := fun _ => True) cause o s (.inr fun _ _ _ _ => trivial)).gearsKept

theorem gearsKept_rollWon (s : State) : GearsKept s (rollWon g x s) := by
  unfold rollWon
  split
  · exact gearsKept_offerNodeEvents _ _
  · have counted : GearsKept s (nodeAccepted g x s) := gearsKept_nodeOutcome x g none (.done []) s
    refine counted.trans (beside_foldl (own := none) (near := fun _ => True) (g := g) (x := x) (fun _ => True) _ ?_ _
      (fun _ _ => trivial) _).gearsKept
    intro t j _
    unfold moveAlertDriven
    split
    · exact Beside.refl t
    · exact .iteId (beside_moveToNow g j t (.inr trivial))

end

/-- What an outcome does to its records leaves the engines alone, but that an EMPTY roll suppresses the next ones (R122). -/
theorem gears_applyOutcome (g : SegId) (w : Work) (o : TxOutcome) (s : State) :
    GearsKept s (applyOutcome g w o s) ∨
      ∃ t, applyOutcome g w o s = s.modSegment g fun x => { x with suppression := some t } := by
  cases w with
  | read kind i x item width =>
    have counted := gearsKept_nodeOutcome x g (some i) o s
    cases kind with
    | verify => exact .inl (counted.trans (gearsKept_finishVerify i o _))
    | poll | refreshPoll | guard => exact .inl (counted.trans (gearsKept_finishPoll i _ o _))
  | write i x item width value =>
    exact .inl ((gearsKept_nodeOutcome x g (some i) o s).trans (gearsKept_finishWrite i o _))
  | probe x =>
    exact .inl ((gearsKept_nodeOutcome x g none o s).trans
      (beside_probeEffects (own := none) (near := fun _ => True) (g := g) (x := x) o _).gearsKept)
  | scanStep x => exact .inl ((gearsKept_nodeOutcome x g none o s).trans (gearsKept_scanEffects g x o _))
  | roll =>
    cases o with
    | winner x => exact .inl (gearsKept_rollWon x g s)
    | empty => exact .inr ⟨_, rfl⟩
    | _ => exact .inl (GearsKept.refl s)

/-! ### The engine under each of its updates -/

section Engine
variable {x : Segment}

theorem Segment.engineOk.up_of_transaction (h : x.engineOk) {t : Transaction} (ht : x.transaction = some t) :
    x.state = .up := h.1 (by rw [ht]; exact Option.some_ne_none t)

theorem Segment.engineOk.transaction_none (h : x.engineOk) (hx : x.state ≠ .up) : x.transaction = none := by
  cases e : x.transaction with
  | none => rfl
  | some t => exact absurd (h.up_of_transaction e) hx

theorem Segment.engineOk.endTransaction (h : x.engineOk) : { x with transaction := none }.engineOk := by
  obtain ⟨_, rest⟩ := h
  exact ⟨fun no => absurd rfl no, rest⟩

/-- A transaction stays in flight, or another takes its place. -/
theorem Segment.engineOk.transaction (h : x.engineOk) (t : Option Transaction) (hx : x.state = .up) :
    { x with transaction := t }.engineOk := by
  obtain ⟨_, rest⟩ := h
  exact ⟨fun _ => hx, rest⟩

theorem Segment.engineOk_recover (none : x.transaction = none) (c : RecoveryCause) :
    { x with state := .recovering, cause := some c, attempts := 0, retryTime := .none, fairness := 0 }.engineOk := by
  simp [Segment.engineOk, none, fairnessLimit]

theorem Segment.engineOk_switchOff (none : x.transaction = none) : x.switchOff.engineOk := by
  simp [Segment.engineOk, Segment.switchOff, none, fairnessLimit]

theorem Segment.engineOk.enable (h : x.engineOk) (hx : x.state = .off) : { x with state := .up, fairness := 0 }.engineOk := by
  simp_all [Segment.engineOk]

theorem Segment.engineOk.suppress (h : x.engineOk) (hx : x.state ≠ .off) (t : Time) :
    { x with suppression := some t }.engineOk := by
  simp_all [Segment.engineOk]

theorem Segment.engineOk.unsuppress (h : x.engineOk) : { x with suppression := none }.engineOk := by
  simp_all [Segment.engineOk]

theorem Segment.engineOk.retry (h : x.engineOk) : { x with retryTime := none }.engineOk := by
  simp_all [Segment.engineOk]

theorem Segment.engineOk.fairness (h : x.engineOk) (hx : x.state = .up) {n : Nat} (hn : n ≤ fairnessLimit) :
    { x with fairness := n }.engineOk := by
  simp_all [Segment.engineOk]

/-- An attempt is under way only while the segment is RECOVERING and waits for no retry (R138). -/
theorem Segment.attempting_some {c : RecoveryCause} (h : x.attempting = some c) :
    x.state = .recovering ∧ x.retryTime = none ∧ x.cause = some c := by
  unfold Segment.attempting at h
  split at h
  · exact ⟨‹_›, ‹_›, h⟩
  · cases h

theorem Segment.engineOk.recovered (h : x.engineOk) {c : RecoveryCause} (hc : x.attempting = some c) (l : Lines) :
    { x with lines := l, state := .up, attempts := 0, cause := none, fairness := 0 }.engineOk := by
  obtain ⟨recovering, retry, -⟩ := Segment.attempting_some hc
  simp_all [Segment.engineOk]

theorem Segment.engineOk.failed (h : x.engineOk) {c : RecoveryCause} (hc : x.attempting = some c) (t : Time)
    (few : x.attempts + 1 < 3) : { x with attempts := x.attempts + 1, retryTime := some t }.engineOk := by
  obtain ⟨recovering, retry, -⟩ := Segment.attempting_some hc
  simp_all [Segment.engineOk]

theorem Segment.engineOk.down (h : x.engineOk) {c : RecoveryCause} (hc : x.attempting = some c) :
    { x with state := .down, attempts := 3 }.engineOk := by
  obtain ⟨recovering, retry, -⟩ := Segment.attempting_some hc
  simp_all [Segment.engineOk]

theorem Segment.engineOk.cleared (h : x.engineOk) : x.clearedNow.engineOk := by
  obtain ⟨up, rest⟩ := h
  refine ⟨fun no => up ?_, rest⟩
  intro none
  rw [Segment.clearedNow, none] at no
  exact no rfl

end Engine

theorem enginesOk_modSegment {s : State} (ok : s.enginesOk) (g : SegId) (f : Segment → Segment)
    (hf : (s.segment g).engineOk → (f (s.segment g)).engineOk) : (s.modSegment g f).enginesOk := fun h => by
  rw [State.modSegment_read_segment]
  split
  · next e => subst e; exact hf (ok _)
  · exact ok h

/-! ### The engines under each move -/

theorem enginesOk_endTransaction {s : State} (ok : s.enginesOk) (g : SegId) : (endTransaction g s).enginesOk :=
  enginesOk_modSegment ok g _ Segment.engineOk.endTransaction

@[simp] theorem endTransaction_transaction (g : SegId) (s : State) : ((endTransaction g s).segment g).transaction = none := by
  simp [endTransaction]

@[simp] theorem endTransaction_state (g h : SegId) (s : State) :
    ((endTransaction g s).segment h).state = (s.segment h).state := by
  simp only [endTransaction, State.modSegment_read_segment]
  split
  · next e => subst e; rfl
  · rfl

theorem enginesOk_beginRecovery {s : State} (ok : s.enginesOk) (g : SegId) (none : (s.segment g).transaction = none)
    (c : RecoveryCause) : (beginRecovery g c s).enginesOk :=
  enginesOk_modSegment ok g _ fun _ => Segment.engineOk_recover none c

/-- The records after an outcome, on a segment that is not OFF: the law stands and nothing new is in flight. -/
theorem enginesOk_applyOutcome {s : State} (ok : s.enginesOk) (g : SegId) (w : Work) (o : TxOutcome)
    (on : (s.segment g).state ≠ .off) :
    (applyOutcome g w o s).enginesOk ∧
      ((applyOutcome g w o s).segment g).transaction = (s.segment g).transaction := by
  rcases gears_applyOutcome g w o s with kept | ⟨t, e⟩
  · exact ⟨kept.enginesOk ok, kept.transaction g⟩
  · rw [e]
    exact ⟨enginesOk_modSegment ok g _ fun h => h.suppress on t, by simp⟩

theorem enginesOk_faultRecovery {s : State} (ok : s.enginesOk) (g : SegId) (none : (s.segment g).transaction = none)
    (o : TxOutcome) : (faultRecovery g o s).enginesOk := by
  unfold faultRecovery
  split
  · exact enginesOk_beginRecovery ok g none _
  · exact ok

/-- The records of a transaction that has ended, or of none when it was cleared: the law, with nothing in flight. -/
theorem enginesOk_ended {s : State} (ok : s.enginesOk) {g : SegId} {t : Transaction}
    (ht : (s.segment g).transaction = some t) (o : TxOutcome) :
    let u := if t.cleared then endTransaction g s else applyOutcome g t.work o (endTransaction g s)
    u.enginesOk ∧ (u.segment g).transaction = none := by
  have up := (ok g).up_of_transaction ht
  have on : ((endTransaction g s).segment g).state ≠ .off := by simp [up]
  dsimp only
  split
  · exact ⟨enginesOk_endTransaction ok g, endTransaction_transaction g s⟩
  · obtain ⟨ok', none⟩ := enginesOk_applyOutcome (enginesOk_endTransaction ok g) g t.work o on
    exact ⟨ok', none.trans (endTransaction_transaction g s)⟩

theorem enginesOk_takeCompletion {s : State} (ok : s.enginesOk) {g : SegId} {t : Transaction}
    (ht : (s.segment g).transaction = some t) (o : TxOutcome) : (takeCompletion g t o s).enginesOk := by
  obtain ⟨ok', none⟩ := enginesOk_ended ok ht o
  exact enginesOk_faultRecovery ok' g none o

theorem enginesOk_endWith {s : State} (ok : s.enginesOk) (g : SegId) (o : TxOutcome) : (endWith g o s).enginesOk := by
  unfold endWith
  split
  · exact ok
  · exact enginesOk_takeCompletion ok ‹_› o

/-- What is driven on is the transaction in flight. -/
theorem driveOn_inFlight (g : SegId) (f : LinkPos → LinkPos) (l : List Bool) (s : State) :
    driveOn g f l s = s ∨ ∃ t, (s.segment g).transaction = some t ∧
      ((∃ o, driveOn g f l s = takeCompletion g t o s) ∨ ∃ start next, driveOn g f l s = moveOn g t start next s) := by
  unfold driveOn
  split
  · exact .inl rfl
  · next t ht =>
    split
    · exact .inl rfl
    · split
      · exact .inr ⟨t, ht, .inl ⟨_, rfl⟩⟩
      · split
        · exact .inl rfl
        · exact .inr ⟨t, ht, .inr ⟨_, _, rfl⟩⟩

theorem enginesOk_driveOn {s : State} (ok : s.enginesOk) (g : SegId) (f : LinkPos → LinkPos) (l : List Bool) :
    (driveOn g f l s).enginesOk := by
  rcases driveOn_inFlight g f l s with e | ⟨t, ht, ⟨o, e⟩ | ⟨start, next, e⟩⟩
  · rwa [e]
  · rw [e]
    exact enginesOk_takeCompletion ok ht o
  · rw [e]
    exact enginesOk_modSegment ok g _ fun h => h.transaction _ (h.up_of_transaction ht)

/-- After an abandonment the law stands and nothing is in flight (R121). -/
theorem enginesOk_abandon {s : State} (ok : s.enginesOk) (g : SegId) :
    (abandon g s).enginesOk ∧ ((abandon g s).segment g).transaction = none := by
  unfold abandon
  split
  · exact ⟨ok, ‹_›⟩
  · exact enginesOk_ended ok ‹_› .timeout

theorem enginesOk_disableSegment {s : State} (ok : s.enginesOk) (g : SegId) : (disableSegment g s).enginesOk := by
  obtain ⟨ok', none⟩ := enginesOk_abandon ok g
  exact (gearsKept_abortScan g _).enginesOk (enginesOk_modSegment ok' g _ fun _ => Segment.engineOk_switchOff none)

theorem enginesOk_restartSegment {s : State} (ok : s.enginesOk) (g : SegId) : (restartSegment g s).enginesOk := by
  obtain ⟨ok', none⟩ := enginesOk_abandon ok g
  exact enginesOk_beginRecovery ok' g none _

theorem enginesOk_enableSegment {s : State} (ok : s.enginesOk) (g : SegId) (off : (s.segment g).state = .off) :
    (enableSegment g s).enginesOk := by
  unfold enableSegment
  split
  · exact enginesOk_modSegment ok g _ fun h => h.enable off
  · exact enginesOk_beginRecovery ok g ((ok g).transaction_none (by rw [off]; decide)) _

theorem enginesOk_recoverUp {s : State} (ok : s.enginesOk) {g : SegId} {c : RecoveryCause}
    (h : (s.segment g).attempting = some c) : (recoverUp g c s).enginesOk :=
  (gearsKept_offerNodeEvents _ _).enginesOk (enginesOk_modSegment ok g _ fun k => k.recovered h _)

theorem enginesOk_attemptFailed {s : State} (ok : s.enginesOk) {g : SegId} {c : RecoveryCause}
    (h : (s.segment g).attempting = some c) : (attemptFailed g c s).enginesOk := by
  unfold attemptFailed
  dsimp only
  split
  · next few => exact enginesOk_modSegment ok g _ fun k => k.failed h _ few
  · exact ((gearsKept_offerNodeEvents _ _).trans (gearsKept_abortScan g _)).enginesOk
      (enginesOk_modSegment ok g _ fun k => k.down h)

theorem fairnessAfter_le (w : Work) {n : Nat} (h : n ≤ fairnessLimit) : fairnessAfter w n ≤ fairnessLimit := by
  unfold fairnessAfter
  split <;> omega

theorem Segment.idle_iff (x : Segment) : x.idle = true ↔ x.state = .up ∧ x.transaction = none := by
  simp [Segment.idle]

theorem gearsKept_takeFlight (g : SegId) (i : SlotNo) (k : FlightKind) (s : State) : GearsKept s (takeFlight g i k s) :=
  (gearsKept_modSegment s g (fun x => { x with schedule := removeEntry i x.schedule }) fun _ => rfl).trans
    (.of_segment fun h => State.modPoint_read_segment _ _ _ h)

/-- A start claim takes its point or its probe, and leaves the engines alone (R19, R136). -/
theorem gearsKept_claimStart {g : SegId} {c : Choice} {s t : State} {w : Work} (h : claimStart g c s = some (w, t)) :
    GearsKept s t := by
  cases c with
  | verify i =>
    simp only [claimStart, claimVerify] at h
    split at h
    · cases h
    · split at h <;> cases h
      exact gearsKept_takeFlight g i _ s
  | command i =>
    simp only [claimStart, claimCommand] at h
    split at h
    · cases h
    · split at h
      · split at h <;> cases h
        have left : GearsKept s (leaveQueue g i s) :=
          gearsKept_modSegment s g (fun x => { x with commandQueue := x.commandQueue.filter (· != i) }) fun _ => rfl
        exact (left.trans (gearsKept_takeFlight g i _ _)).trans (.of_segment fun h => State.modPoint_read_segment _ _ _ h)
      · cases h
  | roll => cases h; exact GearsKept.refl s
  | poll i =>
    simp only [claimStart, claimPoll] at h
    split at h
    · cases h
    · split at h <;> cases h
      exact gearsKept_takeFlight g i _ s
  | probe x =>
    simp only [claimStart, claimProbe] at h
    split at h
    · cases h
    · split at h <;> cases h
      exact .of_segment fun _ => rfl
  | scanStep x =>
    simp only [claimStart] at h
    split at h <;> cases h
    exact GearsKept.refl s

/-- What the arbiter grants is one of its candidates' claims. -/
theorem granted_claim {g : SegId} {s t : State} {w : Work} (h : s.granted g = some (w, t)) :
    ∃ c ∈ s.candidates g, claimStart g c s = some (w, t) := List.exists_of_findSome?_eq_some h

theorem enginesOk_chooseWork {s : State} (ok : s.enginesOk) (g : SegId) : (chooseWork g s).enginesOk := by
  unfold chooseWork
  split
  · next idle =>
    obtain ⟨up, -⟩ := (Segment.idle_iff _).mp idle
    split
    · exact ok
    · next w t granted =>
      obtain ⟨c, -, claimed⟩ := granted_claim granted
      have kept := gearsKept_claimStart claimed
      refine enginesOk_modSegment (kept.enginesOk ok) g _ fun h => ?_
      have up' : (t.segment g).state = .up := (kept.state g).trans up
      have fair : (t.segment g).fairness ≤ fairnessLimit := h.2.2.2.2.2.2.1
      exact (h.fairness up' (fairnessAfter_le w fair)).transaction _ up'
  · exact ok

/-! ### The engines under each request -/

theorem enginesOk_clearRecords {s : State} (ok : s.enginesOk) : (clearRecords s).enginesOk := fun g => by
  have cleared : (clearRecords s).segment g = (s.segment g).clearedNow := by cases g <;> rfl
  rw [cleared]
  exact (ok g).cleared

theorem enginesOk_carrySegmentControl {s : State} (ok : s.enginesOk) (a b c : Byte) :
    (carrySegmentControl a b c s).1.enginesOk := by
  unfold carrySegmentControl
  split
  · unfold carryEnable
    split
    · exact enginesOk_enableSegment ok _ ‹_›
    all_goals exact ok
  · unfold carryDisable
    split
    · exact ok
    all_goals exact enginesOk_disableSegment ok _
  · unfold carryRestart
    split
    · exact ok
    · exact enginesOk_restartSegment ok _
    · exact ok
    · exact enginesOk_restartSegment ok _
  · split
    · unfold carrySetSpeed
      split
      · exact enginesOk_modSegment ok _ _ id
      all_goals exact ok
    · exact ok
  · exact ok

section
variable {i : SlotNo}

/-- Engines are left alone by what changes one point, its entry, its place in the queue and the notifications about it. -/
abbrev Around (i : SlotNo) : State → State → Prop := Beside (some i) (fun _ => True) .a 0

theorem around_queuePending (pt : Point) (s : State) : Around i s (queuePending i pt s) := by
  unfold queuePending
  split
  · exact (beside_queueTail _ i _ rfl).after (beside_setStand rfl _ s)
  · exact Beside.refl s

theorem around_activatePoint (pt : Point) (s : State) : Around i s (activatePoint i pt s) :=
  (around_queuePending pt _).after ((beside_reenter i _ _ (.inl rfl)).after (beside_setPoint s i _ rfl))

theorem around_leaveQueue (g : SegId) (s : State) : Around i s (leaveQueue g i s) :=
  beside_modSegment s g (fun x => { x with commandQueue := x.commandQueue.filter (· != i) }) (fun _ => rfl)
    (fun _ _ _ => rfl) (fun no => by cases no) (fun _ _ => rfl)

theorem around_holdCommand (pt : Point) (s : State) : Around i s (holdCommand i pt s) := by
  unfold holdCommand
  split
  · exact (beside_setStand rfl _ _).after (around_leaveQueue _ s)
  · exact .iteId (beside_notAnAttempt rfl s)
  · exact Beside.refl s

theorem around_holdPoint (pt : Point) (s : State) : Around i s (holdPoint i pt s) :=
  (around_holdCommand pt _).after ((beside_leaveSchedule _ i _ (.inl rfl)).after (beside_setPoint s i _ rfl))

theorem around_withdrawNotes (s : State) : Around i s (withdrawNotes i s) := by
  unfold withdrawNotes
  split
  · exact beside_closeCommand i _ _ s rfl
  · exact beside_closeCommand i _ _ s rfl
  · split
    · exact beside_closeCommand i _ _ s rfl
    · exact (beside_closeCommand i _ _ _ rfl).after (beside_closeCommand i _ _ s rfl)
  · split
    · exact beside_closeCommand i _ _ s rfl
    · exact (beside_closeCommand i _ _ _ rfl).after (beside_closeCommand i _ _ s rfl)
  · exact Beside.refl s

theorem around_retireLater (p : Port) (pt : Point) (s : State) : Around i s (retireLater p i pt s) :=
  (beside_modPoint _ i _ (.inl rfl)).after ((around_leaveQueue _ _).after (around_withdrawNotes s))

theorem around_answerFresh (p : Port) (o : FreshOutcome) (s : State) : Around i s (answerFresh p o i s) := by
  unfold answerFresh
  split
  · exact Beside.refl s
  · exact .iteId ((beside_modPoint _ i _ (.inl rfl)).after (beside_offerPoint p i _ s (.inl rfl)))

theorem around_refreshEntry (pt : Point) (e : SchedEntry) (s : State) : Around i s (refreshEntry i pt e s) := by
  unfold refreshEntry
  split
  · exact (beside_moveToNow _ i _ (.inl rfl)).after (beside_modPoint s i _ (.inl rfl))
  · exact .ite (Beside.refl s) (beside_moveToNow _ i s (.inl rfl))

theorem around_refreshPoint (p : Port) (pt : Point) (s : State) : Around i s (refreshPoint p i pt s) := by
  have flagged : Around i s (s.modPoint i (·.setFresh p true)) := beside_modPoint s i _ (.inl rfl)
  unfold refreshPoint
  dsimp only
  split
  · exact flagged
  · split
    · exact flagged.trans (around_refreshEntry _ _ _)
    · exact flagged.trans (around_answerFresh _ _ _)

theorem around_applyLimits (a : Action) (l : Limits) (s : State) : Around i s (applyLimits i a l s) := by
  unfold applyLimits
  split
  · exact Beside.refl s
  · exact Beside.refl s
  · dsimp only
    split
    · exact beside_setPoint s i _ rfl
    · exact (beside_offerSubscribers _ i _ _ (.inl rfl)).after (beside_setPoint s i _ rfl)

theorem around_applyDeadband (a : Action) (d : Value) (s : State) : Around i s (applyDeadband i a d s) := by
  unfold applyDeadband
  split
  · exact Beside.refl s
  · exact beside_modPoint s i _ (.inl rfl)
  · exact beside_modPoint s i _ (.inl rfl)

theorem around_writeFresh (pt : Point) (v : Issued) (d : Option Time) (s : State) :
    Around i s (writeFresh i pt v d s).1 := by
  have reset : Around i s (modCommand i (fun c => { c with attempts := 0 }) s) := beside_modCommand rfl _ s
  unfold writeFresh
  dsimp only
  split
  · exact (beside_queueTail _ i _ rfl).after ((beside_setStand rfl _ _).after reset)
  · exact (beside_setStand rfl _ _).after reset

theorem around_supersedeNext (next : Option NextValue) (s : State) : Around i s (supersedeNext i next s) := by
  unfold supersedeNext
  split
  · exact Beside.refl s
  · exact beside_closeCommand i _ _ s rfl

theorem around_writePoint (pt : Point) (v : Issued) (d : Option Time) (s : State) :
    Around i s (writePoint i pt v d s).1 := by
  have replaced : ∀ old x, Around i s (setStand i x
      (modCommand i (fun c => { c with attempts := 0 }) (closeCommand i old .superseded s))) := fun old x =>
    (beside_setStand rfl _ _).after ((beside_modCommand rfl _ _).after (beside_closeCommand i _ _ s rfl))
  have stored : ∀ next x, Around i s (setStand i x (supersedeNext i next s)) := fun next x =>
    (beside_setStand rfl _ _).after (around_supersedeNext next s)
  unfold writePoint
  split
  · exact replaced _ _
  · exact replaced _ _
  · exact stored _ _
  · exact stored _ _
  all_goals exact around_writeFresh pt v d s

theorem around_cancelPoint (pt : Point) (s : State) : Around i s (cancelPoint i pt s).1 := by
  have closed : ∀ v c, Around i s (closeCommand i v c s) := fun v c => beside_closeCommand i v c s rfl
  unfold cancelPoint
  split
  · exact (beside_modCommand rfl _ _).after (closed _ _)
  · exact (beside_modCommand rfl _ _).after ((around_leaveQueue _ _).after (closed _ _))
  · exact (beside_setStand rfl _ _).after (closed _ _)
  · exact (beside_setStand rfl _ _).after (closed _ _)
  · exact Beside.refl s

theorem around_carryClaimPoint (p : Port) (pt : Point) (take : Byte) (s : State) :
    Around i s (carryClaimPoint p i pt take s).1 := by
  have same : Around i s s := Beside.refl s
  have owned : ∀ q, Around i s (claimPoint q i pt s).1 := fun q => beside_setPoint s i _ rfl
  unfold carryClaimPoint
  split
  · split
    · exact same
    · split
      · exact (beside_offerPoint .console i _ _ (.inl rfl)).after (beside_setPoint s i _ rfl)
      · exact owned _
  · split
    · exact same
    · split
      · exact owned _
      · exact same

end

/-- A request of one point, as a whole: refused, or what it does around its point. -/
theorem gearsKept_withPoint {h : RawHandle} {s : State} {k : SlotNo → Point → Carry}
    (hk : ∀ i pt, s.point? i = some pt → GearsKept s (k i pt).1) : GearsKept s (withPoint h s k).1 :=
  withPoint_cases (P := fun c => GearsKept s c.1) (fun _ => GearsKept.refl s) hk

theorem gearsKept_ite {c : Prop} [Decidable c] {s : State} {x y : Carry} (h : GearsKept s x.1) (k : GearsKept s y.1) :
    GearsKept s (if c then x else y).1 := by
  split
  · exact h
  · exact k

theorem gearsKept_drain (p : Port) (s : State) : GearsKept s (drain p s) := by
  have system : GearsKept s (drainSystem p s) := by
    unfold drainSystem
    dsimp only
    split
    · exact .of_segment fun _ => rfl
    · exact GearsKept.refl s
  refine system.trans ?_
  unfold drain
  generalize drainSystem p s = t
  generalize allSlots = l
  induction l generalizing t with
  | nil => exact GearsKept.refl t
  | cons i rest ih =>
    have one : GearsKept t (drainSlot p t i) := by
      unfold drainSlot
      split
      · exact GearsKept.refl t
      · dsimp only
        split
        · exact .of_segment fun _ => rfl
        · exact GearsKept.refl t
    exact one.trans (ih _)

theorem gearsKept_acknowledge (p : Port) (rest : List Entry) (s : State) : GearsKept s (acknowledge p rest s) := by
  have cut : GearsKept s (s.setNotify p { s.notifyOf p with queue := rest }) := .of_segment fun _ => rfl
  unfold acknowledge
  exact cut.trans (gearsKept_drain p _)

theorem gearsKept_definePoint (p : Port) (d : Definition) (i : SlotNo) (s : State) : GearsKept s (definePoint p d i s) := by
  refine .of_segment fun g => ?_
  unfold definePoint addNodePoint
  split <;> rfl

theorem gearsKept_setEnables (p : Port) (a b : Action) (s : State) :
    GearsKept s (setNodeEvents p b (setNotifications p a s)) := by
  refine .of_segment fun g => ?_
  have first : (setNotifications p a s).segment g = s.segment g := by
    unfold setNotifications
    split
    · rfl
    · rfl
    · split <;> rfl
  rw [← first]
  unfold setNodeEvents
  split <;> rfl

/-- Every request but those of Section 7 and CLEAR leaves the engines alone; those keep the law. -/
theorem enginesOk_carryOut {s : State} (ok : s.enginesOk) (p : Port) (r : Request) : (carryOut p r s).1.enginesOk := by
  have same := GearsKept.refl s
  have kept : ∀ {c : Carry}, GearsKept s c.1 → c.1.enginesOk := fun h => h.enginesOk ok
  cases r with
  | define f =>
    simp only [carryOut, carryDefine]
    split
    · exact ok
    · split
      · exact ok
      · exact kept (gearsKept_definePoint p _ _ s)
  | activate h =>
    exact kept (gearsKept_withPoint fun i pt _ => gearsKept_ite same (gearsKept_ite same
      (gearsKept_ite same (around_activatePoint pt s).gearsKept)))
  | hold h =>
    exact kept (gearsKept_withPoint fun i pt _ => gearsKept_ite same (gearsKept_ite same
      (gearsKept_ite (around_holdPoint pt s).gearsKept same)))
  | retire h =>
    exact kept (gearsKept_withPoint fun i pt _ => gearsKept_ite same (gearsKept_ite same (gearsKept_ite
      ((around_withdrawNotes s).gearsKept.trans (gearsKept_freeSlot i _)) (around_retireLater p pt s).gearsKept)))
  | describe h => exact kept (gearsKept_withPoint fun _ _ _ => same)
  | read h => exact kept (gearsKept_withPoint fun _ _ _ => same)
  | readMany count handles => exact kept (gearsKept_ite same (gearsKept_ite same same))
  | refresh h =>
    exact kept (gearsKept_withPoint fun i pt _ => gearsKept_ite same (gearsKept_ite same
      (around_refreshPoint p pt s).gearsKept))
  | setLimits h f =>
    refine kept (gearsKept_withPoint fun i pt _ => gearsKept_ite same (gearsKept_ite same (gearsKept_ite same ?_)))
    split
    · exact same
    · exact (around_applyLimits _ _ s).gearsKept.trans (around_applyDeadband _ _ _).gearsKept
  | write h v d =>
    exact kept (gearsKept_withPoint fun i pt _ => gearsKept_ite same (gearsKept_ite same (gearsKept_ite same
      (gearsKept_ite same (around_writePoint pt _ _ s).gearsKept))))
  | cancel h =>
    exact kept (gearsKept_withPoint fun i pt _ => gearsKept_ite same (gearsKept_ite same (gearsKept_ite same
      (around_cancelPoint pt s).gearsKept)))
  | nodeQuery a b =>
    simp only [carryOut, carryNodeQuery]
    split
    · split <;> exact ok
    · exact ok
  | nodeList a b =>
    simp only [carryOut, carryNodeList]
    split <;> exact ok
  | segmentControl a b c => exact enginesOk_carrySegmentControl ok a b c
  | scan a b c =>
    simp only [carryOut, carryScan]
    split
    · refine kept (gearsKept_ite same (gearsKept_ite same (gearsKept_ite same ?_)))
      exact gearsKept_modSegment _ _ _ fun _ => rfl
    · exact ok
  | scanResult a b =>
    simp only [carryOut, carryScanResult]
    split
    · exact ok
    · exact kept (gearsKept_ite same same)
  | subscribe h b =>
    refine kept (gearsKept_withPoint fun i pt _ => gearsKept_ite same ?_)
    split <;> exact .of_segment fun _ => rfl
  | fetch b => exact kept (gearsKept_ite same same)
  | ack q =>
    simp only [carryOut, carryAck]
    split
    · exact ok
    · next rest _ =>
      dsimp only [answer]
      exact (gearsKept_acknowledge p rest s).enginesOk ok
  | claim h b =>
    exact kept (gearsKept_withPoint fun i pt _ => gearsKept_ite same (around_carryClaimPoint p pt b s).gearsKept)
  | release h =>
    exact kept (gearsKept_withPoint fun i pt _ => gearsKept_ite same
      (gearsKept_ite (.of_segment fun _ => rfl) same))
  | status => exact ok
  | time => exact ok
  | clear =>
    cases p with
    | host => exact enginesOk_clearRecords ok
    | console => exact ok
  | portSet a b =>
    simp only [carryOut, carryPortSet]
    split
    · exact kept (gearsKept_setEnables p _ _ s)
    · exact ok

/-! ### The engines under every step -/

theorem enginesOk_move {s t : State} (m : RosterMove s t) (ok : s.enginesOk) : t.enginesOk := by
  cases m with
  | request p r => exact enginesOk_carryOut ok p r
  | chosen g => exact enginesOk_chooseWork ok g
  | started g =>
    refine enginesOk_modSegment ok g _ fun h => ?_
    obtain ⟨up, rest⟩ := h
    exact ⟨fun no => up fun none => no (by rw [none]; rfl), rest⟩
  | driven g resume levels => exact enginesOk_driveOn ok g resume levels
  | ended g outcome => exact enginesOk_endWith ok g outcome
  | recovered g cause h => exact enginesOk_recoverUp ok h
  | attemptFailed g cause h => exact enginesOk_attemptFailed ok h
  | retried g => exact enginesOk_modSegment ok g _ Segment.engineOk.retry
  | unsuppressed g => exact enginesOk_modSegment ok g _ Segment.engineOk.unsuppress
  | pollMarked g i => exact enginesOk_modSegment ok g _ id
  | stale i =>
    refine GearsKept.enginesOk ?_ ok
    unfold takeStale
    split
    · exact GearsKept.refl s
    · exact ((beside_setPoint s i _ rfl).trans (beside_noteQuality rfl _ _ _) : Around i s _).gearsKept
  | ageCap i => exact (GearsKept.of_segment fun g => State.modPoint_read_segment _ _ _ g).enginesOk ok
  | dueCap i which =>
    refine GearsKept.enginesOk ?_ ok
    unfold takeDueCap
    split
    · split
      · exact GearsKept.refl s
      · exact gearsKept_modSegment _ _ _ fun _ => rfl
    · exact .of_segment fun g => State.modPoint_read_segment _ _ _ g
    · exact .of_segment fun g => State.modPoint_read_segment _ _ _ g
  | deadline i =>
    refine GearsKept.enginesOk ?_ ok
    unfold takeDeadline
    split
    · exact GearsKept.refl s
    · split
      · exact ((beside_setStand rfl _ s).trans (beside_closeCommand i _ _ _ rfl) : Around i s _).gearsKept
      · exact (((around_leaveQueue _ s).trans (beside_setStand rfl _ _)).trans
          (beside_closeCommand i _ _ _ rfl) : Around i s _).gearsKept
      · exact GearsKept.refl s
  | nextDeadline i => exact (GearsKept.of_segment fun g => State.modPoint_read_segment _ _ _ g).enginesOk ok
  | probeMarked g x => exact (GearsKept.of_segment (t := s.modNode g x NodeEntry.markProbe) fun _ => rfl).enginesOk ok

theorem enginesOk_atReset {s t : State} (h : AtReset s t) : t.enginesOk := fun g => by
  rw [h.segment g]
  simp [Segment.engineOk, Segment.reset]

/-- Every step keeps the law of TABLE 7-1. -/
theorem step_keeps_enginesOk {s t : State} (ok : s.enginesOk) (h : step s = .next t) : t.enginesOk :=
  law_of_moves (P := State.enginesOk) (fun _ _ same => same.gearsKept.enginesOk) (fun _ _ => enginesOk_move)
    (fun _ _ => enginesOk_atReset) ok h

/-- Settles O60: outside UP nothing is in flight, so nothing drives the lines (R105). -/
theorem stepsKeepTheEnginesInTheirStates : Obligations.StepsKeepTheEnginesInTheirStates := by
  unfold Obligations.StepsKeepTheEnginesInTheirStates
  intro s t ok h
  have ok' := step_keeps_enginesOk ok h
  refine ⟨ok', fun g down => ?_⟩
  simp [Segment.drivers, (ok' g).transaction_none down, Drivers.released]

end Sys2Proof.Machine

/-!
The collections and the transactions in flight, read slot by slot (R7, R33, R69, R70). The `Row` of a slot says what its point is
to the collections and how often each of them holds it; the laws of R33, R70 and R7 say of each row alone that the two agree
(`Row.stands`, `Row.flightOk`). So an operation on one point has to be looked at for its own row only.
-/
namespace Sys2Proof.Machine

set_option Elab.async false

/-! ### Rows -/

/-- What of a point decides where its collections hold it. -/
structure Place where
  active : Bool
  segment : SegId
  address : Address
  periodic : Bool
  flight : Option FlightKind
  queued : Bool

def Point.place (pt : Point) : Place :=
  { active := pt.isActive, segment := pt.segment, address := pt.address, periodic := pt.scheduledKind
    flight := pt.inFlight.map (·.kind), queued := pt.command.any (·.stand.isQueued) }

/-- What segment `x`'s transaction serves slot `i` as; a cleared one serves none. -/
def Segment.servedAs (x : Segment) (i : SlotNo) : Option FlightKind :=
  match x.transaction with
  | none => none
  | some t => if t.cleared then none else (t.work.flight.filter (·.1 == i)).map (·.2)

/-- A slot as the collections see it: its point's place, whether its node is LOST, how many entries and places in a queue
each segment has for it, and as what each segment's transaction serves it. -/
@[ext] structure Row where
  place : Option Place
  lost : Bool
  entries : SegId → Nat
  queue : SegId → Nat
  served : SegId → Option FlightKind

def State.row (s : State) (i : SlotNo) : Row where
  place := (s.point? i).map Point.place
  lost := ((s.point? i).map Point.place).any fun p => s.nodeLost p.segment p.address
  entries g := ((s.segment g).schedule.map (·.slot)).count i
  queue g := (s.segment g).commandQueue.count i
  served g := (s.segment g).servedAs i

/-- The point of the row is one that a schedule holds (R33). -/
def Row.wants (r : Row) : Bool := r.place.any fun p => p.active && p.periodic && p.flight.isNone && !r.lost

/-- Its own segment's schedule holds the slot once when it wants an entry; no other schedule does (R33). -/
def Row.entriesOk (r : Row) : Prop :=
  ∀ g, r.entries g = if r.place.map (·.segment) = some g ∧ r.wants = true then 1 else 0

/-- Its own segment's queue holds the slot once when its command is QUEUED, and no other does; only an ACTIVE point's is
(R69, R70). -/
def Row.queueOk (r : Row) : Prop :=
  (∀ p, r.place = some p → p.queued = true → p.active = true) ∧
    ∀ g, r.queue g = if ∃ p, r.place = some p ∧ p.segment = g ∧ p.queued = true then 1 else 0

def Row.stands (r : Row) : Prop := r.entriesOk ∧ r.queueOk

/-- Its own segment's transaction serves the slot as its in flight field says; no other does (R7). -/
def Row.flightOk (r : Row) : Prop :=
  ∀ g, r.served g = r.place.bind fun p => if p.segment = g then p.flight else none

/-- Every row agrees with the collections and the transactions. -/
def State.collected (s : State) : Prop := ∀ i, (s.row i).stands ∧ (s.row i).flightOk

/-! ### The laws of R33, R70 and R7 row by row -/

theorem servedAs_eq_some_iff (x : Segment) (i : SlotNo) (k : FlightKind) :
    x.servedAs i = some k ↔ ∃ t, x.transaction = some t ∧ t.cleared = false ∧ t.work.flight = some (i, k) := by
  unfold Segment.servedAs
  split
  · next none => simp [none]
  · next t some =>
    cases cleared : t.cleared with
    | true => simp [some, cleared]
    | false =>
      cases flight : t.work.flight with
      | none => simp [some, flight]
      | some f =>
        obtain ⟨j, k'⟩ := f
        by_cases e : j = i <;> simp [some, flight, cleared, e]

theorem servesOn_iff (s : State) (g : SegId) (i : SlotNo) (k : FlightKind) :
    s.servesOn g i k ↔ (s.row i).served g = some k := (servedAs_eq_some_iff _ i k).symm

theorem scheduledOn_eq (s : State) (g : SegId) (i : SlotNo) :
    s.scheduledOn g i = decide ((s.row i).place.map (·.segment) = some g ∧ (s.row i).wants = true) := by
  unfold State.scheduledOn State.wantsEntry Row.wants State.row
  cases s.point? i with
  | none => simp
  | some pt => rw [Bool.eq_iff_iff]; simp [Point.place, and_assoc]

theorem queuedOn_iff (s : State) (g : SegId) (i : SlotNo) :
    s.queuedOn g i = true ↔ ∃ p, (s.row i).place = some p ∧ p.segment = g ∧ p.active = true ∧ p.queued = true := by
  unfold State.queuedOn State.row
  cases s.point? i with
  | none => simp
  | some pt => simp [Point.place, and_assoc]

theorem flightOf_eq (s : State) (i : SlotNo) : s.flightOf i = (s.row i).place.bind (·.flight) := by
  unfold State.flightOf State.row
  cases s.point? i with
  | none => rfl
  | some pt => rfl

/-- A list that holds each item at most once counts it 1 or 0. -/
theorem count_eq_ite_iff {α : Type} [DecidableEq α] (l : List α) (P : α → Prop) [DecidablePred P] :
    (∀ a, l.count a = if P a then 1 else 0) ↔ l.Nodup ∧ ∀ a, a ∈ l ↔ P a := by
  constructor
  · intro h
    refine ⟨List.nodup_iff_count_le_one.mpr fun a => ?_, fun a => ?_⟩
    · rw [h a]; split <;> omega
    · rw [← List.count_pos_iff, h a]; split <;> simp_all
  · rintro ⟨nodup, mem⟩ a
    split
    · next p => exact List.count_eq_one_of_mem nodup ((mem a).mpr p)
    · next p => exact List.count_eq_zero.mpr fun m => p ((mem a).mp m)

theorem schedulesOk_iff (s : State) : s.schedulesOk ↔ ∀ i, (s.row i).entriesOk := by
  have each : ∀ g, (((s.segment g).schedule.map (·.slot)).Nodup ∧
      ∀ i, i ∈ (s.segment g).schedule.map (·.slot) ↔ s.scheduledOn g i = true) ↔ ∀ i, (s.row i).entries g =
        if (s.row i).place.map (·.segment) = some g ∧ (s.row i).wants = true then 1 else 0 := by
    intro g
    rw [← count_eq_ite_iff]
    simp only [scheduledOn_eq, decide_eq_true_eq]
    rfl
  unfold State.schedulesOk Row.entriesOk
  simp only [each]
  exact forall_comm

theorem commandQueuesOk_iff (s : State) : s.commandQueuesOk ↔ ∀ i, (s.row i).queueOk := by
  have active : (∀ i pt, s.point? i = some pt → pt.command.any (·.stand.isQueued) = true → pt.isActive = true) ↔
      ∀ i p, (s.row i).place = some p → p.queued = true → p.active = true := by
    constructor
    · intro h i p hp
      obtain ⟨pt, hpt, rfl⟩ := Option.map_eq_some_iff.mp hp
      exact h i pt hpt
    · intro h i pt hpt
      exact h i pt.place (by simp [State.row, hpt])
  unfold State.commandQueuesOk Row.queueOk
  rw [active]
  refine (and_congr_right fun act => ?_).trans forall_and.symm
  rw [forall_comm]
  refine forall_congr' fun g => ?_
  rw [← count_eq_ite_iff]
  refine forall_congr' fun i => ?_
  have same : s.queuedOn g i = true ↔ ∃ p, (s.row i).place = some p ∧ p.segment = g ∧ p.queued = true := by
    rw [queuedOn_iff]
    constructor
    · rintro ⟨p, hp, hg, -, hq⟩; exact ⟨p, hp, hg, hq⟩
    · rintro ⟨p, hp, hg, hq⟩; exact ⟨p, hp, hg, act i p hp hq, hq⟩
  simp only [same]
  rfl

theorem flightsOk_iff (s : State) : s.flightsOk ↔ ∀ i, (s.row i).flightOk := by
  have segment : ∀ i g, (s.point? i).any (·.segment == g) = true ↔ (s.row i).place.map (·.segment) = some g := by
    intro i g
    unfold State.row
    cases s.point? i <;> simp [Point.place]
  unfold State.flightsOk
  simp only [servesOn_iff, flightOf_eq, segment]
  constructor
  · rintro ⟨served, flown⟩ i g
    refine Option.ext fun k => ?_
    constructor
    · intro h
      obtain ⟨flight, seg⟩ := served g i k h
      obtain ⟨p, hp, hf⟩ := Option.bind_eq_some_iff.mp flight
      rw [hp, Option.map_some, Option.some.injEq] at seg
      simp [hp, seg, hf]
    · intro h
      obtain ⟨p, hp, hf⟩ := Option.bind_eq_some_iff.mp h
      split at hf
      · next seg =>
        obtain ⟨g', hg'⟩ := flown i k (by rw [hp]; exact hf)
        obtain ⟨-, seg'⟩ := served g' i k hg'
        rw [hp, Option.map_some, Option.some.injEq, seg] at seg'
        rwa [seg']
      · cases hf
  · intro ok
    refine ⟨fun g i k h => ?_, fun i k h => ?_⟩
    · rw [ok i g] at h
      obtain ⟨p, hp, hf⟩ := Option.bind_eq_some_iff.mp h
      split at hf
      · next seg => exact ⟨by rw [hp]; exact hf, by rw [hp, Option.map_some, seg]⟩
      · cases hf
    · obtain ⟨p, hp, hf⟩ := Option.bind_eq_some_iff.mp h
      exact ⟨p.segment, by rw [ok i p.segment, hp]; simpa using hf⟩

theorem collected_iff (s : State) : s.collected ↔ s.schedulesOk ∧ s.commandQueuesOk ∧ s.flightsOk := by
  rw [schedulesOk_iff, commandQueuesOk_iff, flightsOk_iff]
  unfold State.collected Row.stands
  simp only [forall_and, and_assoc]

end Sys2Proof.Machine

/-!
What each operation on the records does to the rows of the slots: most leave every row alone (`SameRows`); the others change the
row of their own slot, by a named change of the row.
-/
namespace Sys2Proof.Machine

set_option Elab.async false

/-! ### What leaves every row alone -/

/-- Every row is the same. -/
def SameRows (s t : State) : Prop := ∀ j, t.row j = s.row j

theorem SameRows.refl (s : State) : SameRows s s := fun _ => rfl

theorem SameRows.trans {s t u : State} (h : SameRows s t) (k : SameRows t u) : SameRows s u := fun j => (k j).trans (h j)

theorem SameRows.after {s t u : State} (k : SameRows t u) (h : SameRows s t) : SameRows s u := h.trans k

theorem SameRows.iteId {c : Prop} [Decidable c] {s t : State} (h : SameRows s t) : SameRows s (if c then t else s) := by
  split
  · exact h
  · exact SameRows.refl s

theorem SameRows.collected {s t : State} (h : SameRows s t) (k : s.collected) : t.collected := fun j => by
  rw [h j]
  exact k j

/-- Two segments hold each slot alike and serve it alike. -/
structure HoldsAlike (x y : Segment) : Prop where
  schedule : y.schedule.map (·.slot) = x.schedule.map (·.slot)
  queue : y.commandQueue = x.commandQueue
  served : ∀ i, y.servedAs i = x.servedAs i

theorem HoldsAlike.refl (x : Segment) : HoldsAlike x x := ⟨rfl, rfl, fun _ => rfl⟩

theorem HoldsAlike.of_eq {x y : Segment} (h : y = x) : HoldsAlike x y := by
  rw [h]; exact HoldsAlike.refl x

theorem row_congr {s t : State} {j : SlotNo}
    (place : (t.point? j).map Point.place = (s.point? j).map Point.place)
    (lost : ∀ g x, t.nodeLost g x = s.nodeLost g x) (segment : ∀ g, HoldsAlike (s.segment g) (t.segment g)) :
    t.row j = s.row j := by
  unfold State.row
  rw [place]
  simp only [lost, (segment _).schedule, (segment _).queue, (segment _).served]

theorem nodeLost_of_directory {s t : State} (h : t.directory = s.directory) (g : SegId) (x : Address) :
    t.nodeLost g x = s.nodeLost g x := by
  unfold State.nodeLost State.nodeEntry?
  rw [h]

theorem SameRows.of_noted {i : SlotNo} {s t : State} (h : Noted i s t) : SameRows s t := fun j =>
  row_congr (h.map_point (fun _ _ => rfl) j) (nodeLost_of_directory h.directory) fun g => .of_eq (h.segment g)

theorem sameRows_modPoint (s : State) (i : SlotNo) (f : Point → Point) (hf : ∀ pt, (f pt).place = pt.place) :
    SameRows s (s.modPoint i f) := fun j => by
  refine row_congr ?_ (nodeLost_of_directory (State.modPoint_directory _ _ _)) fun g => .of_eq (State.modPoint_read_segment _ _ _ g)
  rw [State.modPoint_read_point]
  split
  · next e => subst e; cases s.point? i <;> simp [hf]
  · rfl

theorem sameRows_setPoint (s : State) (i : SlotNo) {pt x : Point} (hp : s.point? i = some pt) (hx : x.place = pt.place) :
    SameRows s (s.setPoint i x) := fun j => by
  refine row_congr ?_ (nodeLost_of_directory rfl) fun g => .refl _
  rw [State.setPoint_read_point]
  split
  · next e => subst e; rw [hp, Option.map_some, Option.map_some, hx]
  · rfl

theorem sameRows_modSegment (s : State) (g : SegId) (f : Segment → Segment)
    (hf : HoldsAlike (s.segment g) (f (s.segment g))) : SameRows s (s.modSegment g f) := fun j => by
  refine row_congr rfl (nodeLost_of_directory rfl) fun h => ?_
  rw [State.modSegment_read_segment]
  split
  · next e => subst e; exact hf
  · exact .refl _

/-- The entry of a key after one entry has been changed. -/
theorem nodeEntry?_modNode (s : State) (g : SegId) (x : Address) (f : NodeEntry → NodeEntry)
    (hf : ∀ e h y, (f e).hasKey h y = e.hasKey h y) (h : SegId) (y : Address) :
    (s.modNode g x f).nodeEntry? h y = if (h, y) = (g, x) then (s.nodeEntry? h y).map f else s.nodeEntry? h y := by
  split
  · next same =>
    cases same
    unfold State.nodeEntry? State.modNode State.setDirectory
    dsimp only
    rw [List.find?_map]
    have keys : ((·.hasKey g x) ∘ fun e : NodeEntry => if e.hasKey g x then f e else e) = (·.hasKey g x) := by
      funext e
      simp only [Function.comp]
      split
      · rw [hf]
      · rfl
    rw [keys]
    cases found : s.directory.find? (·.hasKey g x) with
    | none => rfl
    | some e => simp [List.find?_some found]
  · next other => exact find?_modNode s.directory f hf h y other

theorem sameRows_modNode (s : State) (g : SegId) (x : Address) (f : NodeEntry → NodeEntry)
    (hf : ∀ e h y, (f e).hasKey h y = e.hasKey h y)
    (hp : ∀ e, s.nodeEntry? g x = some e → ((f e).presence == .lost) = (e.presence == .lost)) :
    SameRows s (s.modNode g x f) := fun j => by
  refine row_congr rfl (fun h y => ?_) fun h => .refl _
  unfold State.nodeLost
  rw [nodeEntry?_modNode s g x f hf]
  split
  · next same =>
    cases same
    cases found : s.nodeEntry? g x with
    | none => rfl
    | some e => simp [hp e found]
  · rfl

theorem sameRows_offerSystem (p : Port) (n : Note) (s : State) : SameRows s (offerSystem p n s) :=
  .of_noted (noted_offerSystem 0 p n s)

theorem SameRoster.sameRows {s t : State} (h : SameRoster s t) : SameRows s t := fun j => by
  refine row_congr ?_ (nodeLost_of_directory h.directory) fun g => ?_
  · unfold State.point?
    rw [h.slots]
  · rw [← h.segment g]
    exact ⟨rfl, rfl, fun _ => rfl⟩

/-! ### Changes of one row -/

/-- The row with no entry in segment `g`'s schedule. -/
def Row.dropEntry (g : SegId) (r : Row) : Row := { r with entries := Function.update r.entries g 0 }

/-- The row with an entry in segment `g`'s schedule, a new one if it has none. -/
def Row.addEntry (g : SegId) (r : Row) : Row := { r with entries := Function.update r.entries g (max 1 (r.entries g)) }

/-- The row with no place in segment `g`'s queue. -/
def Row.dropQueue (g : SegId) (r : Row) : Row := { r with queue := Function.update r.queue g 0 }

/-- The row with one more place in segment `g`'s queue. -/
def Row.addQueue (g : SegId) (r : Row) : Row := { r with queue := Function.update r.queue g (r.queue g + 1) }

/-- The row re-entering the schedule of its segment, when its point wants an entry (R34). -/
def Row.reentered (r : Row) : Row :=
  match r.place with
  | none => r
  | some p => if r.wants then r.addEntry p.segment else r

theorem insertEntry_perm (e : SchedEntry) (l : List SchedEntry) : (insertEntry e l).Perm (e :: l) := by
  induction l with
  | nil => exact .refl _
  | cons f rest ih =>
    unfold insertEntry
    split
    · exact .refl _
    · exact (ih.cons f).trans (.swap _ _ _)

theorem count_insertEntry (e : SchedEntry) (l : List SchedEntry) (j : SlotNo) :
    ((insertEntry e l).map (·.slot)).count j = (l.map (·.slot)).count j + if e.slot = j then 1 else 0 := by
  rw [((insertEntry_perm e l).map _).count_eq, List.map_cons, List.count_cons]
  simp [beq_eq_decide]

theorem count_removeEntry (i : SlotNo) (l : List SchedEntry) (j : SlotNo) :
    ((removeEntry i l).map (·.slot)).count j = if j = i then 0 else (l.map (·.slot)).count j := by
  have mapped : (removeEntry i l).map (·.slot) = (l.map (·.slot)).filter (· != i) := by
    rw [List.filter_map]; rfl
  rw [mapped]
  split
  · next e => subst e; exact List.count_eq_zero.mpr (by simp)
  · next ne => exact List.count_filter (by simpa using ne)

theorem entryOf?_isSome (s : State) (g : SegId) (i : SlotNo) : (s.entryOf? g i).isSome = true ↔ 0 < (s.row i).entries g := by
  rw [State.entryOf?, List.find?_isSome]
  have row : (s.row i).entries g = ((s.segment g).schedule.map (·.slot)).count i := rfl
  rw [row, List.count_pos_iff, List.mem_map]
  simp

/-- How the row of a slot follows a change of one segment. -/
theorem row_modSegment (s : State) (g : SegId) (f : Segment → Segment) (j : SlotNo) :
    (s.modSegment g f).row j = { s.row j with
      entries := Function.update (s.row j).entries g (((f (s.segment g)).schedule.map (·.slot)).count j)
      queue := Function.update (s.row j).queue g ((f (s.segment g)).commandQueue.count j)
      served := Function.update (s.row j).served g ((f (s.segment g)).servedAs j) } := by
  have each : ∀ {α : Type} (r : Segment → α), (fun h => r ((s.modSegment g f).segment h)) =
      Function.update (fun h => r (s.segment h)) g (r (f (s.segment g))) := by
    intro α r
    funext h
    rw [State.modSegment_read_segment, Function.update_apply]
    by_cases e : g = h
    · rw [if_pos e, if_pos e.symm]
    · rw [if_neg e, if_neg fun e' => e e'.symm]
  unfold State.row
  rw [each fun x => (x.schedule.map (·.slot)).count j, each fun x => x.commandQueue.count j, each fun x => x.servedAs j]
  rfl

theorem row_modSchedule (s : State) (g : SegId) (f : List SchedEntry → List SchedEntry) (j : SlotNo) :
    (s.modSegment g fun x => { x with schedule := f x.schedule }).row j = { s.row j with
      entries := Function.update (s.row j).entries g (((f (s.segment g).schedule).map (·.slot)).count j) } := by
  rw [row_modSegment]
  exact Row.ext rfl rfl rfl (Function.update_eq_self g (s.row j).queue) (Function.update_eq_self g (s.row j).served)

theorem row_modQueue (s : State) (g : SegId) (f : List SlotNo → List SlotNo) (j : SlotNo) :
    (s.modSegment g fun x => { x with commandQueue := f x.commandQueue }).row j = { s.row j with
      queue := Function.update (s.row j).queue g ((f (s.segment g).commandQueue).count j) } := by
  rw [row_modSegment]
  exact Row.ext rfl rfl (Function.update_eq_self g (s.row j).entries) rfl (Function.update_eq_self g (s.row j).served)

theorem row_leaveSchedule (g : SegId) (i : SlotNo) (s : State) (j : SlotNo) :
    (leaveSchedule g i s).row j = if j = i then (s.row j).dropEntry g else s.row j := by
  rw [leaveSchedule, row_modSchedule, count_removeEntry]
  split
  · rfl
  · exact Row.ext rfl rfl (Function.update_eq_self g (s.row j).entries) rfl rfl

theorem row_enterSchedule (g : SegId) (i : SlotNo) (d : Due) (s : State) (j : SlotNo) :
    (enterSchedule g i d s).row j = if j = i then (s.row j).addEntry g else s.row j := by
  unfold enterSchedule
  by_cases has : (s.entryOf? g i).isSome = true
  · rw [if_pos has]
    split
    · next e =>
      subst e
      have many : max 1 ((s.row j).entries g) = (s.row j).entries g :=
        Nat.max_eq_right ((entryOf?_isSome s g j).mp has)
      unfold Row.addEntry
      rw [many, Function.update_eq_self]
    · rfl
  · rw [if_neg has, row_modSchedule, count_insertEntry]
    split
    · next e =>
      subst e
      have none : (s.row i).entries g = 0 := Nat.eq_zero_of_not_pos fun h => has ((entryOf?_isSome s g i).mpr h)
      have count : ((s.segment g).schedule.map (·.slot)).count i = 0 := none
      rw [count, if_pos rfl]
      unfold Row.addEntry
      rw [none]
      rfl
    · next ne =>
      rw [if_neg fun e => ne e.symm]
      exact Row.ext rfl rfl (Function.update_eq_self g (s.row j).entries) rfl rfl

theorem row_leaveQueue (g : SegId) (i : SlotNo) (s : State) (j : SlotNo) :
    (leaveQueue g i s).row j = if j = i then (s.row j).dropQueue g else s.row j := by
  rw [leaveQueue, row_modQueue]
  split
  · next e =>
    subst e
    have none : ((s.segment g).commandQueue.filter (· != j)).count j = 0 := List.count_eq_zero.mpr (by simp)
    rw [none]
    rfl
  · next ne =>
    rw [List.count_filter (by simpa using ne)]
    exact Row.ext rfl rfl rfl (Function.update_eq_self g (s.row j).queue) rfl

theorem row_addToQueue {g : SegId} {i : SlotNo} {f : List SlotNo → List SlotNo} (hf : ∀ l, (f l).Perm (i :: l)) (s : State)
    (j : SlotNo) : (s.modSegment g fun x => { x with commandQueue := f x.commandQueue }).row j =
      if j = i then (s.row j).addQueue g else s.row j := by
  rw [row_modQueue, (hf _).count_eq, List.count_cons, beq_eq_decide]
  by_cases e : j = i
  · subst e
    rw [if_pos (decide_eq_true rfl), if_pos rfl]
    rfl
  · rw [if_neg e, if_neg (by simpa using fun h => e h.symm)]
    exact Row.ext rfl rfl rfl (Function.update_eq_self g (s.row j).queue) rfl

theorem row_queueTail (g : SegId) (i : SlotNo) (s : State) (j : SlotNo) :
    (queueTail g i s).row j = if j = i then (s.row j).addQueue g else s.row j :=
  row_addToQueue (f := (· ++ [i])) (fun l => List.perm_append_singleton i l) s j

theorem row_queueHead (g : SegId) (i : SlotNo) (s : State) (j : SlotNo) :
    (queueHead g i s).row j = if j = i then (s.row j).addQueue g else s.row j :=
  row_addToQueue (f := (i :: ·)) (fun _ => .refl _) s j

/-- A record replaced that names the same node changes its own row's place. -/
theorem row_setPoint (s : State) (i : SlotNo) {pt x : Point} (hp : s.point? i = some pt) (hg : x.segment = pt.segment)
    (ha : x.address = pt.address) (j : SlotNo) :
    (s.setPoint i x).row j = if j = i then { s.row j with place := some x.place } else s.row j := by
  split
  · next e =>
    subst e
    have lost : ∀ g y, (s.setPoint j x).nodeLost g y = s.nodeLost g y := nodeLost_of_directory rfl
    unfold State.row
    simp [hp, lost, Point.place, hg, ha]
  · next ne =>
    refine row_congr ?_ (nodeLost_of_directory rfl) fun g => .refl _
    rw [State.setPoint_read_point, if_neg fun e => ne e.symm]

theorem row_of_point {s : State} {i : SlotNo} {pt : Point} (hp : s.point? i = some pt) :
    (s.row i).place = some pt.place ∧ (s.row i).lost = s.nodeLost pt.segment pt.address := by
  simp [State.row, hp, Point.place]

theorem wantsEntry_eq {s : State} {i : SlotNo} {pt : Point} (hp : s.point? i = some pt) :
    s.wantsEntry pt = (s.row i).wants := by
  obtain ⟨place, lost⟩ := row_of_point hp
  simp [State.wantsEntry, Row.wants, place, lost, Point.place]

theorem row_reenter (i : SlotNo) (d : Due) (s : State) (j : SlotNo) :
    (reenter i d s).row j = if j = i then (s.row j).reentered else s.row j := by
  unfold reenter
  cases hp : s.point? i with
  | none =>
    dsimp only
    split
    · next e => subst e; simp [Row.reentered, State.row, hp]
    · rfl
  | some pt =>
    dsimp only
    rw [wantsEntry_eq hp]
    by_cases wants : (s.row i).wants = true
    · rw [if_pos wants, row_enterSchedule]
      split
      · next e =>
        subst e
        simp [Row.reentered, (row_of_point hp).1, wants, Point.place]
      · rfl
    · rw [if_neg wants]
      split
      · next e =>
        subst e
        simp [Row.reentered, (row_of_point hp).1, wants]
      · rfl

/-- A point without a period wants no entry. -/
theorem Row.reentered_of_not_wants {r : Row} (h : r.wants = false) : r.reentered = r := by
  unfold Row.reentered
  split <;> simp [h]

theorem row_reenterRead (kind : FlightKind) (start : Option Due) (i : SlotNo) (s : State) (j : SlotNo) :
    (reenterRead kind start i s).row j = if j = i then (s.row j).reentered else s.row j := by
  have idle : ∀ {t : State}, (s.row i).wants = false → t = s →
      t.row j = if j = i then (s.row j).reentered else s.row j := by
    intro t no e
    rw [e]
    split
    · next e' => subst e'; rw [Row.reentered_of_not_wants no]
    · rfl
  unfold reenterRead
  cases hp : s.point? i with
  | none => exact idle (by simp [Row.wants, State.row, hp]) rfl
  | some pt =>
    have wants := wantsEntry_eq hp
    dsimp only
    split
    · next period => exact idle (by rw [← wants]; simp [State.wantsEntry, Point.scheduledKind, period]) rfl
    · split
      · next w =>
        rw [row_enterSchedule, sameRows_setPoint s i hp (by rfl) j]
        split
        · next e =>
          subst e
          simp [Row.reentered, (row_of_point hp).1, ← wants, w, Point.place]
        · rfl
      · next w => exact idle (by rw [← wants]; simpa using w) rfl

end Sys2Proof.Machine

/-!
What happens to a point, its notifications and its value leaves every row alone; what happens to its command moves its own row's
place in the queue alone, and keeps it true (`QueueMoved`).
-/
namespace Sys2Proof.Machine

set_option Elab.async false

/-! ### Values, notifications and scans -/

theorem sameRows_noteQuality (i : SlotNo) (q : Quality) (c : QualityCause) (s : State) :
    SameRows s (noteQuality i q c s) := by
  unfold noteQuality
  split
  · exact SameRows.refl s
  · split
    · exact SameRows.refl s
    · exact .of_noted (noted_offerSubscribers _ i _ s)

/-- A record replaced by one of the same place, with a QUALITY notification perhaps. -/
theorem sameRows_quality {i : SlotNo} {s : State} {pt x : Point} (hp : s.point? i = some pt) (hx : x.place = pt.place)
    (q : Quality) (c : QualityCause) : SameRows s (noteQuality i q c (s.setPoint i x)) :=
  (sameRows_setPoint s i hp hx).trans (sameRows_noteQuality i q c _)

theorem sameRows_goodRead (i : SlotNo) (v : Value) (s : State) : SameRows s (goodRead i v s) := by
  unfold goodRead
  split
  · exact SameRows.refl s
  · next hp => exact sameRows_quality hp (by rfl) _ _

theorem sameRows_failedRead (i : SlotNo) (s : State) : SameRows s (failedRead i s) := by
  unfold failedRead
  split
  · exact SameRows.refl s
  · next hp => exact sameRows_quality hp (by rfl) _ _

theorem sameRows_takeStale (i : SlotNo) (s : State) : SameRows s (takeStale i s) := by
  unfold takeStale
  split
  · exact SameRows.refl s
  · next hp => exact sameRows_quality hp (by rfl) _ _

theorem sameRows_evaluate (i : SlotNo) (v : Value) (s : State) : SameRows s (evaluate i v s) := by
  unfold evaluate
  split
  · exact SameRows.refl s
  · next hp =>
    split
    · exact SameRows.refl s
    · dsimp only
      split
      · exact SameRows.refl s
      · exact (sameRows_setPoint s i hp (by rfl)).trans (.of_noted (noted_offerSubscribers _ i _ _))

theorem sameRows_testDeadband (i : SlotNo) (v : Value) (s : State) : SameRows s (testDeadband i v s) := by
  unfold testDeadband
  split
  · exact SameRows.refl s
  · next hp =>
    split
    · exact SameRows.refl s
    · split
      · exact (sameRows_setPoint s i hp (by rfl)).trans (.of_noted (noted_offerSubscribers _ i _ _))
      · exact SameRows.refl s

theorem sameRows_answerFresh (p : Port) (o : FreshOutcome) (i : SlotNo) (s : State) : SameRows s (answerFresh p o i s) := by
  unfold answerFresh
  split
  · exact SameRows.refl s
  · exact .iteId ((SameRows.of_noted (noted_offerPoint p i _ s)).trans (sameRows_modPoint _ i _ fun _ => rfl))

theorem sameRows_answerFreshBoth (o : FreshOutcome) (i : SlotNo) (s : State) : SameRows s (answerFreshBoth o i s) :=
  (sameRows_answerFresh .host o i s).trans (sameRows_answerFresh .console o i _)

theorem sameRows_freshAnswer (k : ReadKind) (o : FreshOutcome) (i : SlotNo) (s : State) :
    SameRows s (freshAnswer k o i s) := .iteId (sameRows_answerFreshBoth o i s)

theorem sameRows_foldl {α : Type} (f : State → α → State) (hf : ∀ s a, SameRows s (f s a)) (l : List α) (s : State) :
    SameRows s (l.foldl f s) := by
  induction l generalizing s with
  | nil => exact SameRows.refl s
  | cons a rest ih => exact (hf s a).trans (ih _)

theorem sameRows_modScan (s : State) (g : SegId) (f : Segment → ScanContext) :
    SameRows s (s.modSegment g fun x => { x with scan := f x }) :=
  sameRows_modSegment s g _ ⟨rfl, rfl, fun _ => rfl⟩

theorem sameRows_abortScan (g : SegId) (s : State) : SameRows s (abortScan g s) := by
  unfold abortScan
  dsimp only
  split
  · exact (sameRows_offerSystem _ _ _).after (sameRows_modScan s g _)
  · exact SameRows.refl s

theorem sameRows_scanEffects (g : SegId) (x : Address) (o : TxOutcome) (s : State) : SameRows s (scanEffects g x o s) := by
  have advance : ∀ s, SameRows s (advanceScan g s) := by
    intro s
    unfold advanceScan
    dsimp only
    split
    · split
      · exact (sameRows_offerSystem _ _ _).after (sameRows_modScan s g _)
      · exact sameRows_modScan s g _
    · exact SameRows.refl s
  unfold scanEffects
  split
  · exact (sameRows_modScan s g _).trans (advance _)
  · exact advance s
  · exact SameRows.refl s

/-! ### Commands -/

/-- The point in slot `i` carries a command that is not QUEUED. -/
def State.commandIdle (s : State) (i : SlotNo) : Prop :=
  ∃ pt c, s.point? i = some pt ∧ pt.command = some c ∧ c.stand.isQueued = false

theorem State.stand_of_command {s : State} {i : SlotNo} {pt : Point} {c : Command} (hp : s.point? i = some pt)
    (hc : pt.command = some c) : s.stand i = c.stand := by simp [State.stand, hp, hc]

/-- A command that is anything but NONE belongs to a point. -/
theorem State.exists_command {s : State} {i : SlotNo} (h : s.stand i ≠ .noCommand) :
    ∃ pt c, s.point? i = some pt ∧ pt.command = some c ∧ s.stand i = c.stand := by
  unfold State.stand at h ⊢
  cases hp : s.point? i with
  | none => simp [hp] at h
  | some pt =>
    cases hc : pt.command with
    | none => simp [hp, hc] at h
    | some c => exact ⟨pt, c, rfl, hc, by simp [hc]⟩

theorem State.commandIdle_of_delivering {s : State} {i : SlotNo} {x : Issued × Option NextValue}
    (h : (s.stand i).delivering = some x) : s.commandIdle i := by
  have some : s.stand i ≠ .noCommand := fun e => by rw [e] at h; cases h
  obtain ⟨pt, c, hp, hc, e⟩ := State.exists_command some
  refine ⟨pt, c, hp, hc, ?_⟩
  rw [e] at h
  cases hs : c.stand with
  | writing _ _ | verifying _ _ => rfl
  | _ => rw [hs] at h; cases h

theorem State.commandIdle.noted {s t : State} {i : SlotNo} (h : s.commandIdle i) (k : Noted i s t) : t.commandIdle i := by
  obtain ⟨pt, c, hp, hc, idle⟩ := h
  obtain ⟨m, hm⟩ := k.point_self hp
  exact ⟨_, c, hm, hc, idle⟩

theorem State.commandIdle.changed {s : State} {i : SlotNo} (h : s.commandIdle i) {f : Command → Command}
    (hf : ∀ c, c.stand.isQueued = false → (f c).stand.isQueued = false) : (modCommand i f s).commandIdle i := by
  obtain ⟨pt, c, hp, hc, idle⟩ := h
  refine ⟨pt.modCommand f, f c, ?_, by simp [Point.modCommand, hc], hf c idle⟩
  simp [modCommand, hp]

/-- A command changes its point's place by whether it is QUEUED alone. -/
theorem Point.place_modCommand (pt : Point) (f : Command → Command) :
    (pt.modCommand f).place = { pt.place with queued := (pt.command.map f).any (·.stand.isQueued) } := rfl

theorem Point.modCommand_place (pt : Point) (f : Command → Command)
    (hf : ∀ c, pt.command = some c → (f c).stand.isQueued = c.stand.isQueued) : (pt.modCommand f).place = pt.place := by
  rw [Point.place_modCommand]
  cases hc : pt.command with
  | none => simp [Point.place, hc]
  | some c => simp [Point.place, hc, hf c hc]

/-- A command that neither was QUEUED nor becomes so. -/
theorem sameRows_modCommand {s : State} {i : SlotNo} {f : Command → Command}
    (hf : ∀ pt c, s.point? i = some pt → pt.command = some c → (f c).stand.isQueued = c.stand.isQueued) :
    SameRows s (modCommand i f s) := by
  unfold modCommand
  cases hp : s.point? i with
  | none => rw [State.modPoint_of_none _ _ _ hp]; exact SameRows.refl s
  | some pt =>
    rw [State.modPoint_of_some _ _ _ pt hp]
    exact sameRows_setPoint s i hp (Point.modCommand_place pt f fun c hc => hf pt c hp hc)

theorem State.commandIdle.sameRows {s : State} {i : SlotNo} (h : s.commandIdle i) {f : Command → Command}
    (hf : ∀ c, (f c).stand.isQueued = false) : SameRows s (modCommand i f s) := by
  obtain ⟨pt, c, hp, hc, idle⟩ := h
  refine sameRows_modCommand fun pt' c' hp' hc' => ?_
  rw [hp] at hp'
  obtain rfl := Option.some.inj hp'
  rw [hc] at hc'
  obtain rfl := Option.some.inj hc'
  rw [hf, idle]

/-! ### Places in the queue -/

/-- The row without its place in the queue. -/
def Row.idle (r : Row) : Row :=
  { r with place := r.place.map fun p => { p with queued := false }, queue := fun _ => 0 }

/-- From `s` to `t` the command queue of slot `i`'s segment may have changed in the place of `i` alone, and truly so (R70). -/
structure QueueMoved (i : SlotNo) (s t : State) : Prop where
  other : ∀ j, j ≠ i → t.row j = s.row j
  idle : (t.row i).idle = (s.row i).idle
  queue : (s.row i).queueOk → (t.row i).queueOk

theorem QueueMoved.of_same {i : SlotNo} {s t : State} (h : SameRows s t) : QueueMoved i s t where
  other j _ := h j
  idle := by rw [h i]
  queue ok := by rw [h i]; exact ok

theorem QueueMoved.refl (i : SlotNo) (s : State) : QueueMoved i s s := .of_same (SameRows.refl s)

theorem QueueMoved.trans {i : SlotNo} {s t u : State} (h : QueueMoved i s t) (k : QueueMoved i t u) : QueueMoved i s u where
  other j ne := (k.other j ne).trans (h.other j ne)
  idle := k.idle.trans h.idle
  queue ok := k.queue (h.queue ok)

/-- A command that becomes QUEUED on an ACTIVE point takes a place in its segment's queue, head or tail. -/
theorem queueMoved_enqueue {s t : State} {i : SlotNo} {pt : Point} {c : Command} {f : Command → Command}
    (hp : s.point? i = some pt) (hc : pt.command = some c) (idle : c.stand.isQueued = false)
    (hf : (f c).stand.isQueued = true) (active : pt.isActive = true)
    (ht : ∀ j, t.row j = if j = i then ((modCommand i f s).row j).addQueue pt.segment else (modCommand i f s).row j) :
    QueueMoved i s t := by
  have set : modCommand i f s = s.setPoint i (pt.modCommand f) := State.modPoint_of_some _ _ _ pt hp
  have rows : ∀ j, t.row j = if j = i then
      Row.addQueue pt.segment { s.row j with place := some { pt.place with queued := true } } else s.row j := by
    intro j
    have place : (pt.modCommand f).place = { pt.place with queued := true } := by
      rw [Point.place_modCommand, hc]
      simp [hf]
    have one : ∀ j, (modCommand i f s).row j =
        if j = i then { s.row j with place := some (pt.modCommand f).place } else s.row j := fun j => by
      rw [set]
      exact row_setPoint s i hp (by rfl) (by rfl) j
    rw [ht j, one, place]
    split <;> rfl
  have own : (s.row i).place = some pt.place := (row_of_point hp).1
  have notQueued : pt.place.queued = false := by simp [Point.place, hc, idle]
  refine ⟨fun j ne => by rw [rows j, if_neg ne], ?_, fun ok => ?_⟩
  · rw [rows i, if_pos rfl]
    refine Row.ext ?_ rfl rfl rfl rfl
    simp [Row.idle, Row.addQueue, own]
  · rw [rows i, if_pos rfl]
    have empty : ∀ g, (s.row i).queue g = 0 := fun g => by
      rw [ok.2 g, if_neg]
      rintro ⟨p, hp', -, hq⟩
      rw [own] at hp'
      obtain rfl := Option.some.inj hp'
      rw [notQueued] at hq
      cases hq
    refine ⟨?_, fun g => ?_⟩
    · intro p hp' _
      obtain rfl := Option.some.inj hp'
      exact active
    · simp only [Row.addQueue, empty, Function.update_apply]
      by_cases e : g = pt.segment
      · subst e; simp [Point.place]
      · have e' : pt.segment ≠ g := fun h => e h.symm
        simp [Point.place, e, e']

end Sys2Proof.Machine

/-!
What the end of a transaction does to the rows: to its own point's command (`QueueMoved`), to the points of a node that returns or
is lost, and to a point that is freed (R25, R34, R96, R99).
-/
namespace Sys2Proof.Machine

set_option Elab.async false

/-! ### The command's part of an outcome -/

theorem queueMoved_waitAgain {i : SlotNo} {s : State} (h : s.commandIdle i) (v : Issued) (d : Option Time) :
    QueueMoved i s (waitAgain i v d s) := by
  obtain ⟨pt, c, hp, hc, idle⟩ := h
  unfold waitAgain
  rw [hp]
  dsimp only
  split
  · next active => exact queueMoved_enqueue hp hc idle rfl active fun j => row_queueHead _ i _ j
  · exact .of_same (State.commandIdle.sameRows ⟨pt, c, hp, hc, idle⟩ fun _ => rfl)

theorem sameRows_closeCommand (i : SlotNo) (v : Issued) (c : Close) (s : State) : SameRows s (closeCommand i v c s) :=
  .of_noted (noted_closeCommand i v c s)

theorem sameRows_attempts (i : SlotNo) (n : Nat) (s : State) :
    SameRows s (modCommand i (fun c => { c with attempts := n }) s) := sameRows_modCommand fun _ _ _ _ => rfl

theorem queueMoved_promote {i : SlotNo} {s : State} (h : s.commandIdle i) (nv : NextValue) :
    QueueMoved i s (promote i nv s) := by
  have reset : (modCommand i (fun c => { c with attempts := 0 }) s).commandIdle i :=
    h.changed fun _ => id
  refine .trans (.of_same (sameRows_attempts i 0 s)) ?_
  unfold promote
  dsimp only
  split
  · exact .of_same ((reset.sameRows fun _ => rfl).trans (sameRows_closeCommand _ _ _ _))
  · exact queueMoved_waitAgain reset _ _

theorem queueMoved_stepUndone {i : SlotNo} {s : State} (h : s.commandIdle i) (v : Issued) (next : Option NextValue) :
    QueueMoved i s (stepUndone i v next s) := by
  unfold stepUndone
  split
  · exact queueMoved_waitAgain h v _
  · exact .trans (.of_same (sameRows_closeCommand _ _ _ _))
      (queueMoved_promote (h.noted (noted_closeCommand _ _ _ _)) _)

theorem queueMoved_promoteIfAny {i : SlotNo} {s : State} (h : s.commandIdle i) (next : Option NextValue) :
    QueueMoved i s (promoteIfAny i next s) := by
  unfold promoteIfAny
  split
  · exact QueueMoved.refl i s
  · exact queueMoved_promote h _

theorem queueMoved_notAnAttempt (i : SlotNo) (s : State) : QueueMoved i s (notAnAttempt i s) := by
  unfold notAnAttempt
  split
  · exact QueueMoved.refl i s
  · exact queueMoved_stepUndone (State.commandIdle_of_delivering ‹_›) _ _

/-- A command closed in a state that is not QUEUED, its next value put in its place. -/
theorem queueMoved_closed {i : SlotNo} {s : State} (h : s.commandIdle i) {f : Command → Command}
    (hf : ∀ c, (f c).stand.isQueued = false) (v : Issued) (c : Close) (next : Option NextValue) :
    QueueMoved i s (promoteIfAny i next (closeCommand i v c (modCommand i f s))) :=
  .trans (.of_same ((h.sameRows hf).trans (sameRows_closeCommand _ _ _ _)))
    (queueMoved_promoteIfAny ((h.changed fun c _ => hf c).noted (noted_closeCommand _ _ _ _)) _)

theorem queueMoved_failedAttempt (i : SlotNo) (c : FailCause) (s : State) : QueueMoved i s (failedAttempt i c s) := by
  unfold failedAttempt
  split
  · exact QueueMoved.refl i s
  · next v next delivering =>
    have idle := State.commandIdle_of_delivering delivering
    have counted : (modCommand i (fun c => { c with attempts := s.attempts i + 1 }) s).commandIdle i :=
      idle.changed fun _ => id
    refine .trans (.of_same (sameRows_attempts i (s.attempts i + 1) s)) ?_
    dsimp only
    split
    · exact queueMoved_stepUndone counted v next
    · exact queueMoved_closed counted (fun _ => rfl) _ _ _

theorem queueMoved_compareVerify (i : SlotNo) (v : Value) (s : State) : QueueMoved i s (compareVerify i v s) := by
  unfold compareVerify
  split
  · exact QueueMoved.refl i s
  · next d next delivering =>
    split
    · exact queueMoved_closed (State.commandIdle_of_delivering delivering) (fun _ => rfl) _ _ _
    · exact queueMoved_failedAttempt i _ s

theorem queueMoved_restoreCommand {i : SlotNo} {s : State} (h : s.commandIdle i) (cv : Value) :
    QueueMoved i s (restoreCommand i cv s) := by
  obtain ⟨pt, c, hp, hc, idle⟩ := h
  have reset : (modCommand i (fun c => { c with attempts := 0 }) s).commandIdle i :=
    State.commandIdle.changed ⟨pt, c, hp, hc, idle⟩ fun _ => id
  refine .trans (.of_same (sameRows_attempts i 0 s)) ?_
  unfold restoreCommand
  rw [hp]
  dsimp only
  split
  · next active =>
    have hp' : (modCommand i (fun c => { c with attempts := 0 }) s).point? i =
        some (pt.modCommand fun c => { c with attempts := 0 }) := by simp [modCommand, hp]
    have hc' : (pt.modCommand fun c => { c with attempts := 0 }).command = some { c with attempts := 0 } := by
      simp [Point.modCommand, hc]
    exact queueMoved_enqueue hp' hc' idle rfl active fun j => row_queueTail _ i _ j
  · exact .of_same (reset.sameRows fun _ => rfl)

theorem queueMoved_compareGuard (i : SlotNo) (v : Value) (s : State) : QueueMoved i s (compareGuard i v s) := by
  have same := QueueMoved.refl i s
  unfold compareGuard
  split
  · exact same
  · next pt hp =>
    split
    · exact same
    · next c hc =>
      split
      · next stand _ =>
        split
        · exact same
        · have noted := noted_offerSubscribers (·.command) i (.drift (s.handle i) v ‹Value›) s
          have idle : s.commandIdle i := ⟨pt, c, hp, hc, by rw [stand]; rfl⟩
          refine .trans (.of_same (.of_noted noted)) ?_
          dsimp only
          split
          · exact queueMoved_restoreCommand (idle.noted noted) _
          · exact QueueMoved.refl i _
      · exact same

theorem queueMoved_pollEffects (k : ReadKind) (i : SlotNo) (pt : Point) (o : TxOutcome) (s : State) :
    QueueMoved i s (pollEffects k i pt o s) := by
  have failed : ∀ f, QueueMoved i s (pollFailed k f i s) := fun f =>
    .of_same ((sameRows_failedRead i s).trans (sameRows_freshAnswer _ _ i _))
  unfold pollEffects
  split
  · generalize extendValue pt.width pt.signed _ = v
    unfold pollGood
    dsimp only
    have read : SameRows s (testDeadband i v (evaluate i v (goodRead i v s))) :=
      ((sameRows_goodRead i v s).trans (sameRows_evaluate i v _)).trans (sameRows_testDeadband i v _)
    refine .trans (.of_same read) (.trans ?_ (.of_same (sameRows_freshAnswer _ _ i _)))
    split
    · exact queueMoved_compareGuard i _ _
    · exact QueueMoved.refl i _
  · exact failed _
  · exact failed _
  · exact failed _
  · exact QueueMoved.refl i s

theorem queueMoved_verifyEffects (i : SlotNo) (pt : Point) (o : TxOutcome) (s : State) :
    QueueMoved i s (verifyEffects i pt o s) := by
  unfold verifyEffects
  split
  · exact .trans (.of_same (sameRows_goodRead i _ s)) (queueMoved_compareVerify i _ _)
  · exact queueMoved_failedAttempt i _ s
  · exact queueMoved_failedAttempt i _ s
  · exact queueMoved_failedAttempt i _ s
  · exact queueMoved_notAnAttempt i s

theorem queueMoved_writeEffects (i : SlotNo) (pt : Point) (o : TxOutcome) (s : State) :
    QueueMoved i s (writeEffects i pt o s) := by
  unfold writeEffects
  split
  · unfold writeAccepted
    split
    · next v next writing =>
      have idle : s.commandIdle i := State.commandIdle_of_delivering (by rw [writing]; rfl)
      split
      · exact .of_same (idle.sameRows fun _ => rfl)
      · exact queueMoved_stepUndone idle v next
    · exact QueueMoved.refl i s
  · exact queueMoved_failedAttempt i _ s
  · exact queueMoved_failedAttempt i _ s
  · exact queueMoved_failedAttempt i _ s
  · exact queueMoved_notAnAttempt i s

/-! ### The points of a node -/

/-- The row of a slot after one operation on each slot of a list that changes its own slot's row by `F`. -/
theorem row_foldl {f : State → SlotNo → State} {F : Row → Row} (hF : ∀ r, F (F r) = F r)
    (hf : ∀ s i j, (f s i).row j = if j = i then F (s.row j) else s.row j) (l : List SlotNo) (s : State) (j : SlotNo) :
    (l.foldl f s).row j = if j ∈ l then F (s.row j) else s.row j := by
  induction l generalizing s with
  | nil => simp
  | cons i rest ih =>
    rw [List.foldl_cons, ih, hf]
    by_cases e : j = i
    · subst e; by_cases m : j ∈ rest <;> simp [m, hF]
    · simp [e]

theorem Row.dropEntry_dropEntry (g : SegId) (r : Row) : (r.dropEntry g).dropEntry g = r.dropEntry g := by
  simp [Row.dropEntry]

theorem Row.reentered_reentered (r : Row) : r.reentered.reentered = r.reentered := by
  cases hp : r.place with
  | none => simp [Row.reentered, hp]
  | some p =>
    cases w : r.wants with
    | false => rw [Row.reentered_of_not_wants w, Row.reentered_of_not_wants w]
    | true =>
      have once : r.reentered = r.addEntry p.segment := by simp [Row.reentered, hp, w]
      have w' : (r.addEntry p.segment).wants = true := w
      have hp' : (r.addEntry p.segment).place = some p := hp
      rw [once]
      have again : (r.addEntry p.segment).reentered = (r.addEntry p.segment).addEntry p.segment := by
        simp [Row.reentered, hp', w']
      rw [again]
      simp [Row.addEntry]

theorem row_dropByLoss (g : SegId) (s : State) (i j : SlotNo) :
    (dropByLoss g s i).row j = if j = i then (s.row j).dropEntry g else s.row j := by
  have cleared : SameRows (leaveSchedule g i s) (dropByLoss g s i) := sameRows_modPoint _ i _ fun _ => rfl
  rw [cleared j, row_leaveSchedule]

/-- The point of the row names the node `x` of segment `g`. -/
def Row.names (r : Row) (g : SegId) (x : Address) : Bool := r.place.any fun p => p.segment == g && p.address == x

theorem mem_slotsNaming (s : State) (g : SegId) (x : Address) (i : SlotNo) :
    i ∈ s.slotsNaming g x ↔ (s.row i).names g x = true := by
  unfold State.slotsNaming State.row Row.names
  rw [List.mem_filter]
  cases s.point? i <;> simp [mem_allSlots, Point.names, Point.place]

/-- The row with its node LOST, or not. -/
def Row.withLost (b : Bool) (r : Row) : Row := { r with lost := b }

/-- A node's presence changed changes the rows that name it. -/
theorem row_modNode_presence (s : State) {g : SegId} {x : Address} {f : NodeEntry → NodeEntry} {e : NodeEntry}
    (found : s.nodeEntry? g x = some e) (hf : ∀ e h y, (f e).hasKey h y = e.hasKey h y) (j : SlotNo) :
    (s.modNode g x f).row j = if (s.row j).names g x then (s.row j).withLost ((f e).presence == .lost) else s.row j := by
  have lost : ∀ h y, (s.modNode g x f).nodeLost h y =
      if (h, y) = (g, x) then ((f e).presence == .lost) else s.nodeLost h y := by
    intro h y
    unfold State.nodeLost
    rw [nodeEntry?_modNode s g x f hf]
    split
    · next same =>
      obtain ⟨rfl, rfl⟩ := Prod.mk.inj same
      rw [found]; rfl
    · rfl
  unfold State.row
  cases hp : s.point? j with
  | none => simp [Row.names, hp]
  | some pt =>
    simp only [State.modNode_read_point, hp, Option.map_some, Option.any_some, Row.names, lost]
    by_cases e : pt.place.segment = g ∧ pt.place.address = x
    · obtain ⟨rfl, rfl⟩ := e
      simp [Row.withLost]
    · simp [e]

theorem Row.names_segment {r : Row} {g : SegId} {x : Address} (h : r.names g x = true) :
    ∃ p, r.place = some p ∧ p.segment = g := by
  unfold Row.names at h
  cases hp : r.place with
  | none => rw [hp] at h; cases h
  | some p =>
    rw [hp, Option.any_some, Bool.and_eq_true, beq_iff_eq] at h
    exact ⟨p, rfl, h.1⟩

/-- The row of a slot after the loss of a node: its points out of the schedule (R35, R96). -/
theorem row_loseNode {s : State} {g : SegId} {x : Address} {e : NodeEntry} (found : s.nodeEntry? g x = some e)
    (cause : Option SlotNo) (e' : NodeEntry) (j : SlotNo) :
    (loseNode g x cause e' s).row j =
      if (s.row j).names g x then ((s.row j).withLost true).dropEntry g else s.row j := by
  unfold loseNode
  dsimp only
  generalize hs1 : s.modNode g x _ = s1
  have lost : ∀ j, s1.row j = if (s.row j).names g x then (s.row j).withLost true else s.row j := fun j => by
    rw [← hs1]
    exact row_modNode_presence s found (by intros; rfl) j
  generalize hs2 : offerNodeEvents _ s1 = s2
  have told : SameRows s1 s2 := by rw [← hs2]; exact .of_noted (noted_offerNodeEvents 0 _ s1)
  rw [sameRows_foldl _ (fun t i => sameRows_answerFreshBoth .noNode i t) _ _ j,
    row_foldl (Row.dropEntry_dropEntry g) (row_dropByLoss g), told j, lost j]
  by_cases n : (s.row j).names g x = true
  · have m : j ∈ s2.slotsNaming g x := by
      rw [mem_slotsNaming, told j, lost j, if_pos n]; exact n
    rw [if_pos m, if_pos n, if_pos n]
  · have m : j ∉ s2.slotsNaming g x := by
      rw [mem_slotsNaming, told j, lost j, if_neg n]; exact n
    rw [if_neg m, if_neg n, if_neg n]

/-- The row of a slot after the return of a node: its waiting points back in the schedule (R99). -/
theorem row_returnNode {s : State} {g : SegId} {x : Address} {e : NodeEntry} (found : s.nodeEntry? g x = some e)
    (e' : NodeEntry) (j : SlotNo) :
    (returnNode g x e' s).row j =
      if (s.row j).names g x then ((s.row j).withLost false).reentered else s.row j := by
  unfold returnNode
  dsimp only
  generalize hs1 : s.modNode g x _ = s1
  have back : ∀ j, s1.row j = if (s.row j).names g x then (s.row j).withLost false else s.row j := fun j => by
    rw [← hs1]
    exact row_modNode_presence s found (by intros; rfl) j
  generalize hs2 : offerNodeEvents _ s1 = s2
  have told : SameRows s1 s2 := by rw [← hs2]; exact .of_noted (noted_offerNodeEvents 0 _ s1)
  rw [row_foldl Row.reentered_reentered (fun t i j => row_reenter i t.dueNow t j), told j, back j]
  by_cases n : (s.row j).names g x = true
  · have m : j ∈ s2.slotsNaming g x := by
      rw [mem_slotsNaming, told j, back j, if_pos n]; exact n
    rw [if_pos m, if_pos n, if_pos n]
  · have m : j ∉ s2.slotsNaming g x := by
      rw [mem_slotsNaming, told j, back j, if_neg n]; exact n
    rw [if_neg m, if_neg n, if_neg n]

end Sys2Proof.Machine

/-!
The end of a transaction keeps the collections and the flights true: the node's points first (`RowsHeld`), then its own point,
which re-enters its schedule or is freed (R25, R34).
-/
namespace Sys2Proof.Machine

set_option Elab.async false

theorem Kept.directoryOk {s t : State} (k : Kept s t) (h : s.directoryOk) : t.directoryOk :=
  directoryOk_congr k.ident k.count h

/-! ### Rows on their own -/

section Row
variable {r : Row}

theorem Row.entries_zero (ok : r.entriesOk) (no : r.wants = false) (g : SegId) : r.entries g = 0 := by
  rw [ok g, if_neg]
  rintro ⟨-, w⟩
  rw [no] at w
  cases w

theorem Row.entries_other (ok : r.entriesOk) {p : Place} (hp : r.place = some p) {g : SegId} (ne : p.segment ≠ g) :
    r.entries g = 0 := by
  rw [ok g, if_neg]
  rintro ⟨e, -⟩
  rw [hp] at e
  exact ne (Option.some.inj e)

theorem Row.wants_of_flight {p : Place} (hp : r.place = some p) {k : FlightKind} (hk : p.flight = some k) :
    r.wants = false := by simp [Row.wants, hp, hk]

/-- A slot that stood in no schedule does so truly when it has re-entered (R33, R34). -/
theorem Row.entriesOk_reentered (empty : ∀ g, r.entries g = 0) : r.reentered.entriesOk := by
  intro g
  cases hp : r.place with
  | none => simp [Row.reentered, Row.wants, hp, empty]
  | some p =>
    cases w : r.wants with
    | false => rw [Row.reentered_of_not_wants w]; simp [empty, w]
    | true =>
      have entered : r.reentered = r.addEntry p.segment := by simp [Row.reentered, hp, w]
      have w' : (r.addEntry p.segment).wants = true := w
      rw [entered, w']
      by_cases e : g = p.segment
      · subst e; simp [Row.addEntry, empty, hp]
      · have e' : p.segment ≠ g := fun h => e h.symm
        simp [Row.addEntry, empty, hp, e, e']

theorem Row.queueOk_congr {r' : Row} (place : r'.place = r.place) (queue : r'.queue = r.queue) (h : r.queueOk) :
    r'.queueOk := by
  unfold Row.queueOk
  rw [place, queue]
  exact h

theorem Row.reentered_place : r.reentered.place = r.place := by
  unfold Row.reentered
  split
  · rfl
  · split <;> rfl

theorem Row.reentered_queue : r.reentered.queue = r.queue := by
  unfold Row.reentered
  split
  · rfl
  · split <;> rfl

theorem Row.reentered_served : r.reentered.served = r.served := by
  unfold Row.reentered
  split
  · rfl
  · split <;> rfl

theorem Row.stands_reentered (empty : ∀ g, r.entries g = 0) (queue : r.queueOk) : r.reentered.stands :=
  ⟨Row.entriesOk_reentered empty, queue.imp (by rw [Row.reentered_place]; exact id)
    (by rw [Row.reentered_queue, Row.reentered_place]; exact id)⟩

/-- The row of a point of a node that is lost (R35, R96). -/
theorem Row.stands_lost {g : SegId} {x : Address} (h : r.stands) (n : r.names g x = true) :
    ((r.withLost true).dropEntry g).stands := by
  obtain ⟨entries, queue⟩ := h
  refine ⟨fun k => ?_, queue⟩
  obtain ⟨p, hp, hg⟩ := Row.names_segment n
  have no : ((r.withLost true).dropEntry g).wants = false := by
    simp [Row.wants, Row.withLost, Row.dropEntry, hp]
  rw [no, if_neg (by simp)]
  by_cases e : k = g
  · subst e; simp [Row.dropEntry]
  · have zero := Row.entries_other entries hp (g := k) (fun h => e (h.symm.trans hg))
    simpa [Row.dropEntry, e, Row.withLost] using zero

/-- The row of a point of a LOST node that returns (R99). -/
theorem Row.stands_back (h : r.stands) (lost : r.lost = true) : ((r.withLost false).reentered).stands := by
  obtain ⟨entries, queue⟩ := h
  have no : r.wants = false := by simp [Row.wants, lost]
  exact Row.stands_reentered (r := r.withLost false) (fun g => Row.entries_zero entries no g) queue

theorem Row.flightOk_congr {r' : Row} (place : r'.place = r.place) (served : r'.served = r.served) (h : r.flightOk) :
    r'.flightOk := by
  unfold Row.flightOk
  rw [place, served]
  exact h

end Row

/-! ### What holds the rows -/

/-- Places and flights are the same, and the collections stay true if they were. -/
structure RowsHeld (s t : State) : Prop where
  place : ∀ j, (t.row j).place = (s.row j).place
  served : ∀ j, (t.row j).served = (s.row j).served
  stands : (∀ j, (s.row j).stands) → ∀ j, (t.row j).stands

theorem SameRows.held {s t : State} (h : SameRows s t) : RowsHeld s t where
  place j := by rw [h j]
  served j := by rw [h j]
  stands k j := by rw [h j]; exact k j

theorem RowsHeld.refl (s : State) : RowsHeld s s := (SameRows.refl s).held

theorem RowsHeld.trans {s t u : State} (h : RowsHeld s t) (k : RowsHeld t u) : RowsHeld s u where
  place j := (k.place j).trans (h.place j)
  served j := (k.served j).trans (h.served j)
  stands ok := k.stands (h.stands ok)

theorem RowsHeld.collected {s t : State} (h : RowsHeld s t) (ok : s.collected) : t.collected := fun j =>
  ⟨h.stands (fun j => (ok j).1) j, Row.flightOk_congr (h.place j) (h.served j) (ok j).2⟩

theorem row_lost_of_names {s : State} {g : SegId} {x : Address} {j : SlotNo} (n : (s.row j).names g x = true) :
    (s.row j).lost = s.nodeLost g x := by
  unfold State.row Row.names at *
  cases hp : s.point? j with
  | none => rw [hp] at n; cases n
  | some pt =>
    simp only [hp, Option.map_some, Option.any_some, Bool.and_eq_true, beq_iff_eq] at n ⊢
    rw [n.1, n.2]

theorem rowsHeld_nodeAccepted (g : SegId) (x : Address) (s : State) : RowsHeld s (nodeAccepted g x s) := by
  unfold nodeAccepted
  split
  · exact RowsHeld.refl s
  · next e found =>
    split
    · next lost =>
      have rows := row_returnNode found e
      have kept : ∀ j, ((returnNode g x e s).row j).place = (s.row j).place ∧
          ((returnNode g x e s).row j).served = (s.row j).served := fun j => by
        rw [rows j]
        split
        · exact ⟨Row.reentered_place, Row.reentered_served⟩
        · exact ⟨rfl, rfl⟩
      refine ⟨fun j => (kept j).1, fun j => (kept j).2, fun ok j => ?_⟩
      rw [rows j]
      split
      · next n =>
        refine Row.stands_back (ok j) ?_
        rw [row_lost_of_names n]
        simpa [State.nodeLost, found] using lost
      · exact ok j
    · next lost =>
      refine (sameRows_modNode s g x _ (by intros; rfl) fun e' he => ?_).held
      rw [found] at he
      obtain rfl := Option.some.inj he
      exact (Bool.eq_false_iff.mpr lost).symm

theorem rowsHeld_nodeMissed (g : SegId) (x : Address) (cause : Option SlotNo) (s : State) :
    RowsHeld s (nodeMissed g x cause s) := by
  unfold nodeMissed
  split
  · exact RowsHeld.refl s
  · next e found =>
    split
    · exact RowsHeld.refl s
    · split
      · have rows := row_loseNode found cause e
        have kept : ∀ j, ((loseNode g x cause e s).row j).place = (s.row j).place ∧
            ((loseNode g x cause e s).row j).served = (s.row j).served := fun j => by
          rw [rows j]
          split <;> exact ⟨rfl, rfl⟩
        refine ⟨fun j => (kept j).1, fun j => (kept j).2, fun ok j => ?_⟩
        rw [rows j]
        split
        · next n => exact Row.stands_lost (ok j) n
        · exact ok j
      · exact (sameRows_modNode s g x _ (by intros; rfl) (by intros; rfl)).held

theorem rowsHeld_nodeOutcome (g : SegId) (x : Address) (cause : Option SlotNo) (o : TxOutcome) (s : State) :
    RowsHeld s (nodeOutcome g x cause o s) := by
  unfold nodeOutcome
  split
  · exact rowsHeld_nodeAccepted g x s
  · exact rowsHeld_nodeAccepted g x s
  · exact rowsHeld_nodeAccepted g x s
  · exact rowsHeld_nodeMissed g x cause s
  · exact RowsHeld.refl s

theorem sameRows_setProbe (g : SegId) (x : Address) (t : Time) (s : State) : SameRows s (setProbe g x t s) :=
  sameRows_modNode s g x _ (fun e h y => by split <;> rfl) fun e _ => by split <;> rfl

theorem sameRows_probeEffects (g : SegId) (x : Address) (o : TxOutcome) (s : State) :
    SameRows s (probeEffects g x o s) := by
  unfold probeEffects
  split
  · exact sameRows_setProbe _ _ _ s
  · exact sameRows_setProbe _ _ _ s
  · exact sameRows_setProbe _ _ _ s
  · exact sameRows_setProbe _ _ _ s
  · exact SameRows.refl s

theorem row_moveToNow (g : SegId) (i : SlotNo) (s : State) (j : SlotNo) :
    (moveToNow g i s).row j = if j = i then ((s.row j).dropEntry g).addEntry g else s.row j := by
  rw [moveToNow, row_enterSchedule, row_leaveSchedule]
  by_cases e : j = i <;> simp [e]

/-- An entry that stands alone stays alone when it is moved to the present reading (R35). -/
theorem sameRows_moveToNow {g : SegId} {i : SlotNo} {s : State} (has : (s.entryOf? g i).isSome = true)
    (ok : (s.row i).entriesOk) : SameRows s (moveToNow g i s) := fun j => by
  rw [row_moveToNow]
  split
  · next e =>
    subst e
    have one : (s.row j).entries g = 1 := by
      have some := (entryOf?_isSome s g j).mp has
      have le := ok g
      split at le <;> omega
    refine Row.ext rfl rfl ?_ rfl rfl
    simp only [Row.addEntry, Row.dropEntry, Function.update_self, Function.update_idem]
    rw [show max 1 0 = (s.row j).entries g from one.symm, Function.update_eq_self]
  · rfl

theorem rowsHeld_moveAlertDriven (g : SegId) (s : State) (i : SlotNo) : RowsHeld s (moveAlertDriven g s i) := by
  unfold moveAlertDriven
  split
  · exact RowsHeld.refl s
  · split
    · next c =>
      have has : (s.entryOf? g i).isSome = true := (Bool.and_eq_true_iff.mp c).2
      have rows := row_moveToNow g i s
      have kept : ∀ j, ((moveToNow g i s).row j).place = (s.row j).place ∧
          ((moveToNow g i s).row j).served = (s.row j).served := fun j => by
        rw [rows j]
        split <;> exact ⟨rfl, rfl⟩
      refine ⟨fun j => (kept j).1, fun j => (kept j).2, fun ok j => ?_⟩
      rw [sameRows_moveToNow has (ok i).1 j]
      exact ok j
    · exact RowsHeld.refl s

theorem rowsHeld_foldl (f : State → SlotNo → State) (hf : ∀ s i, RowsHeld s (f s i)) (l : List SlotNo) (s : State) :
    RowsHeld s (l.foldl f s) := by
  induction l generalizing s with
  | nil => exact RowsHeld.refl s
  | cons i rest ih => exact (hf s i).trans (ih _)

theorem rowsHeld_rollEffects (g : SegId) (o : TxOutcome) (s : State) : RowsHeld s (rollEffects g o s) := by
  unfold rollEffects
  split
  · unfold rollWon
    split
    · exact (SameRows.of_noted (noted_offerNodeEvents 0 _ s)).held
    · exact (rowsHeld_nodeAccepted g _ s).trans (rowsHeld_foldl _ (rowsHeld_moveAlertDriven g) _ _)
  · exact (sameRows_modSegment s g _ ⟨rfl, rfl, fun _ => rfl⟩).held
  · exact RowsHeld.refl s

/-- A transaction that serves no point (R98, R122, R125, R142). -/
theorem rowsHeld_applyOutcome {w : Work} (h : w.flight = none) (g : SegId) (o : TxOutcome) (s : State) :
    RowsHeld s (applyOutcome g w o s) := by
  cases w with
  | read kind i x item width => cases h
  | write i x item width value => cases h
  | probe x => exact (rowsHeld_nodeOutcome g x none o s).trans (sameRows_probeEffects g x o _).held
  | scanStep x => exact (rowsHeld_nodeOutcome g x none o s).trans (sameRows_scanEffects g x o _).held
  | roll => exact rowsHeld_rollEffects g o s

/-! ### A point freed or defined -/

/-- In a directory in the order of its keys an entry is found under its key. -/
theorem find?_hasKey_of_mem {l : List NodeEntry} (ordered : l.Pairwise fun e f => e.before f = true) {e : NodeEntry}
    {g : SegId} {x : Address} (he : e ∈ l) (key : e.hasKey g x = true) : l.find? (·.hasKey g x) = some e := by
  induction l with
  | nil => cases he
  | cons f rest ih =>
    rw [List.pairwise_cons] at ordered
    rcases List.mem_cons.mp he with rfl | he'
    · exact List.find?_cons_of_pos (p := fun f : NodeEntry => f.hasKey g x) key
    · rw [List.find?_cons_of_neg, ih ordered.2 he']
      intro key'
      have before := ordered.1 e he'
      obtain ⟨hg, hx⟩ := (hasKey_iff e g x).mp key
      obtain ⟨hg', hx'⟩ := (hasKey_iff f g x).mp key'
      rw [before_iff, hg, hx, hg', hx'] at before
      rcases before with ⟨ha, hb⟩ | ⟨-, lt⟩
      · rw [ha] at hb; cases hb
      · exact absurd lt (Nat.lt_irrefl _)

theorem nodeEntry?_of_mem {s : State} (ok : s.directoryOk) {e : NodeEntry} {g : SegId} {x : Address} (he : e ∈ s.directory)
    (key : e.hasKey g x = true) : s.nodeEntry? g x = some e := find?_hasKey_of_mem ok.2.1 he key

/-- Two directories that keep their law lose alike the node of a point that stands in both, when each entry of the one has an
entry of its key and presence in the other. -/
theorem row_lost_congr {s t : State} {j : SlotNo} (hs : s.directoryOk) (ht : t.directoryOk)
    (place : t.point? j = s.point? j)
    (back : ∀ e ∈ t.directory, ∀ g x, s.nodeEntry? g x ≠ none → e.hasKey g x = true →
      ∃ f ∈ s.directory, f.hasKey g x = true ∧ f.presence = e.presence) : (t.row j).lost = (s.row j).lost := by
  unfold State.row
  rw [place]
  cases hp : s.point? j with
  | none => rfl
  | some pt =>
    obtain ⟨e, he, key⟩ : ∃ e ∈ t.directory, e.hasKey pt.segment pt.address = true :=
      ht.2.2.2 j pt.identity (by simp [State.ident, place, hp])
    obtain ⟨e', he', key'⟩ : ∃ e ∈ s.directory, e.hasKey pt.segment pt.address = true :=
      hs.2.2.2 j pt.identity (by simp [State.ident, hp])
    have has : s.nodeEntry? pt.segment pt.address ≠ none := by
      rw [nodeEntry?_of_mem hs he' key']; exact Option.some_ne_none _
    obtain ⟨f, hf, fkey, same⟩ := back e he _ _ has key
    have found : t.nodeLost pt.segment pt.address = s.nodeLost pt.segment pt.address := by
      unfold State.nodeLost
      rw [nodeEntry?_of_mem ht he key, nodeEntry?_of_mem hs hf fkey]
      simp [same]
    simpa [Point.place] using found

theorem segment_dropNodePoint (g : SegId) (x : Address) (s : State) (h : SegId) :
    (dropNodePoint g x s).segment h = s.segment h := rfl

theorem point_dropNodePoint (g : SegId) (x : Address) (s : State) (j : SlotNo) :
    (dropNodePoint g x s).point? j = s.point? j := rfl

/-- What the freeing procedure leaves of a segment (R11). -/
theorem freeSlot_segment {i : SlotNo} {s : State} {pt : Point} (hp : s.point? i = some pt) (g : SegId) :
    (freeSlot i s).segment g = (leaveQueue pt.segment i (leaveSchedule pt.segment i s)).segment g := by
  simp [freeSlot, hp, segment_dropNodePoint, segment_markToSystem]

theorem freeSlot_row {i : SlotNo} {s : State} {pt : Point} (hp : s.point? i = some pt) (ok : s.directoryOk) (j : SlotNo) :
    (freeSlot i s).row j =
      if j = i then { ((s.row j).dropEntry pt.segment).dropQueue pt.segment with place := none, lost := false }
      else s.row j := by
  have left := fun j => row_leaveQueue pt.segment i (leaveSchedule pt.segment i s) j
  have held : ∀ j g, ((freeSlot i s).row j).entries g =
        ((leaveQueue pt.segment i (leaveSchedule pt.segment i s)).row j).entries g ∧
      ((freeSlot i s).row j).queue g = ((leaveQueue pt.segment i (leaveSchedule pt.segment i s)).row j).queue g ∧
      ((freeSlot i s).row j).served g = ((leaveQueue pt.segment i (leaveSchedule pt.segment i s)).row j).served g := by
    intro j g
    simp only [State.row, freeSlot_segment hp g, and_self]
  have point : ∀ j, (freeSlot i s).point? j = if i = j then none else s.point? j := fun j => freeSlot_point i j s pt hp
  split
  · next e =>
    subst e
    have free := point j
    rw [if_pos rfl] at free
    refine Row.ext ?_ ?_ (funext fun g => ?_) (funext fun g => ?_) (funext fun g => ?_)
    · simp [State.row, free]
    · simp [State.row, free]
    · rw [(held j g).1, left j, if_pos rfl, row_leaveSchedule, if_pos rfl]
    · rw [(held j g).2.1, left j, if_pos rfl, row_leaveSchedule, if_pos rfl]
    · rw [(held j g).2.2, left j, if_pos rfl, row_leaveSchedule, if_pos rfl]
  · next ne =>
    have same := point j
    rw [if_neg fun e => ne e.symm] at same
    refine Row.ext ?_ ?_ (funext fun g => ?_) (funext fun g => ?_) (funext fun g => ?_)
    · simp [State.row, same]
    · refine row_lost_congr ok (directoryOk_freeSlot hp ok) same fun e he g x _ key => ?_
      rw [freeSlot_directory i s pt hp, dropNodePoint_directory] at he
      obtain ⟨f, hf, rfl⟩ := List.mem_map.mp (List.mem_filter.mp he).1
      refine ⟨f, hf, ?_, ?_⟩
      · obtain ⟨hg, hx⟩ := dropOne_key pt.segment pt.address f
        rw [hasKey_iff] at key ⊢
        rwa [← hg, ← hx]
      · unfold NodeEntry.dropOne
        split <;> rfl
    · rw [(held j g).1, left j, if_neg ne, row_leaveSchedule, if_neg ne]
    · rw [(held j g).2.1, left j, if_neg ne, row_leaveSchedule, if_neg ne]
    · rw [(held j g).2.2, left j, if_neg ne, row_leaveSchedule, if_neg ne]

/-- The row of a slot after DEFINE: its new point HELD, no other row changed (R14). -/
theorem definePoint_row (p : Port) {d : Definition} {i : SlotNo} {s : State} (hr : defineResources d s = .ok i)
    (ok : s.directoryOk) (j : SlotNo) :
    (definePoint p d i s).row j =
      if j = i then { s.row j with
        place := some (Point.new p d).place, lost := ((definePoint p d i s).row j).lost } else s.row j := by
  have point := definePoint_point p d i j s
  have segment : ∀ g, (definePoint p d i s).segment g = s.segment g := fun g => by
    unfold definePoint addNodePoint
    split <;> rfl
  split
  · next e =>
    subst e
    rw [if_pos rfl] at point
    refine Row.ext ?_ rfl (funext fun g => ?_) (funext fun g => ?_) (funext fun g => ?_)
    · simp [State.row, point]
    all_goals simp only [State.row, segment]
  · next ne =>
    rw [if_neg fun e => ne e.symm] at point
    refine Row.ext ?_ ?_ (funext fun g => ?_) (funext fun g => ?_) (funext fun g => ?_)
    · simp [State.row, point]
    · refine row_lost_congr ok (directoryOk_definePoint p hr ok) point fun e he g x has key => ?_
      cases found : s.nodeEntry? d.segment d.address with
      | none =>
        have entries : (definePoint p d i s).directory = _ :=
          addNodePoint_directory_of_none (s := s.setPoint i (Point.new p d)) found
        rw [entries, mem_insertNode] at he
        rcases he with rfl | he
        · obtain ⟨rfl, rfl⟩ := (hasKey_iff _ g x).mp key
          exact absurd found has
        · exact ⟨e, he, key, rfl⟩
      | some e' =>
        have entries : (definePoint p d i s).directory = _ :=
          addNodePoint_directory_of_some (s := s.setPoint i (Point.new p d)) found
        rw [entries] at he
        obtain ⟨f, hf, rfl⟩ := List.mem_map.mp he
        refine ⟨f, hf, ?_, ?_⟩
        · obtain ⟨hg, hx⟩ := addOne_key d.segment d.address f
          rw [hasKey_iff] at key ⊢
          rwa [← hg, ← hx]
        · unfold NodeEntry.addOne
          split <;> rfl
    all_goals simp only [State.row, segment]

/-! ### The point of a transaction that has ended -/

/-- The other rows as before and one row true: the collections are true. -/
theorem collected_of_own {i : SlotNo} {s t : State} (ok : ∀ j, j ≠ i → (s.row j).stands ∧ (s.row j).flightOk)
    (other : ∀ j, j ≠ i → t.row j = s.row j) (own : (t.row i).stands ∧ (t.row i).flightOk) : t.collected := fun j => by
  by_cases e : j = i
  · subst e; exact own
  · rw [other j e]; exact ok j e

theorem collected_freeSlot {i : SlotNo} {s : State} {pt : Point} (hp : s.point? i = some pt) (dir : s.directoryOk)
    (stands : ∀ j, (s.row j).stands) (flights : ∀ j, j ≠ i → (s.row j).flightOk) (idle : ∀ g, (s.row i).served g = none) :
    (freeSlot i s).collected := by
  have rows := freeSlot_row hp dir
  refine collected_of_own (fun j ne => ⟨stands j, flights j ne⟩) (fun j ne => by rw [rows j, if_neg ne]) ?_
  obtain ⟨entries, queue⟩ := stands i
  have own : (s.row i).place = some pt.place := (row_of_point hp).1
  rw [rows i, if_pos rfl]
  refine ⟨⟨fun g => ?_, ⟨(fun p hp => nomatch hp), fun g => ?_⟩⟩, fun g => idle g⟩
  · by_cases e : g = pt.segment
    · subst e; simp [Row.dropEntry, Row.dropQueue]
    · have zero := Row.entries_other entries own (g := g) (fun h => e h.symm)
      simpa [Row.dropEntry, Row.dropQueue, e] using zero
  · by_cases e : g = pt.segment
    · subst e; simp [Row.dropQueue]
    · have zero : (s.row i).queue g = 0 := by
        rw [queue.2 g, if_neg]
        rintro ⟨p, hp', hg, -⟩
        rw [own] at hp'
        obtain rfl := Option.some.inj hp'
        exact e hg.symm
      simpa [Row.dropEntry, Row.dropQueue, e] using zero

/-- The transaction of one point has ended: its flight ends, its effects leave its entry out, it re-enters (R34). -/
theorem collected_finishPoint {i : SlotNo} {effects : Point → State → State} {reentry : Option Due → State → State}
    (he : ∀ pt s, QueueMoved i s (effects pt s))
    (hr : ∀ d s j, (reentry d s).row j = if j = i then (s.row j).reentered else s.row j) {s : State} (dir : s.directoryOk)
    {p : Place} {k : FlightKind} (hp : (s.row i).place = some p) (hk : p.flight = some k)
    (stands : ∀ j, (s.row j).stands) (flights : ∀ j, j ≠ i → (s.row j).flightOk) (idle : ∀ g, (s.row i).served g = none) :
    (finishPoint i effects reentry s).collected := by
  obtain ⟨pt, hpt, rfl⟩ : ∃ pt, s.point? i = some pt ∧ pt.place = p := Option.map_eq_some_iff.mp hp
  unfold finishPoint
  rw [hpt]
  dsimp only
  split
  · exact (sameRows_offerSystem _ _ _).collected (collected_freeSlot hpt dir stands flights idle)
  · have ended : ∀ j, (endFlight i s).row j =
        if j = i then { s.row j with place := some { pt.place with flight := none } } else s.row j := fun j => by
      rw [endFlight, State.modPoint_of_some _ _ _ _ hpt]
      exact row_setPoint s i hpt (by rfl) (by rfl) j
    obtain ⟨entries, queue⟩ := stands i
    have moved := he pt (endFlight i s)
    generalize effects pt (endFlight i s) = u at moved ⊢
    refine collected_of_own (fun j ne => ⟨stands j, flights j ne⟩) (fun j ne => ?_) ?_
    · rw [hr, if_neg ne, moved.other j ne, ended j, if_neg ne]
    · have zero : ∀ g, (s.row i).entries g = 0 := Row.entries_zero entries (Row.wants_of_flight hp hk)
      have after : (u.row i).idle = _ := moved.idle
      rw [ended i, if_pos rfl] at after
      have zero' : ∀ g, (u.row i).entries g = 0 := fun g => by
        exact (congrArg (fun r => r.entries g) after).trans (zero g)
      have served' : ∀ g, (u.row i).served g = none := fun g => by
        exact (congrArg (fun r => r.served g) after).trans (idle g)
      have flight' : ∀ p, (u.row i).place = some p → p.flight = none := fun p hp' => by
        have same := congrArg Row.place after
        simp only [Row.idle, hp', Option.map_some, Option.some.injEq] at same
        exact congrArg Place.flight same
      have queue' : (u.row i).queueOk := moved.queue (by
        rw [ended i, if_pos rfl]
        refine ⟨fun p hp' hq => ?_, fun g => ?_⟩
        · obtain rfl := Option.some.inj hp'
          exact queue.1 pt.place hp hq
        · have same := queue.2 g
          rw [hp] at same
          simpa using same)
      rw [hr, if_pos rfl]
      refine ⟨Row.stands_reentered zero' queue', fun g => ?_⟩
      rw [Row.reentered_served, Row.reentered_place, served' g]
      cases hu : (u.row i).place with
      | none => rfl
      | some p => simp [flight' p hu]

end Sys2Proof.Machine

/-!
Every transaction's end, start and abandonment keeps the collections and the flights true (R7, R19, R33, R70).
-/
namespace Sys2Proof.Machine

set_option Elab.async false

/-! ### The end of a transaction -/

theorem row_reenterDelivery (o : TxOutcome) (i : SlotNo) (d : Option Due) (s : State) (j : SlotNo) :
    (reenterDelivery o i d s).row j = if j = i then (s.row j).reentered else s.row j := by
  unfold reenterDelivery
  split <;> exact row_reenter i _ s j

theorem row_reenterPoll (k : ReadKind) (o : TxOutcome) (i : SlotNo) (d : Option Due) (s : State) (j : SlotNo) :
    (reenterPoll k o i d s).row j = if j = i then (s.row j).reentered else s.row j := by
  unfold reenterPoll
  split
  · exact row_reenter i _ s j
  · exact row_reenterRead _ d i s j

/-- The row of a slot when another transaction, or none, is in flight on segment `g`. -/
theorem row_setTransaction (s : State) (g : SegId) (f : Segment → Segment)
    (hf : ∀ x, (f x).schedule = x.schedule ∧ (f x).commandQueue = x.commandQueue) (j : SlotNo) :
    (s.modSegment g f).row j =
      { s.row j with served := Function.update (s.row j).served g ((f (s.segment g)).servedAs j) } := by
  obtain ⟨schedule, queue⟩ := hf (s.segment g)
  rw [row_modSegment, schedule, queue]
  exact Row.ext rfl rfl (Function.update_eq_self g (s.row j).entries) (Function.update_eq_self g (s.row j).queue) rfl

theorem row_endTransaction (g : SegId) (s : State) (j : SlotNo) :
    (endTransaction g s).row j = { s.row j with served := Function.update (s.row j).served g none } := by
  rw [endTransaction, row_setTransaction s g _ (by intros; exact ⟨rfl, rfl⟩)]
  rfl

/-- A transaction that does not serve a slot ends without its row. -/
theorem row_endTransaction_of_idle {g : SegId} {s : State} {j : SlotNo} (h : (s.row j).served g = none) :
    (endTransaction g s).row j = s.row j := by
  rw [row_endTransaction, ← h, Function.update_eq_self]

/-- What the outcome of a transaction that serves slot `i` does to the node and then to the point keeps all true. -/
theorem collected_outcome {g : SegId} {w : Work} {i : SlotNo} {k : FlightKind} (h : w.flight = some (i, k)) (o : TxOutcome)
    {s : State} (dir : s.directoryOk) {p : Place} {k' : FlightKind} (hp : (s.row i).place = some p)
    (hk : p.flight = some k') (stands : ∀ j, (s.row j).stands) (flights : ∀ j, j ≠ i → (s.row j).flightOk)
    (idle : ∀ g, (s.row i).served g = none) : (applyOutcome g w o s).collected := by
  have finish : ∀ {effects : Point → State → State} {reentry : Option Due → State → State} (x : Address),
      (∀ pt s, QueueMoved i s (effects pt s)) →
      (∀ d s j, (reentry d s).row j = if j = i then (s.row j).reentered else s.row j) →
      (finishPoint i effects reentry (nodeOutcome g x (some i) o s)).collected := by
    intro effects reentry x he hr
    have held := rowsHeld_nodeOutcome g x (some i) o s
    exact collected_finishPoint he hr ((kept_nodeOutcome g x (some i) o s).directoryOk dir) ((held.place i).trans hp) hk
      (held.stands stands) (fun j ne => Row.flightOk_congr (held.place j) (held.served j) (flights j ne))
      (fun g => by rw [held.served i]; exact idle g)
  cases w with
  | read kind i' x item width =>
    obtain rfl : i' = i := (Prod.mk.inj (Option.some.inj h)).1
    cases kind with
    | verify => exact finish x (fun pt s => queueMoved_verifyEffects i' pt o s) (fun d s => row_reenterDelivery o i' d s)
    | poll | refreshPoll | guard =>
      exact finish x (fun pt s => queueMoved_pollEffects _ i' pt o s) (fun d s => row_reenterPoll _ o i' d s)
  | write i' x item width value =>
    obtain rfl : i' = i := (Prod.mk.inj (Option.some.inj h)).1
    exact finish x (fun pt s => queueMoved_writeEffects i' pt o s) (fun d s => row_reenterDelivery o i' d s)
  | probe x => cases h
  | scanStep x => cases h
  | roll => cases h

theorem served_of_transaction {s : State} {g : SegId} {t : Transaction} (ht : (s.segment g).transaction = some t)
    (j : SlotNo) :
    (s.row j).served g = if t.cleared then none else (t.work.flight.filter (·.1 == j)).map (·.2) := by
  simp [State.row, Segment.servedAs, ht]

/-- The records of a transaction that has ended, or of none when it was cleared. -/
theorem collected_ended {s : State} (ok : s.collected) (dir : s.directoryOk) {g : SegId} {t : Transaction}
    (ht : (s.segment g).transaction = some t) (o : TxOutcome) :
    (if t.cleared then endTransaction g s else applyOutcome g t.work o (endTransaction g s)).collected := by
  have served := served_of_transaction ht
  have dir' : (endTransaction g s).directoryOk := (kept_endTransaction g s).directoryOk dir
  cases cleared : t.cleared with
  | true =>
    have same : SameRows s (endTransaction g s) := fun j =>
      row_endTransaction_of_idle (by rw [served j, cleared]; rfl)
    exact same.collected ok
  | false =>
    simp only [cleared, Bool.false_eq_true, if_false] at served ⊢
    cases flight : t.work.flight with
    | none =>
      have same : SameRows s (endTransaction g s) := fun j => row_endTransaction_of_idle (by rw [served j, flight]; rfl)
      exact (rowsHeld_applyOutcome flight g o _).collected (same.collected ok)
    | some f =>
      obtain ⟨i, k⟩ := f
      have own : (s.row i).served g = some k := by simp [served i, flight]
      have other : ∀ j, j ≠ i → (endTransaction g s).row j = s.row j := fun j ne =>
        row_endTransaction_of_idle (by
          have ne' : ¬ i = j := fun e => ne e.symm
          simp [served j, flight, Option.filter, ne'])
      obtain ⟨stands, flightOk⟩ := ok i
      rw [flightOk g] at own
      obtain ⟨p, hp, hk⟩ := Option.bind_eq_some_iff.mp own
      split at hk
      · next seg =>
        have row := row_endTransaction g s i
        refine collected_outcome flight o dir' (by rw [row]; exact hp) hk (fun j => ?_) (fun j ne => ?_) (fun h => ?_)
        · rw [row_endTransaction]
          exact (ok j).1
        · rw [other j ne]
          exact (ok j).2
        · rw [row]
          by_cases e : h = g
          · subst e; simp
          · have none := flightOk h
            rw [hp, Option.bind_some, if_neg fun e' => e (e'.symm.trans seg)] at none
            simpa [e] using none
      · cases hk

theorem sameRows_faultRecovery (g : SegId) (o : TxOutcome) (s : State) : SameRows s (faultRecovery g o s) := by
  unfold faultRecovery
  split
  · exact sameRows_modSegment s g _ ⟨rfl, rfl, fun _ => rfl⟩
  · exact SameRows.refl s

theorem collected_takeCompletion {s : State} (ok : s.collected) (dir : s.directoryOk) {g : SegId} {t : Transaction}
    (ht : (s.segment g).transaction = some t) (o : TxOutcome) : (takeCompletion g t o s).collected :=
  (sameRows_faultRecovery g o _).collected (collected_ended ok dir ht o)

theorem collected_endWith {s : State} (ok : s.collected) (dir : s.directoryOk) (g : SegId) (o : TxOutcome) :
    (endWith g o s).collected := by
  unfold endWith
  split
  · exact ok
  · exact collected_takeCompletion ok dir ‹_› o

theorem collected_abandon {s : State} (ok : s.collected) (dir : s.directoryOk) (g : SegId) : (abandon g s).collected := by
  unfold abandon
  split
  · exact ok
  · exact collected_ended ok dir ‹_› .timeout

/-- A transaction that stands elsewhere serves the same. -/
theorem servedAs_phase {x : Segment} {t : Transaction} (ht : x.transaction = some t) (phase : TxPhase) (i : SlotNo) :
    { x with transaction := some { t with phase := phase } }.servedAs i = x.servedAs i := by
  simp [Segment.servedAs, ht]

theorem collected_driveOn {s : State} (ok : s.collected) (dir : s.directoryOk) (g : SegId) (f : LinkPos → LinkPos)
    (l : List Bool) : (driveOn g f l s).collected := by
  rcases driveOn_inFlight g f l s with e | ⟨t, ht, ⟨o, e⟩ | ⟨start, next, e⟩⟩
  · rwa [e]
  · rw [e]
    exact collected_takeCompletion ok dir ht o
  · rw [e]
    exact (sameRows_modSegment s g _ ⟨rfl, rfl, servedAs_phase ht _⟩).collected ok

/-! ### The start of a transaction -/

theorem row_takeFlight {g : SegId} {i : SlotNo} {k : FlightKind} {s : State} {pt : Point} (hp : s.point? i = some pt)
    (j : SlotNo) : (takeFlight g i k s).row j =
      if j = i then { (s.row j).dropEntry g with place := some { pt.place with flight := some k } } else s.row j := by
  have hp' : (leaveSchedule g i s).point? i = some pt := hp
  rw [takeFlight, State.modPoint_of_some _ _ _ _ hp', row_setPoint _ i hp' (by rfl) (by rfl), row_leaveSchedule]
  by_cases e : j = i
  · simp only [if_pos e]; rfl
  · simp only [if_neg e]

/-- A claim that serves slot `i` of segment `g`: its own row alone changes, all but its flight made true. -/
structure Claimed (g : SegId) (i : SlotNo) (k : FlightKind) (s t : State) : Prop where
  other : ∀ j, j ≠ i → t.row j = s.row j
  stands : (t.row i).stands
  flight : ∃ p, (t.row i).place = some p ∧ p.segment = g ∧ p.flight = some k
  served : (t.row i).served = (s.row i).served
  free : ∀ p, (s.row i).place = some p → p.flight = none

theorem startable_iff (pt : Point) : pt.startable = true ↔ pt.state = .active ∧ pt.inFlight = none := by
  simp [Point.startable, Point.isActive]

theorem free_of_startable {s : State} {i : SlotNo} {pt : Point} (hp : s.point? i = some pt) (h : pt.startable = true) :
    ∀ p, (s.row i).place = some p → p.flight = none := by
  intro p hp'
  rw [(row_of_point hp).1] at hp'
  obtain rfl := Option.some.inj hp'
  simp [Point.place, ((startable_iff pt).mp h).2]

theorem claimed_takeFlight {g : SegId} {i : SlotNo} (k : FlightKind) {s : State} {pt : Point} (hp : s.point? i = some pt)
    (start : pt.startable = true) (seg : pt.segment = g) (stands : (s.row i).stands) : Claimed g i k s (takeFlight g i k s) := by
  have rows := row_takeFlight (g := g) (k := k) hp
  have own : (s.row i).place = some pt.place := (row_of_point hp).1
  obtain ⟨entries, queue⟩ := stands
  have row := rows i
  rw [if_pos rfl] at row
  refine ⟨fun j ne => by rw [rows j, if_neg ne], ?_, ⟨{ pt.place with flight := some k }, by rw [row], seg, rfl⟩,
    by rw [row]; rfl, free_of_startable hp start⟩
  rw [row]
  refine ⟨fun h => ?_, ?_, fun h => ?_⟩
  · have no : Row.wants { (s.row i).dropEntry g with place := some { pt.place with flight := some k } } = false := by
      simp [Row.wants]
    rw [no, if_neg (by simp)]
    by_cases e : h = g
    · subst e; simp [Row.dropEntry]
    · have zero := Row.entries_other entries own (g := h) (fun e' => e (e'.symm.trans seg))
      simpa [Row.dropEntry, e] using zero
  · intro p hp' hq
    obtain rfl := Option.some.inj hp'
    exact queue.1 pt.place own hq
  · have same := queue.2 h
    rw [own] at same
    simpa [Row.dropEntry] using same

theorem claimed_poll {g : SegId} {i : SlotNo} {s t : State} {w : Work} (ok : s.collected)
    (h : claimPoll g i s = some (w, t)) : ∃ k, w.flight = some (i, k) ∧ Claimed g i k s t := by
  unfold claimPoll at h
  cases hp : s.point? i with
  | none => simp [hp] at h
  | some pt =>
    simp only [hp] at h
    split at h
    · next c =>
      cases h
      have own : (s.row i).place = some pt.place := (row_of_point hp).1
      have some := (entryOf?_isSome s g i).mp (Bool.and_eq_true_iff.mp c).2
      have seg : pt.segment = g := Decidable.by_contra fun ne => by
        have zero := Row.entries_other (ok i).1.1 own (g := g) ne
        omega
      exact ⟨_, rfl, claimed_takeFlight _ hp (Bool.and_eq_true_iff.mp c).1 seg (ok i).1⟩
    · cases h

theorem claimed_verify {g : SegId} {i : SlotNo} {s t : State} {w : Work} (ok : s.collected) (owed : i ∈ s.owedVerifies g)
    (h : claimVerify g i s = some (w, t)) : ∃ k, w.flight = some (i, k) ∧ Claimed g i k s t := by
  unfold claimVerify at h
  cases hp : s.point? i with
  | none => simp [hp] at h
  | some pt =>
    simp only [hp] at h
    split at h
    · next c =>
      cases h
      have seg : pt.segment = g := by
        have here := (List.mem_filter.mp owed).2
        rw [hp] at here
        simpa using (Bool.and_eq_true_iff.mp here).1
      exact ⟨_, rfl, claimed_takeFlight _ hp (Bool.and_eq_true_iff.mp c).1 seg (ok i).1⟩
    · cases h

theorem claimed_command {g : SegId} {i : SlotNo} {s t : State} {w : Work} (ok : s.collected)
    (h : claimCommand g i s = some (w, t)) : ∃ k, w.flight = some (i, k) ∧ Claimed g i k s t := by
  unfold claimCommand at h
  cases hp : s.point? i with
  | none => simp [hp] at h
  | some pt =>
    simp only [hp] at h
    split at h
    · next v d stand =>
      split at h
      · next c =>
        cases h
        refine ⟨_, rfl, ?_⟩
        have own : (s.row i).place = some pt.place := (row_of_point hp).1
        obtain ⟨⟨entries, queue⟩, -⟩ := ok i
        have waits : 0 < (s.row i).queue g :=
          List.count_pos_iff.mpr (by simpa using (Bool.and_eq_true_iff.mp c).2)
        have seg : pt.segment = g := Decidable.by_contra fun ne => by
          rw [queue.2 g, if_neg] at waits
          · exact Nat.lt_irrefl _ waits
          · rintro ⟨p, hp', hg, -⟩
            rw [own] at hp'
            obtain rfl := Option.some.inj hp'
            exact ne hg
        have left : (leaveQueue g i s).point? i = some pt := hp
        obtain ⟨pt₁, command, hp₁, hc, -⟩ := State.exists_command (s := s) (i := i) (by rw [stand]; exact fun e => nomatch e)
        rw [hp] at hp₁
        obtain rfl := Option.some.inj hp₁
        let pt' : Point := { pt with inFlight := some ⟨.write, ((leaveQueue g i s).entryOf? g i).map (·.due)⟩ }
        have flown : (takeFlight g i .write (leaveQueue g i s)).point? i = some pt' := by
          simp [takeFlight, leaveSchedule, left, pt']
        have rows : ∀ j, (setStand i (.writing v none) (takeFlight g i .write (leaveQueue g i s))).row j =
            if j = i then { ((s.row j).dropQueue g).dropEntry g with
              place := some { pt.place with flight := some .write, queued := false } } else s.row j := by
          intro j
          rw [setStand, modCommand, State.modPoint_of_some _ _ _ _ flown, row_setPoint _ i flown (by rfl) (by rfl),
            row_takeFlight left, row_leaveQueue]
          by_cases e : j = i
          · simp only [if_pos e, Point.place_modCommand]
            simp only [pt', hc]
            rfl
          · simp only [if_neg e]
        have row := rows i
        rw [if_pos rfl] at row
        refine ⟨fun j ne => by rw [rows j, if_neg ne], ?_, ⟨_, by rw [row], seg, rfl⟩, by rw [row]; rfl,
          free_of_startable hp (Bool.and_eq_true_iff.mp c).1⟩
        rw [row]
        refine ⟨fun h => ?_, (fun p hp' hq => ?_), fun h => ?_⟩
        · have no : Row.wants { ((s.row i).dropQueue g).dropEntry g with
              place := some { pt.place with flight := some .write, queued := false } } = false := by simp [Row.wants]
          rw [no, if_neg (by simp)]
          by_cases e : h = g
          · subst e; simp [Row.dropEntry]
          · have zero := Row.entries_other entries own (g := h) (fun e' => e (e'.symm.trans seg))
            simpa [Row.dropEntry, Row.dropQueue, e] using zero
        · obtain rfl := Option.some.inj hp'
          cases hq
        · by_cases e : h = g
          · subst e; simp [Row.dropEntry, Row.dropQueue]
          · have zero := queue.2 h
            have e' : pt.place.segment ≠ h := fun e' => e (e'.symm.trans seg)
            rw [own] at zero
            simpa [Row.dropEntry, Row.dropQueue, e, e'] using zero
      · cases h
    · cases h

/-- A start claim serves no point and leaves every row, or it is one point's. -/
theorem claimed_start {g : SegId} {c : Choice} {s t : State} {w : Work} (ok : s.collected) (hc : c ∈ s.candidates g)
    (h : claimStart g c s = some (w, t)) :
    (w.flight = none ∧ SameRows s t) ∨ ∃ i k, w.flight = some (i, k) ∧ Claimed g i k s t := by
  cases c with
  | verify i =>
    have owed : i ∈ s.owedVerifies g := by
      have no : Choice.verify i ∉ s.queuedWork g := by
        unfold State.queuedWork
        dsimp only
        split <;> simp
      simpa [State.candidates, no] using hc
    exact .inr ⟨i, claimed_verify ok owed h⟩
  | command i => exact .inr ⟨i, claimed_command ok h⟩
  | roll =>
    cases h
    exact .inl ⟨rfl, SameRows.refl s⟩
  | poll i => exact .inr ⟨i, claimed_poll ok h⟩
  | probe x =>
    simp only [claimStart, claimProbe] at h
    split at h
    · cases h
    · split at h <;> cases h
      exact .inl ⟨rfl, sameRows_modNode s g x _ (by intros; rfl) (by intros; rfl)⟩
  | scanStep x =>
    simp only [claimStart] at h
    split at h <;> cases h
    exact .inl ⟨rfl, SameRows.refl s⟩

theorem collected_chooseWork {s : State} (ok : s.collected) (g : SegId) : (chooseWork g s).collected := by
  unfold chooseWork
  split
  · next idle =>
    obtain ⟨-, none⟩ := (Segment.idle_iff _).mp idle
    have unserved : ∀ j, (s.row j).served g = Option.none := fun j => by simp [State.row, Segment.servedAs, none]
    split
    · exact ok
    · next w t granted =>
      obtain ⟨c, hc, claimed⟩ := granted_claim granted
      have rows : ∀ j, (beginTransaction g w t).row j = { t.row j with
          served := Function.update (t.row j).served g ((w.flight.filter (·.1 == j)).map (·.2)) } := fun j => by
        rw [beginTransaction, row_setTransaction t g _ (by intros; exact ⟨rfl, rfl⟩)]
        rfl
      rcases claimed_start ok hc claimed with ⟨flight, same⟩ | ⟨i, k, flight, own⟩
      · have unchanged : SameRows s (beginTransaction g w t) := fun j => by
          have zero := unserved j
          rw [rows j, flight, same j]
          exact Row.ext rfl rfl rfl rfl (by simp [← zero])
        exact unchanged.collected ok
      · obtain ⟨other, stands, ⟨p, hp, seg, hk⟩, served, free⟩ := own
        refine collected_of_own (i := i) (fun j _ => ok j) (fun j ne => ?_) ?_
        · have ne' : ¬ i = j := fun e => ne e.symm
          have zero := unserved j
          rw [rows j, flight, other j ne]
          exact Row.ext rfl rfl rfl rfl (by simp [Option.filter, ne', ← zero])
        · rw [rows i, flight]
          refine ⟨stands, fun h => ?_⟩
          obtain ⟨-, flightOk⟩ := ok i
          dsimp only
          rw [hp, served, Option.bind_some, seg, hk]
          by_cases e : h = g
          · subst e; simp [Option.filter]
          · have none : (s.row i).served h = Option.none := by
              rw [flightOk h]
              cases hp' : (s.row i).place with
              | none => rfl
              | some p' => simp [free p' hp']
            have e' : ¬ g = h := fun e' => e e'.symm
            simp [e, e', none]
  · exact ok

end Sys2Proof.Machine

/-! Every request, every move and so every step keeps the collections and the flights true (R7, R33, R69, R70). -/
namespace Sys2Proof.Machine

set_option Elab.async false

/-! ### Commands that wait, are withdrawn or expire -/

theorem QueueMoved.entriesOk {i : SlotNo} {s t : State} (h : QueueMoved i s t) (ok : (s.row i).entriesOk) :
    (t.row i).entriesOk := by
  have segment : ∀ r : Row, r.idle.place.map (·.segment) = r.place.map (·.segment) := fun r => by
    simp [Row.idle, Option.map_map, Function.comp_def]
  have wants : ∀ r : Row, r.idle.wants = r.wants := fun r => by
    cases h : r.place <;> simp [Row.wants, Row.idle, h]
  intro g
  have same : (t.row i).entries g = (s.row i).entries g := congrArg (fun r => r.entries g) h.idle
  rw [same, ← segment, ← wants, h.idle, segment, wants]
  exact ok g

theorem QueueMoved.flightOk {i : SlotNo} {s t : State} (h : QueueMoved i s t) (ok : (s.row i).flightOk) :
    (t.row i).flightOk := by
  have flown : ∀ (r : Row) (g : SegId), (r.idle.place.bind fun p => if p.segment = g then p.flight else none) =
      r.place.bind fun p => if p.segment = g then p.flight else none := fun r g => by
    cases h : r.place <;> simp [Row.idle, h]
  intro g
  have same : (t.row i).served g = (s.row i).served g := congrArg (fun r => r.served g) h.idle
  rw [same, ← flown, h.idle, flown]
  exact ok g

theorem QueueMoved.collected {i : SlotNo} {s t : State} (h : QueueMoved i s t) (ok : s.collected) : t.collected :=
  collected_of_own (fun j _ => ok j) h.other
    ⟨⟨h.entriesOk (ok i).1.1, h.queue (ok i).1.2⟩, h.flightOk (ok i).2⟩

theorem stand_noted {i : SlotNo} {s t : State} (h : Noted i s t) (j : SlotNo) : t.stand j = s.stand j := by
  have same := h.map_point (f := Point.command) (fun _ _ => rfl) j
  unfold State.stand
  cases hs : s.point? j <;> cases ht : t.point? j <;> rw [hs, ht] at same
  · cases same
  · cases same
  · rw [Option.map_some, Option.map_some, Option.some.injEq] at same
    simp only [same]

/-- A command whose state is replaced by one that is QUEUED or not just as it was. -/
theorem sameRows_setStand {s : State} {i : SlotNo} {x : Stand} (h : x.isQueued = (s.stand i).isQueued) :
    SameRows s (setStand i x s) := sameRows_modCommand fun pt c hp hc => by
  rw [State.stand_of_command hp hc] at h
  exact h

theorem stand_attempts (i : SlotNo) (n : Nat) (s : State) :
    (modCommand i (fun c => { c with attempts := n }) s).stand i = s.stand i := by
  unfold State.stand modCommand
  rw [State.modPoint_read_point, if_pos rfl]
  cases hp : s.point? i with
  | none => rfl
  | some pt => cases hc : pt.command <;> simp [Point.modCommand, hc]

/-- A command that leaves the queue and is QUEUED no more. -/
theorem queueMoved_dequeue {i : SlotNo} {s : State} {pt : Point} {f : Command → Command} (hp : s.point? i = some pt)
    (hf : ∀ c, (f c).stand.isQueued = false) (others : ∀ g, g ≠ pt.segment → (s.row i).queue g = 0) :
    QueueMoved i s (modCommand i f (leaveQueue pt.segment i s)) ∧
      ((modCommand i f (leaveQueue pt.segment i s)).row i).queueOk := by
  have hp' : (leaveQueue pt.segment i s).point? i = some pt := hp
  have rows : ∀ j, (modCommand i f (leaveQueue pt.segment i s)).row j = if j = i then
      { (s.row j).dropQueue pt.segment with place := some { pt.place with queued := false } } else s.row j := by
    intro j
    have place : (pt.modCommand f).place = { pt.place with queued := false } := by
      rw [Point.place_modCommand]
      cases hc : pt.command <;> simp [hf]
    rw [modCommand, State.modPoint_of_some _ _ _ _ hp', row_setPoint _ i hp' (by rfl) (by rfl), row_leaveQueue, place]
    by_cases e : j = i
    · simp only [if_pos e]
    · simp only [if_neg e]
  have row := rows i
  rw [if_pos rfl] at row
  have ok : ((modCommand i f (leaveQueue pt.segment i s)).row i).queueOk := by
    rw [row]
    refine ⟨(fun p hp hq => ?_), fun g => ?_⟩
    · obtain rfl := Option.some.inj hp
      cases hq
    · by_cases e : g = pt.segment
      · subst e; simp [Row.dropQueue]
      · simpa [Row.dropQueue, e] using others g e
  refine ⟨⟨fun j ne => by rw [rows j, if_neg ne], ?_, fun _ => ok⟩, ok⟩
  rw [row]
  refine Row.ext ?_ rfl rfl rfl rfl
  simp [Row.idle, (row_of_point hp).1]

theorem Row.queue_other {r : Row} (ok : r.queueOk) {p : Place} (hp : r.place = some p) {g : SegId} (ne : g ≠ p.segment) :
    r.queue g = 0 := by
  rw [ok.2 g, if_neg]
  rintro ⟨p', hp', hg, -⟩
  rw [hp] at hp'
  obtain rfl := Option.some.inj hp'
  exact ne hg.symm

theorem collected_dequeue {i : SlotNo} {s : State} {pt : Point} {f : Command → Command} (ok : s.collected)
    (hp : s.point? i = some pt) (hf : ∀ c, (f c).stand.isQueued = false) :
    (modCommand i f (leaveQueue pt.segment i s)).collected :=
  (queueMoved_dequeue hp hf fun _ ne => Row.queue_other (ok i).1.2 (row_of_point hp).1 ne).1.collected ok

theorem collected_takeDeadline {s : State} (ok : s.collected) (i : SlotNo) : (takeDeadline i s).collected := by
  unfold takeDeadline
  split
  · exact ok
  · next pt hp =>
    split
    · next stand =>
      exact ((sameRows_setStand (by rw [stand]; rfl)).trans (sameRows_closeCommand _ _ _ _)).collected ok
    · exact (sameRows_closeCommand _ _ _ _).collected (collected_dequeue ok hp fun _ => rfl)
    · exact ok

/-! ### Requests of one point -/

/-- A point's record replaced by one with another ACTIVE mark: its flight is as true as before. -/
theorem Row.flightOk_place {r r' : Row} {p p' : Place} (ok : r.flightOk) (hp : r.place = some p) (hp' : r'.place = some p')
    (segment : p'.segment = p.segment) (flight : p'.flight = p.flight) (served : r'.served = r.served) : r'.flightOk := by
  intro g
  have same := ok g
  rw [hp] at same
  rw [served, same, hp', Option.bind_some, Option.bind_some, segment, flight]

theorem collected_activatePoint {s : State} (ok : s.collected) {i : SlotNo} {pt : Point} (hp : s.point? i = some pt)
    (inactive : pt.isActive = false) : (activatePoint i pt s).collected := by
  obtain ⟨⟨entries, queue⟩, flight⟩ := ok i
  have own : (s.row i).place = some pt.place := (row_of_point hp).1
  have rows := row_setPoint s i (x := pt.activated s.clock) hp (by rfl) (by rfl)
  have row := rows i
  rw [if_pos rfl] at row
  have place : (pt.activated s.clock).place = { pt.place with active := true } := rfl
  have unqueued : pt.place.queued = false := by
    cases q : pt.place.queued with
    | false => rfl
    | true => exact absurd (queue.1 pt.place own q) (by simp [Point.place, inactive])
  have entered : (reenter i (s.setPoint i (pt.activated s.clock)).dueNow (s.setPoint i (pt.activated s.clock))).collected := by
    have again := row_reenter i (s.setPoint i (pt.activated s.clock)).dueNow (s.setPoint i (pt.activated s.clock))
    refine collected_of_own (fun j _ => ok j) (fun j ne => by rw [again j, if_neg ne, rows j, if_neg ne]) ?_
    rw [again i, if_pos rfl]
    have zero : ∀ g, ((s.setPoint i (pt.activated s.clock)).row i).entries g = 0 := fun g => by
      rw [row]
      exact Row.entries_zero entries (by simp [Row.wants, own, Point.place, inactive]) g
    refine ⟨Row.stands_reentered zero ?_, ?_⟩
    · rw [row, place]
      refine ⟨fun p hp _ => ?_, fun g => ?_⟩
      · obtain rfl := Option.some.inj hp
        rfl
      · have same := queue.2 g
        rw [own] at same
        simpa [unqueued] using same
    · exact Row.flightOk_place (p' := (pt.activated s.clock).place) flight own (by rw [Row.reentered_place, row]) rfl rfl (by rw [Row.reentered_served, row])
  unfold activatePoint
  dsimp only
  generalize hu : reenter i _ _ = u at entered ⊢
  have hpu : u.point? i = some (pt.activated s.clock) := by
    rw [← hu]
    unfold reenter
    simp only [State.setPoint_read_point, if_true]
    split
    · unfold enterSchedule
      split <;> simp
    · simp
  unfold queuePending
  split
  · next stand =>
    obtain ⟨pt', c, hp', hc, hs⟩ := State.exists_command (s := u) (i := i) (by rw [stand]; exact fun e => nomatch e)
    rw [hpu] at hp'
    obtain rfl := Option.some.inj hp'
    exact (queueMoved_enqueue hpu hc (by rw [← hs, stand]; rfl) rfl rfl fun j => row_queueTail _ i _ j).collected entered
  · exact entered

theorem collected_holdPoint {s : State} (ok : s.collected) {i : SlotNo} {pt : Point} (hp : s.point? i = some pt) :
    (holdPoint i pt s).collected := by
  obtain ⟨⟨entries, queue⟩, flight⟩ := ok i
  have own : (s.row i).place = some pt.place := (row_of_point hp).1
  have place : pt.heldNow.place = { pt.place with active := false } := rfl
  unfold holdPoint
  generalize hu : leaveSchedule pt.segment i (s.setPoint i pt.heldNow) = u
  have rows : ∀ j, u.row j = if j = i then
      { (s.row j).dropEntry pt.segment with place := some { pt.place with active := false } } else s.row j := fun j => by
    rw [← hu, row_leaveSchedule, row_setPoint s i hp (by rfl) (by rfl), place]
    by_cases e : j = i
    · simp only [if_pos e]; rfl
    · simp only [if_neg e]
  have row := rows i
  rw [if_pos rfl] at row
  have hpu : u.point? i = some pt.heldNow := by rw [← hu]; simp [leaveSchedule]
  have entriesOk : (u.row i).entriesOk := fun g => by
    have no : (u.row i).wants = false := by rw [row]; simp [Row.wants]
    rw [no, if_neg (by simp), row]
    by_cases e : g = pt.segment
    · subst e; simp [Row.dropEntry]
    · have zero := Row.entries_other entries own (g := g) (fun e' => e e'.symm)
      simpa [Row.dropEntry, e] using zero
  have flightOk : (u.row i).flightOk := Row.flightOk_place (p' := pt.heldNow.place) flight own (by rw [row]; rfl) rfl rfl (by rw [row]; rfl)
  have other : ∀ j, j ≠ i → u.row j = s.row j := fun j ne => by rw [rows j, if_neg ne]
  have standing : ∀ c, pt.command = some c → u.stand i = c.stand := fun c hc => State.stand_of_command hpu hc
  have settled : pt.place.queued = false → u.collected := fun unqueued => by
    refine collected_of_own (fun j _ => ok j) other ⟨⟨entriesOk, ?_⟩, flightOk⟩
    rw [row]
    refine ⟨fun p hp hq => ?_, fun g => ?_⟩
    · obtain rfl := Option.some.inj hp
      exact absurd hq (by simp [unqueued])
    · have same := queue.2 g
      rw [own] at same
      simpa [unqueued, Row.dropEntry] using same
  have queued_eq : pt.place.queued = (u.stand i).isQueued := by
    unfold Point.place State.stand
    rw [hpu]
    cases hc : pt.command
    · simp [Point.heldNow, hc]; rfl
    · simp [Point.heldNow, hc]
  unfold holdCommand
  split
  · have others : ∀ g, g ≠ pt.heldNow.segment → (u.row i).queue g = 0 := fun g ne => by
      rw [row]
      exact Row.queue_other queue own ne
    obtain ⟨moved, queueOk⟩ := queueMoved_dequeue (f := fun c => { c with stand := .pending ‹Issued› ‹Option Time› }) hpu
      (fun _ => rfl) others
    refine collected_of_own (fun j _ => ok j) (fun j ne => (moved.other j ne).trans (other j ne)) 
      ⟨⟨moved.entriesOk entriesOk, queueOk⟩, moved.flightOk flightOk⟩
  · next stand =>
    have ok' := settled (by rw [queued_eq, stand]; rfl)
    split
    · exact (queueMoved_notAnAttempt i u).collected ok'
    · exact ok'
  · next no _ =>
    refine settled ?_
    rw [queued_eq]
    cases hs : u.stand i with
    | queued v due => exact absurd hs (no v due)
    | _ => rfl

theorem noted_withdrawNotes (i : SlotNo) (s : State) : Noted i s (withdrawNotes i s) := by
  unfold withdrawNotes
  split
  · exact noted_closeCommand i _ _ s
  · exact noted_closeCommand i _ _ s
  · split
    · exact noted_closeCommand i _ _ s
    · exact (noted_closeCommand i _ _ s).trans (noted_closeCommand i _ _ _)
  · split
    · exact noted_closeCommand i _ _ s
    · exact (noted_closeCommand i _ _ s).trans (noted_closeCommand i _ _ _)
  · exact Noted.refl i s

theorem collected_retireNow {s : State} (ok : s.collected) (dir : s.directoryOk) {i : SlotNo} {pt : Point}
    (hp : s.point? i = some pt) (idle : pt.inFlight = none) : (retireNow i s).collected := by
  have noted := noted_withdrawNotes i s
  obtain ⟨m, hm⟩ := noted.point_self hp
  have ok' := (SameRows.of_noted noted).collected ok
  refine collected_freeSlot hm ((kept_withdrawNotes i s).directoryOk dir) (fun j => (ok' j).1) (fun j _ => (ok' j).2) fun g => ?_
  rw [(ok' i).2 g, (row_of_point hm).1]
  simp [Point.place, idle]

theorem collected_retireLater {s : State} (ok : s.collected) (p : Port) {i : SlotNo} {pt : Point}
    (hp : s.point? i = some pt) {f : Flight} (flown : pt.inFlight = some f) : (retireLater p i pt s).collected := by
  have noted := noted_withdrawNotes i s
  obtain ⟨m, hm⟩ := noted.point_self hp
  have ok' := (SameRows.of_noted noted).collected ok
  unfold retireLater
  generalize withdrawNotes i s = u at hm ok'
  obtain ⟨⟨entries, queue⟩, flight⟩ := ok' i
  have own : (u.row i).place = some pt.place := (row_of_point hm).1
  have hm' : (leaveQueue pt.segment i u).point? i = some { pt with marks := m } := hm
  let x : Point := Point.retiringNow { pt with marks := m } p
  have place : x.place = { pt.place with active := false, queued := false } := by
    cases hc : pt.command <;> simp [x, Point.retiringNow, Point.place, Point.isActive, Point.scheduledKind, hc, Command.withdrawn, Stand.isQueued]
  have rows : ∀ j, ((leaveQueue pt.segment i u).modPoint i (·.retiringNow p)).row j = if j = i then
      { (u.row j).dropQueue pt.segment with place := some { pt.place with active := false, queued := false } }
      else u.row j := by
    intro j
    rw [State.modPoint_of_some _ _ _ _ hm', row_setPoint _ i hm' (x := x) (by rfl) (by rfl), row_leaveQueue, place]
    by_cases e : j = i
    · simp only [if_pos e]
    · simp only [if_neg e]
  have row := rows i
  rw [if_pos rfl] at row
  refine collected_of_own (fun j _ => ok' j) (fun j ne => by rw [rows j, if_neg ne]) ⟨⟨fun g => ?_, ?_⟩, ?_⟩
  · have no : (((leaveQueue pt.segment i u).modPoint i (·.retiringNow p)).row i).wants = false := by
      rw [row]; simp [Row.wants]
    rw [no, if_neg (by simp), row]
    exact Row.entries_zero entries (Row.wants_of_flight own (k := f.kind) (by simp [Point.place, flown])) g
  · rw [row]
    refine ⟨(fun p hp hq => ?_), fun g => ?_⟩
    · obtain rfl := Option.some.inj hp
      cases hq
    · by_cases e : g = pt.segment
      · subst e; simp [Row.dropQueue]
      · simpa [Row.dropQueue, e] using Row.queue_other queue own e
  · exact Row.flightOk_place (p' := { pt.place with active := false, queued := false }) flight own (by rw [row]) rfl rfl
      (by rw [row]; rfl)

theorem collected_refreshPoint {s : State} (ok : s.collected) (p : Port) (i : SlotNo) (pt : Point) :
    (refreshPoint p i pt s).collected := by
  have flagged := (sameRows_modPoint s i (·.setFresh p true) fun _ => rfl).collected ok
  unfold refreshPoint
  dsimp only
  generalize s.modPoint i (·.setFresh p true) = u at flagged
  split
  · exact flagged
  · split
    · next e entry =>
      unfold refreshEntry
      have has : (u.entryOf? pt.segment i).isSome = true := by rw [entry]; rfl
      split
      · have same : SameRows u (u.modPoint i fun x => { x with rhythmDue := some e.due }) :=
          sameRows_modPoint u i _ fun _ => rfl
        have ok' := same.collected flagged
        refine (sameRows_moveToNow ?_ (ok' i).1.1).collected ok'
        rw [entryOf?_isSome, same i, ← entryOf?_isSome]
        exact has
      · split
        · exact flagged
        · exact (sameRows_moveToNow has (flagged i).1.1).collected flagged
    · exact (sameRows_answerFresh p _ i u).collected flagged

theorem sameRows_applyLimits (i : SlotNo) (a : Action) (l : Limits) (s : State) : SameRows s (applyLimits i a l s) := by
  unfold applyLimits
  split
  · exact SameRows.refl s
  · exact SameRows.refl s
  · next pt _ hp =>
    dsimp only
    split
    · exact sameRows_setPoint s i hp (by rfl)
    · exact (sameRows_setPoint s i hp (by rfl)).trans (.of_noted (noted_offerSubscribers _ i _ _))

theorem sameRows_applyDeadband (i : SlotNo) (a : Action) (d : Value) (s : State) : SameRows s (applyDeadband i a d s) := by
  unfold applyDeadband
  split
  · exact SameRows.refl s
  · exact sameRows_modPoint s i _ fun _ => rfl
  · exact sameRows_modPoint s i _ fun _ => rfl

theorem queueMoved_writeFresh {i : SlotNo} {pt : Point} {s : State} (hp : s.point? i = some pt) (output : pt.isOutput = true)
    (idle : (s.stand i).isQueued = false) (v : Issued) (d : Option Time) : QueueMoved i s (writeFresh i pt v d s).1 := by
  obtain ⟨c, hc⟩ := Option.isSome_iff_exists.mp output
  rw [State.stand_of_command hp hc] at idle
  refine .trans (.of_same (sameRows_attempts i 0 s)) ?_
  have hp' : (modCommand i (fun c => { c with attempts := 0 }) s).point? i =
      some (pt.modCommand fun c => { c with attempts := 0 }) := by simp [modCommand, hp]
  have hc' : (pt.modCommand fun c => { c with attempts := 0 }).command = some { c with attempts := 0 } := by
    simp [Point.modCommand, hc]
  unfold writeFresh
  dsimp only
  split
  · next active => exact queueMoved_enqueue hp' hc' idle rfl active fun j => row_queueTail _ i _ j
  · exact .of_same (State.commandIdle.sameRows ⟨_, _, hp', hc', idle⟩ fun _ => rfl)

theorem noted_supersedeNext (i : SlotNo) (next : Option NextValue) (s : State) : Noted i s (supersedeNext i next s) := by
  unfold supersedeNext
  split
  · exact Noted.refl i s
  · exact noted_closeCommand i _ _ s

theorem queueMoved_writePoint {i : SlotNo} {pt : Point} {s : State} (hp : s.point? i = some pt) (output : pt.isOutput = true)
    (v : Issued) (d : Option Time) : QueueMoved i s (writePoint i pt v d s).1 := by
  have replaced : ∀ old x, x.isQueued = (s.stand i).isQueued → QueueMoved i s (setStand i x
      (modCommand i (fun c => { c with attempts := 0 }) (closeCommand i old .superseded s))) := by
    intro old x h
    refine .of_same (((sameRows_closeCommand i old .superseded s).trans (sameRows_attempts i 0 _)).trans (sameRows_setStand ?_))
    rw [stand_attempts, stand_noted (noted_closeCommand i old .superseded s)]
    exact h
  have stored : ∀ next x, x.isQueued = (s.stand i).isQueued → QueueMoved i s (setStand i x (supersedeNext i next s)) := by
    intro next x h
    refine .of_same ((SameRows.of_noted (noted_supersedeNext i next s)).trans (sameRows_setStand ?_))
    rw [stand_noted (noted_supersedeNext i next s)]
    exact h
  unfold writePoint
  split
  · next stand => exact replaced _ _ (by rw [stand]; rfl)
  · next stand => exact replaced _ _ (by rw [stand]; rfl)
  · next stand => exact stored _ _ (by rw [stand]; rfl)
  · next stand => exact stored _ _ (by rw [stand]; rfl)
  all_goals next stand => exact queueMoved_writeFresh hp output (by rw [stand]; rfl) v d

theorem collected_cancelPoint {s : State} (ok : s.collected) {i : SlotNo} {pt : Point} (hp : s.point? i = some pt) :
    (cancelPoint i pt s).1.collected := by
  have replaced : ∀ v c x, x.isQueued = (s.stand i).isQueued → (setStand i x (closeCommand i v c s)).collected := by
    intro v c x h
    refine ((sameRows_closeCommand i v c s).trans (sameRows_setStand ?_)).collected ok
    rw [stand_noted (noted_closeCommand i v c s)]
    exact h
  unfold cancelPoint
  split
  · next v d stand =>
    refine ((sameRows_closeCommand i v .withdrawn s).trans (sameRows_modCommand fun pt' c hp' hc' => ?_)).collected ok
    have same := stand_noted (noted_closeCommand i v .withdrawn s) i
    rw [State.stand_of_command hp' hc', stand] at same
    rw [same]
    rfl
  · next v d stand =>
    obtain ⟨m, hm⟩ := (noted_closeCommand i v .withdrawn s).point_self hp
    exact collected_dequeue (pt := { pt with marks := m }) ((sameRows_closeCommand i v .withdrawn s).collected ok) hm
      fun _ => rfl
  · next stand => exact replaced _ _ _ (by rw [stand]; rfl)
  · next stand => exact replaced _ _ _ (by rw [stand]; rfl)
  · exact ok

theorem sameRows_carryClaimPoint {i : SlotNo} {pt : Point} {s : State} (hp : s.point? i = some pt) (p : Port) (take : Byte) :
    SameRows s (carryClaimPoint p i pt take s).1 := by
  have owned : ∀ q, SameRows s (claimPoint q i pt s).1 := fun q => sameRows_setPoint s i hp (by rfl)
  unfold carryClaimPoint
  split
  · split
    · exact SameRows.refl s
    · split
      · exact (sameRows_setPoint s i hp (by rfl)).trans (.of_noted (noted_offerPoint .console i _ _))
      · exact owned _
  · split
    · exact SameRows.refl s
    · split
      · exact owned _
      · exact SameRows.refl s

/-! ### Requests of a segment or of a port -/

theorem sameRows_setNotify (s : State) (p : Port) (x : Notify) : SameRows s (s.setNotify p x) :=
  .of_noted (Noted.withNotify 0 s _)

theorem sameRows_drain (p : Port) (s : State) : SameRows s (drain p s) := by
  have system : SameRows s (drainSystem p s) := by
    unfold drainSystem
    dsimp only
    exact .iteId (sameRows_setNotify _ _ _)
  refine system.trans (sameRows_foldl _ (fun t i => ?_) _ _)
  unfold drainSlot
  split
  · exact SameRows.refl t
  · next pt hp =>
    dsimp only
    exact .iteId ((sameRows_setNotify t p _).trans (sameRows_setPoint _ i hp (by rfl)))

theorem sameRows_acknowledge (p : Port) (rest : List Entry) (s : State) : SameRows s (acknowledge p rest s) := by
  unfold acknowledge
  exact (sameRows_setNotify s p _).trans (sameRows_drain p _)

theorem sameRows_setEnables (p : Port) (a b : Action) (s : State) :
    SameRows s (setNodeEvents p b (setNotifications p a s)) := by
  have cleared : ∀ u, SameRows u (clearPointMarks p u) := fun u j => by
    refine row_congr ?_ (nodeLost_of_directory rfl) fun g => .refl _
    simp only [clearPointMarks, State.point?, Fin.getElem_fin, Vector.getElem_map, Option.map_map]
    rfl
  refine .trans (t := setNotifications p a s) ?_ ?_
  · unfold setNotifications
    split
    · exact SameRows.refl s
    · exact sameRows_setNotify s p _
    · exact .iteId ((sameRows_setNotify s p _).trans (cleared _))
  · unfold setNodeEvents
    split
    · exact SameRows.refl _
    · exact sameRows_setNotify _ p _
    · exact sameRows_setNotify _ p _

/-- With every slot FREE, every collection empty and no transaction that names a point, all is true. -/
theorem collected_of_empty {t : State} (free : ∀ i, t.point? i = none) (schedule : ∀ g, (t.segment g).schedule = [])
    (queue : ∀ g, (t.segment g).commandQueue = []) (served : ∀ g i, (t.segment g).servedAs i = none) : t.collected := by
  intro i
  simp [Row.stands, Row.entriesOk, Row.queueOk, Row.flightOk, Row.wants, State.row, free, schedule, queue, served]

theorem collected_clearRecords (s : State) : (clearRecords s).collected := by
  have segment : ∀ g, (clearRecords s).segment g = (s.segment g).clearedNow := fun g => by cases g <;> rfl
  refine collected_of_empty (fun i => ?_) (fun g => by rw [segment]; rfl) (fun g => by rw [segment]; rfl) fun g i => ?_
  · exact (point?_isNone_iff_ident _ i).mp (clearRecords_ident s i)
  · rw [segment]
    unfold Segment.servedAs Segment.clearedNow
    cases (s.segment g).transaction with
    | none => rfl
    | some t =>
      cases hp : t.phase <;> simp [Transaction.clearedNow, hp]

theorem collected_atReset {s t : State} (h : AtReset s t) : t.collected :=
  collected_of_empty h.point (fun g => by rw [h.segment g]; rfl) (fun g => by rw [h.segment g]; rfl)
    (fun g i => by rw [h.segment g]; rfl)

theorem collected_carrySegmentControl {s : State} (ok : s.collected) (dir : s.directoryOk) (a b c : Byte) :
    (carrySegmentControl a b c s).1.collected := by
  have mechanism : ∀ (u : State) (g : SegId) (f : Segment → Segment), (∀ x, HoldsAlike x (f x)) → u.collected →
      (u.modSegment g f).collected := fun u g f hf hu => (sameRows_modSegment u g f (hf _)).collected hu
  have disabled : ∀ g, (disableSegment g s).collected := fun g =>
    (sameRows_abortScan g _).collected (mechanism _ g _ (fun _ => ⟨rfl, rfl, fun _ => rfl⟩) (collected_abandon ok dir g))
  have restarted : ∀ g, (restartSegment g s).collected := fun g =>
    mechanism _ g _ (fun _ => ⟨rfl, rfl, fun _ => rfl⟩) (collected_abandon ok dir g)
  unfold carrySegmentControl
  split
  · unfold carryEnable
    split
    · unfold enableSegment
      split <;> exact mechanism s _ _ (fun _ => ⟨rfl, rfl, fun _ => rfl⟩) ok
    all_goals exact ok
  · unfold carryDisable
    split
    · exact ok
    all_goals exact disabled _
  · unfold carryRestart
    split
    · exact ok
    · exact restarted _
    · exact ok
    · exact restarted _
  · split
    · unfold carrySetSpeed
      split
      · exact mechanism s _ _ (fun _ => ⟨rfl, rfl, fun _ => rfl⟩) ok
      all_goals exact ok
    · exact ok
  · exact ok

theorem collected_definePoint {s : State} (ok : s.collected) (dir : s.directoryOk) (p : Port) {d : Definition} {i : SlotNo}
    (hr : defineResources d s = .ok i) : (definePoint p d i s).collected := by
  have rows := definePoint_row p hr dir
  have free : s.point? i = none := lowestFree_free (defineResources_ok hr).1
  have none : (s.row i).place = Option.none := by simp [State.row, free]
  obtain ⟨⟨entries, queue⟩, flight⟩ := ok i
  have zero : ∀ g, (s.row i).entries g = 0 := Row.entries_zero entries (by simp [Row.wants, none])
  have empty : ∀ g, (s.row i).queue g = 0 := fun g => by rw [queue.2 g]; simp [none]
  have idle : ∀ g, (s.row i).served g = Option.none := fun g => by rw [flight g, none]; rfl
  have held : (Point.new p d).place.active = false := rfl
  have unflown : (Point.new p d).place.flight = Option.none := rfl
  have unqueued : (Point.new p d).place.queued = false := by
    simp only [Point.place, Point.new]
    split <;> rfl
  refine collected_of_own (fun j _ => ok j) (fun j ne => by rw [rows j, if_neg ne]) ?_
  rw [rows i, if_pos rfl]
  simp [Row.stands, Row.entriesOk, Row.queueOk, Row.flightOk, Row.wants, zero, empty, idle, held, unflown, unqueued]

theorem collected_withPoint {h : RawHandle} {s : State} {k : SlotNo → Point → Carry} (ok : s.collected)
    (hk : ∀ i pt, s.point? i = some pt → (k i pt).1.collected) : (withPoint h s k).1.collected :=
  withPoint_cases (P := fun c => c.1.collected) (fun _ => ok) hk

theorem collected_carryOut {s : State} (ok : s.collected) (dir : s.directoryOk) (p : Port) (r : Request) :
    (carryOut p r s).1.collected := by
  have choose : ∀ {c : Prop} [Decidable c] {x y : Carry}, (c → x.1.collected) → (¬ c → y.1.collected) →
      (if c then x else y).1.collected := by
    intro c _ x y hx hy
    split
    · exact hx ‹_›
    · exact hy ‹_›
  have refused : ∀ {c : Prop}, c → s.collected := fun _ => ok
  cases r with
  | define f =>
    simp only [carryOut, carryDefine]
    split
    · exact ok
    · split
      · exact ok
      · next hr => exact collected_definePoint ok dir p hr
  | activate h =>
    refine collected_withPoint ok fun i pt hp => choose refused fun _ => choose refused fun _ => choose refused fun no => ?_
    exact collected_activatePoint ok hp (Bool.eq_false_iff.mpr no)
  | hold h =>
    refine collected_withPoint ok fun i pt hp => choose refused fun _ => choose refused fun _ => choose (fun _ => ?_) refused
    exact collected_holdPoint ok hp
  | retire h =>
    refine collected_withPoint ok fun i pt hp => choose refused fun _ => choose refused fun _ =>
      choose (fun idle => ?_) fun flown => ?_
    · exact collected_retireNow ok dir hp (Option.isNone_iff_eq_none.mp idle)
    · obtain ⟨f, hf⟩ := Option.ne_none_iff_exists'.mp fun e => flown (Option.isNone_iff_eq_none.mpr e)
      exact collected_retireLater ok p hp hf
  | describe h => exact collected_withPoint ok fun _ _ _ => ok
  | read h => exact collected_withPoint ok fun _ _ _ => ok
  | readMany count handles => exact choose refused fun _ => choose refused refused
  | refresh h =>
    exact collected_withPoint ok fun i pt _ => choose refused fun _ => choose refused fun _ =>
      collected_refreshPoint ok p i pt
  | setLimits h f =>
    refine collected_withPoint ok fun i pt _ => choose refused fun _ => choose refused fun _ => choose refused fun _ => ?_
    split
    · exact ok
    · exact ((sameRows_applyLimits i _ _ s).trans (sameRows_applyDeadband i _ _ _)).collected ok
  | write h v d =>
    refine collected_withPoint ok fun i pt hp => choose refused fun output => choose refused fun _ => choose refused fun _ =>
      choose refused fun _ => ?_
    exact (queueMoved_writePoint hp (by simpa using output) _ _).collected ok
  | cancel h =>
    exact collected_withPoint ok fun i pt hp => choose refused fun _ => choose refused fun _ => choose refused fun _ =>
      collected_cancelPoint ok hp
  | nodeQuery a b =>
    simp only [carryOut, carryNodeQuery]
    split
    · split <;> exact ok
    · exact ok
  | nodeList a b =>
    simp only [carryOut, carryNodeList]
    split <;> exact ok
  | segmentControl a b c => exact collected_carrySegmentControl ok dir a b c
  | scan a b c =>
    simp only [carryOut, carryScan]
    split
    · refine choose refused fun _ => choose refused fun _ => choose refused fun _ => ?_
      exact (sameRows_modScan s _ _).collected ok
    · exact ok
  | scanResult a b =>
    simp only [carryOut, carryScanResult]
    split
    · exact ok
    · exact choose refused refused
  | subscribe h b =>
    refine collected_withPoint ok fun i pt hp => choose refused fun _ => ?_
    split
    · exact ok
    · exact (sameRows_setPoint s i hp (by rfl)).collected ok
  | fetch b => exact choose refused refused
  | ack q =>
    simp only [carryOut, carryAck]
    split
    · exact ok
    · next rest _ =>
      dsimp only [answer]
      exact (sameRows_acknowledge p rest s).collected ok
  | claim h b =>
    exact collected_withPoint ok fun i pt hp => choose refused fun _ => (sameRows_carryClaimPoint hp p b).collected ok
  | release h =>
    refine collected_withPoint ok fun i pt hp => choose refused fun _ => choose (fun _ => ?_) refused
    exact (sameRows_setPoint s i hp (by rfl)).collected ok
  | status => exact ok
  | time => exact ok
  | clear =>
    cases p with
    | host => exact collected_clearRecords s
    | console => exact ok
  | portSet a b =>
    simp only [carryOut, carryPortSet]
    split
    · exact (sameRows_setEnables p _ _ s).collected ok
    · exact ok

/-! ### Every step -/

theorem map_slot_map {f : SchedEntry → SchedEntry} (hf : ∀ e, (f e).slot = e.slot) (l : List SchedEntry) :
    (l.map f).map (·.slot) = l.map (·.slot) := by
  rw [List.map_map]
  exact List.map_congr_left fun e _ => hf e

theorem map_slot_markEntry (i : SlotNo) (l : List SchedEntry) : (markEntry i l).map (·.slot) = l.map (·.slot) :=
  map_slot_map (fun e => by split <;> rfl) l

theorem map_slot_capEntry (i : SlotNo) (l : List SchedEntry) : (capEntry i l).map (·.slot) = l.map (·.slot) :=
  map_slot_map (fun e => by split <;> rfl) l

theorem sameRows_takeDueCap (i : SlotNo) (which : CapHolder) (s : State) : SameRows s (takeDueCap i which s) := by
  unfold takeDueCap
  split
  · split
    · exact SameRows.refl s
    · exact sameRows_modSegment s _ _ ⟨map_slot_capEntry i _, rfl, fun _ => rfl⟩
  · refine sameRows_modPoint s i _ fun pt => ?_
    simp [Point.place, Point.capStart, Point.isActive, Point.scheduledKind, Option.map_map, Function.comp_def]
  · exact sameRows_modPoint s i _ fun _ => rfl

theorem isQueued_markExpired (x : Stand) : x.markExpired.isQueued = x.isQueued := by
  cases x with
  | writing v next => cases next <;> rfl
  | verifying v next => cases next <;> rfl
  | _ => rfl

theorem sameRows_attemptFailed (g : SegId) (c : RecoveryCause) (s : State) : SameRows s (attemptFailed g c s) := by
  unfold attemptFailed
  dsimp only
  split
  · exact sameRows_modSegment s g _ ⟨rfl, rfl, fun _ => rfl⟩
  · exact ((sameRows_modSegment s g _ ⟨rfl, rfl, fun _ => rfl⟩).trans
      (.of_noted (noted_offerNodeEvents 0 _ _))).trans (sameRows_abortScan g _)

theorem collected_move {s t : State} (m : RosterMove s t) (ok : s.collected) (dir : s.directoryOk) : t.collected := by
  cases m with
  | request p r => exact collected_carryOut ok dir p r
  | chosen g => exact collected_chooseWork ok g
  | started g =>
    refine (sameRows_modSegment s g _ ⟨rfl, rfl, fun i => ?_⟩).collected ok
    cases ht : (s.segment g).transaction <;> simp [Segment.servedAs, ht]
  | driven g resume levels => exact collected_driveOn ok dir g resume levels
  | ended g outcome => exact collected_endWith ok dir g outcome
  | recovered g cause h =>
    exact ((sameRows_modSegment s g _ ⟨rfl, rfl, fun _ => rfl⟩).trans (.of_noted (noted_offerNodeEvents 0 _ _))).collected ok
  | attemptFailed g cause h => exact (sameRows_attemptFailed g cause s).collected ok
  | retried g => exact (sameRows_modSegment s g _ ⟨rfl, rfl, fun _ => rfl⟩).collected ok
  | unsuppressed g => exact (sameRows_modSegment s g _ ⟨rfl, rfl, fun _ => rfl⟩).collected ok
  | pollMarked g i => exact (sameRows_modSegment s g _ ⟨map_slot_markEntry i _, rfl, fun _ => rfl⟩).collected ok
  | stale i => exact (sameRows_takeStale i s).collected ok
  | ageCap i => exact (sameRows_modPoint s i Point.capAge fun _ => rfl).collected ok
  | dueCap i which => exact (sameRows_takeDueCap i which s).collected ok
  | deadline i => exact collected_takeDeadline ok i
  | nextDeadline i => exact (sameRows_setStand (isQueued_markExpired _)).collected ok
  | probeMarked g x => exact (sameRows_modNode s g x _ (by intros; rfl) (by intros; rfl)).collected ok

/-- Settles O59. -/
theorem stepsKeepTheCollectionsAndTheTransactionsInFlight :
    Obligations.StepsKeepTheCollectionsAndTheTransactionsInFlight := by
  unfold Obligations.StepsKeepTheCollectionsAndTheTransactionsInFlight
  intro s t dir schedules queues flights h
  have ok : s.collected := (collected_iff s).mpr ⟨schedules, queues, flights⟩
  refine (collected_iff t).mp ?_
  rcases moved_step h with (same | ⟨u, v, su, m, vt⟩) | ⟨u, atReset⟩
  · exact same.sameRows.collected ok
  · have ident : ∀ i, u.ident i = s.ident i := fun i => by
      unfold State.ident State.point?
      rw [su.slots]
    have dir' : u.directoryOk := directoryOk_congr ident (by rw [su.directory]) dir
    exact vt.sameRows.collected (collected_move m (su.sameRows.collected ok) dir')
  · exact collected_atReset atReset

end Sys2Proof.Machine

/-! The step's own order (R30, R32, R133, R161), the response (R162, R166, R178, R187) and the arrival of a request command (R161,
R177, R180). -/
namespace Sys2Proof.Machine

set_option Elab.async false

/-- Settles O1. -/
theorem stepRunsTheCommandAtTheFront : Obligations.StepRunsTheCommandAtTheFront := by
  unfold Obligations.StepRunsTheCommandAtTheFront
  intro c rest s h
  simp [step, h]

/-! ### What the part does of itself -/

theorem step_empty {s : State} (h : s.pending = []) : step s = idleStep s := by simp [step, h]

theorem offers_iff (s : State) (p : Port) :
    s.offers p = true ↔ (s.portOf p).request ≠ none ∧ (s.portOf p).response = none := by
  simp [State.offers, Option.isSome_iff_ne_none]

theorem unitChoice_isSome_iff (s : State) : s.unitChoice.isSome = true ↔ ∃ p, s.offers p = true := by
  have ports : (∃ p, s.offers p = true) ↔ s.offers .host = true ∨ s.offers .console = true := by
    constructor
    · rintro ⟨_ | _, h⟩
      · exact .inl h
      · exact .inr h
    · rintro (h | h)
      · exact ⟨_, h⟩
      · exact ⟨_, h⟩
  rw [ports]
  unfold State.unitChoice
  cases s.offers .host <;> cases s.offers .console <;> simp

/-- An idle engine of segment `g` has work whose claim is granted (R133). -/
def State.hasChoice (s : State) (g : SegId) : Bool := (s.segment g).idle && (s.granted g).isSome

theorem hasChoice_iff (s : State) (g : SegId) :
    s.hasChoice g = true ↔ (s.segment g).state = .up ∧ (s.segment g).transaction = none ∧ s.granted g ≠ none := by
  rw [State.hasChoice, Bool.and_eq_true, Segment.idle_iff, Option.isSome_iff_ne_none, and_assoc]

theorem setLines_self (s : State) (g : SegId) : s.setLines g (s.segment g).lines = s := by
  unfold State.setLines State.modSegment
  exact setSegment_self s g

theorem chooseWork_of_no_choice {s : State} {g : SegId} (h : s.hasChoice g = false) : chooseWork g s = s := by
  unfold chooseWork
  split
  · next idle =>
    have none : s.granted g = Option.none := by
      rw [State.hasChoice, idle, Bool.true_and] at h
      exact Option.isSome_eq_false_iff.mp h |> Option.isNone_iff_eq_none.mp
    rw [none]
  · rfl

/-- With no expiry due on a segment none of its expiries has an effect (R32). -/
theorem segmentExpiries_idle {s : State} {g : SegId} (h : (s.segment g).dueExpiry g s.clock = none) :
    exec (.lineCheckExpiry g) s = .next s ∧ exec (.holdAllowanceExpiry g) s = .next s ∧
      exec (.transactionLimitExpiry g) s = .next s ∧ exec (.recoveryRetryExpiry g) s = .next s ∧
      exec (.alertSuppressionExpiry g) s = .next s ∧ exec (.pollDueExpiry g) s = .next s := by
  unfold Segment.dueExpiry at h
  split at h
  · cases h
  · next check =>
    split at h
    · cases h
    · next hold =>
      split at h
      · cases h
      · next limit =>
        split at h
        · cases h
        · next retry =>
          split at h
          · cases h
          · next suppression =>
            have poll : (s.segment g).pollDue s.clock = none := by
              cases e : (s.segment g).pollDue s.clock with
              | none => rfl
              | some e' => rw [e] at h; cases h
            simp [exec, execLineCheckExpiry, execHoldAllowanceExpiry, execTransactionLimitExpiry, execRecoveryRetryExpiry,
              execAlertSuppressionExpiry, execPollDueExpiry, check, hold, limit, retry, suppression, poll]

/-- With no expiry due on a slot none of its expiries has an effect (R32). -/
theorem slotExpiries_idle {s : State} {i : SlotNo} (h : s.slotExpiry i = none) :
    exec (.deadlineExpiry i) s = .next s ∧ exec (.nextValueDeadlineExpiry i) s = .next s ∧
      exec (.staleExpiry i) s = .next s ∧ exec (.ageCapExpiry i) s = .next s ∧
      ∀ w, exec (.dueCapExpiry i w) s = .next s := by
  have each : s.deadlineReached i = false ∧ s.nextDeadlineReached i = false ∧ s.staleReached i = false ∧
      s.ageCapReached i = false ∧ ∀ w, s.dueCapReached i w = false := by
    unfold State.slotExpiry at h
    refine ⟨?_, ?_, ?_, ?_, fun w => ?_⟩
    case refine_5 => cases w <;> grind
    all_goals grind
  obtain ⟨deadline, next, stale, age, due⟩ := each
  simp [exec, execDeadlineExpiry, execNextValueDeadlineExpiry, execStaleExpiry, execAgeCapExpiry, execDueCapExpiry,
    deadline, next, stale, age, due]

theorem probeExpiry_idle {s : State} (h : s.directory.findSome? (·.dueExpiry s.clock) = none) (g : SegId) (x : Address) :
    exec (.probeExpiry g x) s = .next s := by
  have none : (s.nodeEntry? g x).any (·.probeReached s.clock) = false := by
    cases found : s.nodeEntry? g x with
    | none => rfl
    | some e =>
      have idle := List.findSome?_eq_none_iff.mp h e (List.mem_of_find?_eq_some found)
      simpa [NodeEntry.dueExpiry] using idle
  simp [exec, execProbeExpiry, none]

theorem gapExpiry_idle {s : State} (h : s.gapExpiry = none) : exec .consoleGapExpiry s = .next s := by
  have none : s.gapReached = false := by simpa [State.gapExpiry] using h
  simp [exec, execConsoleGapExpiry, none]

theorem nextExpiry_eq_none {s : State} (h : s.nextExpiry = none) :
    s.gapExpiry = none ∧ (∀ g, (s.segment g).dueExpiry g s.clock = none) ∧
      s.directory.findSome? (·.dueExpiry s.clock) = none ∧ ∀ i, s.slotExpiry i = none := by
  simp only [State.nextExpiry, Option.or_eq_none_iff] at h
  obtain ⟨gap, a, b, nodes, slots⟩ := h
  refine ⟨gap, ?_, nodes, fun i => List.findSome?_eq_none_iff.mp slots i (mem_allSlots i)⟩
  rintro (_ | _)
  · exact a
  · exact b

/-- Settles O2: the step on an empty queue takes the first of `State.nextEvent`'s alternatives, each of which has no effect when
it is not due. -/
theorem clockAdvancesOnlyWhenNothingIsDue : Obligations.ClockAdvancesOnlyWhenNothingIsDue := by
  unfold Obligations.ClockAdvancesOnlyWhenNothingIsDue
  rintro s empty chooses rfl offered rfl take rfl
  have offers : (∃ p, (s.portOf p).request ≠ none ∧ (s.portOf p).response = none) ↔ s.unitChoice.isSome = true := by
    rw [unitChoice_isSome_iff]
    exact exists_congr fun p => (offers_iff s p).symm
  rw [step_empty empty]
  simp only [offers, ← hasChoice_iff, Bool.not_eq_true]
  have request : s.dueRequest =
      if s.unitChoice.isSome then some (.requestTaken ⟨(s.segment .a).lines, (s.segment .b).lines⟩ []) else none := rfl
  have choice : ∀ g, s.dueChoice g = if s.hasChoice g then some (.arbiterChoose g (s.segment g).lines) else none :=
    fun _ => rfl
  unfold idleStep State.nextEvent
  refine ⟨fun yes => by simp [request, yes], fun no yes => by simp [request, choice, no, yes],
    fun no nota yes => by simp [request, choice, no, nota, yes], fun no nota notb => ⟨fun c hc => ?_, fun none => ?_⟩⟩
  · simp [request, choice, no, nota, notb, hc]
  · obtain ⟨gap, segments, nodes, slots⟩ := nextExpiry_eq_none none
    have idle : ∀ g, s.hasChoice g = false := by
      rintro (_ | _)
      · exact nota
      · exact notb
    refine ⟨by simp [request, choice, no, nota, notb, none]; rfl, ?_, gapExpiry_idle gap, fun g => ?_, fun i => slotExpiries_idle (slots i)⟩
    · have unit : s.unitChoice = Option.none := Option.isNone_iff_eq_none.mp (Option.isSome_eq_false_iff.mp no)
      simp [exec, execRequestTaken, unit]
    · obtain ⟨check, hold, limit, retry, suppression, poll⟩ := segmentExpiries_idle (segments g)
      refine ⟨?_, check, hold, limit, retry, suppression, poll, probeExpiry_idle nodes g⟩
      simp [exec, execArbiterChoose, setLines_self, chooseWork_of_no_choice (idle g)]

/-! ### Responses and arrivals -/

/-- Settles O5. -/
theorem responseFillsTheSlotOfItsPort : Obligations.ResponseFillsTheSlotOfItsPort := by
  unfold Obligations.ResponseFillsTheSlotOfItsPort
  refine ⟨fun p tag r t => ⟨?_, ?_, ?_⟩, ?_⟩
  · have queue : (!(t.notifyOf p).queue.isEmpty) = decide ((t.notifyOf p).queue ≠ []) := by
      cases (t.notifyOf p).queue <;> rfl
    simp [responded, placeResponse, queue]
  · cases p <;> rfl
  · rfl
  · rintro f covered rfl
    have flags : f.flags = (if f.droppedFlag then 0x01 else 0x00) ||| (if f.queueFlag then 0x02 else 0x00) := by
      unfold ResponseFrame.flags
      cases f.droppedFlag <;> cases f.queueFlag <;> rfl
    rw [← flags]
    rfl

theorem slotsBusy_iff (s : State) (p : Port) :
    s.slotsBusy p = true ↔ (s.portOf p).request ≠ none ∨ (s.portOf p).response ≠ none := by
  cases h : (s.portOf p).request <;> cases k : (s.portOf p).response <;> simp [State.slotsBusy, h, k]

theorem goesFirst_eq_false (s : State) (p : Port) : s.goesFirst p = false ↔
    s.lastServed = p ∧ (s.portOf p.other).request ≠ none ∧ (s.portOf p.other).response = none := by
  rw [← offers_iff]
  simp [State.goesFirst, and_comm]

theorem submit_inReset (p : Port) (tag : Byte) (r : Request) (look : State → State) {s : State} (h : s.inReset = true) :
    submit p tag r look s = s := by simp [submit, h]

theorem submit_dropped (p : Port) (tag : Byte) (r : Request) (look : State → State) {s : State} (on : s.inReset = false)
    (h : s.slotsBusy p = true ∨ bodyLimit < r.body.length) : submit p tag r look s = s.setDropped p := by
  have drop : (decide (bodyLimit < r.body.length) || s.slotsBusy p) = true := by
    obtain h | h := h <;> simp [h]
  simp [submit, on, drop]

theorem submit_stored (p : Port) (tag : Byte) (r : Request) (look : State → State) {s : State} (on : s.inReset = false)
    (free : s.slotsBusy p = false) (fits : r.body.length ≤ bodyLimit) (turn : s.goesFirst p = false) :
    submit p tag r look s = s.storeRequest p (frameOf tag r) := by
  simp [submit, on, free, turn, Nat.not_lt.mpr fits]

/-- Every request command submits its request; an ENABLE looks at the lines first, every other at nothing. -/
theorem exec_submits {c : Instr} {p : Port} {tag : Byte} {r : Request} (h : asRequest c = some (p, tag, r)) :
    ∃ look, ∀ s, exec c s = .next (submit p tag r look s) := by
  cases c with
  | enable q u b x y => cases h; exact ⟨lookAt b x y, exec_enable p tag b x y⟩
  | _ => exact ⟨id, exec_request h (fun _ _ _ _ _ e => by cases e)⟩

theorem lookAt_cases (b : Byte) (x y : Bool) (s : State) :
    lookAt b x y s = s ∨ ∃ g, lookAt b x y s = s.setLines g { (s.segment g).lines with fc := x, fd := y } := by
  unfold lookAt
  split
  · exact .inl rfl
  · next g _ => exact .inr ⟨g, rfl⟩

/-- Settles O6: the four outcomes of `submit`. -/
theorem requestCommandIsDroppedOrWaitsOrIsAnswered : Obligations.RequestCommandIsDroppedOrWaitsOrIsAnswered := by
  unfold Obligations.RequestCommandIsDroppedOrWaitsOrIsAnswered
  refine ⟨fun p f s => ⟨slotsBusy_iff s p, goesFirst_eq_false s p, rfl, rfl, rfl⟩, fun c p tag r s h => ?_⟩
  obtain ⟨look, hlook⟩ := exec_submits h
  refine ⟨fun reset => ?_, fun on drop => ?_, fun on free fits turn => ?_, fun ready fits other => ?_,
    fun q u b x y e ready => ?_⟩
  · rw [hlook, submit_inReset _ _ _ _ reset]
  · rw [hlook, submit_dropped _ _ _ _ on drop]
  · rw [hlook, submit_stored _ _ _ _ on free fits turn]
  · exact exec_of_ready h ready fits other rfl
  · subst e
    cases h
    refine ⟨lookAt b x y s, lookAt_cases b x y s, ?_⟩
    rw [exec_enable, submit_of_ready tag _ ready (Nat.le_of_ble_eq_true rfl)]

end Sys2Proof.Machine

/-! Requests as frames (R163, R187 to R189): what each kind's body decodes to, the lengths of TABLE 11-3, the CRC-16 register, and
refusals. -/
namespace Sys2Proof.Machine

set_option Elab.async false

/-! ### Fields of several bytes -/

theorem be16_bytes16 (w : BitVec 16) : be16 (w.extractLsb' 8 8) (w.extractLsb' 0 8) = w :=
  (BitVec.extractLsb'_append_extractLsb'_eq_extractLsb' (start₁ := 0) (len₁ := 8) rfl).trans BitVec.extractLsb'_eq_self

theorem be32_bytes32 (w : BitVec 32) :
    be32 (w.extractLsb' 24 8) (w.extractLsb' 16 8) (w.extractLsb' 8 8) (w.extractLsb' 0 8) = w := by
  have upper : w.extractLsb' 24 8 ++ w.extractLsb' 16 8 = w.extractLsb' 16 16 :=
    BitVec.extractLsb'_append_extractLsb'_eq_extractLsb' rfl
  have rest : w.extractLsb' 16 16 ++ w.extractLsb' 8 8 = w.extractLsb' 8 24 :=
    BitVec.extractLsb'_append_extractLsb'_eq_extractLsb' rfl
  rw [be32, upper, rest]
  exact (BitVec.extractLsb'_append_extractLsb'_eq_extractLsb' (start₁ := 0) (len₁ := 8) rfl).trans BitVec.extractLsb'_eq_self

theorem handlesOf_bytes (l : List RawHandle) : handlesOf (l.flatMap RawHandle.bytes) = l := by
  induction l with
  | nil => rfl
  | cons h rest ih =>
    change _ :: handlesOf (rest.flatMap RawHandle.bytes) = _
    rw [ih]

theorem length_handleBytes (l : List RawHandle) : (l.flatMap RawHandle.bytes).length = 2 * l.length := by
  induction l with
  | nil => rfl
  | cons h rest ih =>
    rw [List.flatMap_cons, List.length_append, ih, List.length_cons]
    change 2 + _ = _
    omega

/-! ### Decoding what is encoded (TABLE 11-5) -/

theorem decodeRequest_readMany (count : Byte) (body : List Byte) (h : body.length = 2 * count.toNat) :
    decodeRequest 0x07 (count :: body) = .request (.readMany count (handlesOf body)) := by
  change decodeReadMany (count :: body) = _
  exact if_pos h

theorem decodeRequest_encoded (r : Request) (h : r.wellFormed = true) : decodeRequest r.kindCode r.body = .request r := by
  cases r with
  | define f =>
    change Decoded.request (.define ⟨_, _, _, _, _, _, be16 _ _, be16 _ _, _⟩) = _
    rw [be16_bytes16, be16_bytes16]
  | readMany count handles =>
    have counted : count.toNat = handles.length := by
      simp only [Request.wellFormed, Bool.and_eq_true, beq_iff_eq] at h
      exact h.1
    refine (decodeRequest_readMany count _ ?_).trans ?_
    · rw [length_handleBytes, counted]
    · rw [handlesOf_bytes]
  | setLimits k f =>
    change Decoded.request (.setLimits _ ⟨_, be32 _ _ _ _, be32 _ _ _ _, be32 _ _ _ _, _, be32 _ _ _ _⟩) = _
    rw [be32_bytes32, be32_bytes32, be32_bytes32, be32_bytes32]
  | write k v d =>
    change Decoded.request (.write _ (be32 _ _ _ _) (be16 _ _)) = _
    rw [be32_bytes32, be16_bytes16]
  | ack seq =>
    change Decoded.request (.ack (be16 _ _)) = _
    rw [be16_bytes16]
  | _ => rfl

theorem body_fits (r : Request) (h : r.wellFormed = true) : r.body.length ≤ bodyLimit := by
  cases r with
  | readMany count handles =>
    have few : handles.length ≤ 47 := by
      simp only [Request.wellFormed, Bool.and_eq_true, decide_eq_true_eq] at h
      exact h.2
    change (handles.flatMap RawHandle.bytes).length + 1 ≤ 96
    rw [length_handleBytes]
    omega
  | _ => exact Nat.le_of_ble_eq_true rfl

theorem requiredLength_encoded (r : Request) (h : r.wellFormed = true) :
    requiredLength r.kindCode r.body = some r.body.length := by
  cases r with
  | readMany count handles =>
    have counted : count.toNat = handles.length := by
      simp only [Request.wellFormed, Bool.and_eq_true, beq_iff_eq] at h
      exact h.1
    change some (1 + 2 * count.toNat) = some ((handles.flatMap RawHandle.bytes).length + 1)
    rw [length_handleBytes, counted, Nat.add_comm]
  | _ => rfl

/-- Settles O8. -/
theorem encodedRequestDecodesToItself : Obligations.EncodedRequestDecodesToItself := by
  unfold Obligations.EncodedRequestDecodesToItself
  refine ⟨?_, fun r h => ⟨decodeRequest_encoded r h, body_fits r h, requiredLength_encoded r h⟩⟩
  rintro h f l v d seq x y z handles coded rfl two rfl four rfl handle rfl
  refine ⟨⟨rfl, rfl⟩, ⟨rfl, rfl⟩, ⟨rfl, rfl⟩, ⟨rfl, rfl⟩, ⟨rfl, rfl⟩, ⟨rfl, rfl⟩, ⟨rfl, rfl⟩, ⟨rfl, rfl⟩, ⟨rfl, rfl⟩,
    ⟨rfl, rfl⟩, ⟨rfl, rfl⟩, ⟨rfl, rfl⟩, ⟨rfl, rfl⟩, ⟨rfl, rfl⟩, ⟨rfl, rfl⟩, ⟨rfl, rfl⟩, ⟨rfl, rfl⟩, ⟨rfl, rfl⟩,
    ⟨rfl, rfl⟩, ⟨rfl, rfl⟩, ⟨rfl, rfl⟩, ⟨rfl, rfl⟩, ⟨rfl, rfl⟩, ⟨rfl, rfl⟩, ⟨rfl, rfl⟩,
    fun _ => rfl, fun _ => rfl, ?_⟩
  rintro r covered rfl
  exact ⟨rfl, rfl⟩

/-! ### Kinds and lengths (TABLE 11-3) -/

theorem requiredLength_unknown {kind : Byte} (body : List Byte) (h : kind = 0 ∨ 25 < kind.toNat) :
    requiredLength kind body = none := by
  have outside : kind.toNat = 0 ∨ 25 < kind.toNat := h.imp (fun e => by rw [e]; rfl) id
  unfold requiredLength
  split
  case h_26 => rfl
  all_goals omega

theorem decodeRequest_unknownKind {kind : Byte} (body : List Byte) (h : kind = 0 ∨ 25 < kind.toNat) :
    decodeRequest kind body = .unknownKind := by
  have outside : kind.toNat = 0 ∨ 25 < kind.toNat := h.imp (fun e => by rw [e]; rfl) id
  unfold decodeRequest
  split
  case h_26 => rfl
  all_goals omega

section BadLength
variable {body : List Byte}

theorem decodeHandle_badLength (k : RawHandle → Request) (h : body.length ≠ 2) : decodeHandle k body = .badLength := by
  unfold decodeHandle
  split
  · exact absurd rfl h
  · rfl

theorem decodePair_badLength (k : Byte → Byte → Request) (h : body.length ≠ 2) : decodePair k body = .badLength := by
  unfold decodePair
  split
  · exact absurd rfl h
  · rfl

theorem decodeTriple_badLength (k : Byte → Byte → Byte → Request) (h : body.length ≠ 3) :
    decodeTriple k body = .badLength := by
  unfold decodeTriple
  split
  · exact absurd rfl h
  · rfl

theorem decodeEmpty_badLength (r : Request) (h : body.length ≠ 0) : decodeEmpty r body = .badLength := by
  unfold decodeEmpty
  split
  · exact absurd rfl h
  · rfl

theorem decodeDefine_badLength (h : body.length ≠ 11) : decodeDefine body = .badLength := by
  unfold decodeDefine
  split
  · exact absurd rfl h
  · rfl

theorem decodeSetLimits_badLength (h : body.length ≠ 20) : decodeSetLimits body = .badLength := by
  unfold decodeSetLimits
  split
  · exact absurd rfl h
  · rfl

theorem decodeWrite_badLength (h : body.length ≠ 8) : decodeWrite body = .badLength := by
  unfold decodeWrite
  split
  · exact absurd rfl h
  · rfl

theorem decodeFetch_badLength (h : body.length ≠ 1) :
    (match body with
      | [count] => Decoded.request (.fetch count)
      | _ => .badLength) = .badLength := by
  split
  · exact absurd rfl h
  · rfl

theorem decodeReadMany_badLength (h : body.length ≠ 1 + 2 * body.head?.elim 0 BitVec.toNat) :
    decodeReadMany body = .badLength := by
  unfold decodeReadMany
  split
  · rfl
  · next count rest =>
    refine if_neg fun e => h ?_
    rw [List.length_cons, e]
    exact Nat.add_comm _ _

end BadLength

theorem decodeRequest_badLength {kind : Byte} {body : List Byte} {n : Nat} (h : requiredLength kind body = some n)
    (length : body.length ≠ n) : decodeRequest kind body = .badLength := by
  unfold requiredLength at h
  unfold decodeRequest
  generalize kind.toNat = code at h ⊢
  split at h <;> cases h
  case h_1 => exact decodeDefine_badLength length
  case h_2 => exact decodeReadMany_badLength length
  case h_3 => exact decodeSetLimits_badLength length
  case h_4 => exact decodeWrite_badLength length
  case h_5 => exact decodeFetch_badLength length
  case h_6 | h_7 | h_8 | h_9 => exact decodeTriple_badLength _ length
  case h_17 | h_18 | h_19 | h_20 | h_22 => exact decodePair_badLength _ length
  case h_23 | h_24 | h_25 => exact decodeEmpty_badLength _ length
  all_goals exact decodeHandle_badLength _ length

/-! ### The register of R187 -/

/-- One step of the register, its top bit read by number. -/
theorem crc16Step_eq (r : BitVec 16) :
    crc16Step r = if r.getLsbD 15 then (r <<< 1) ^^^ 0x1021 else r <<< 1 := by
  rw [crc16Step, BitVec.msb_eq_getLsbD_last]

theorem zeroExtend_shift (b : Byte) : b.zeroExtend 16 <<< 8 = (b ++ 0#8 : BitVec 16) := by
  apply BitVec.eq_of_toNat_eq
  have := b.isLt
  rw [BitVec.toNat_append, BitVec.toNat_shiftLeft]
  simp [Nat.shiftLeft_eq]
  omega

theorem crc16_append (l : List Byte) (b : Byte) : crc16 (l ++ [b]) =
    Nat.repeat (fun r : BitVec 16 => if r.getLsbD 15 then (r <<< 1) ^^^ 0x1021 else r <<< 1) 8 (crc16 l ^^^ (b ++ 0#8)) := by
  rw [← funext crc16Step_eq, ← zeroExtend_shift, crc16, List.foldl_append]
  rfl

/-! ### Refusals change nothing (R165) -/

/-- A request is answered OK or ACCEPTED, or refused with nothing changed. -/
def Settled (s : State) (c : Carry) : Prop := c.2.status = .ok ∨ c.2.status = .accepted ∨ c.1 = s ∧ c.2.body = []

theorem settled_refuse (x : Status) (s : State) : Settled s (refuse x s) := .inr (.inr ⟨rfl, rfl⟩)

theorem settled_answer (body : List Byte) (s t : State) : Settled s (answer body t) := .inl rfl

theorem settled_accepted (body : List Byte) (s t : State) : Settled s (answerAccepted body t) := .inr (.inl rfl)

theorem settled_withPoint (h : RawHandle) {s : State} {k : SlotNo → Point → Carry} (hk : ∀ i pt, Settled s (k i pt)) :
    Settled s (withPoint h s k) := by
  unfold withPoint
  split
  · exact settled_refuse _ s
  · exact hk _ _

theorem settled_ite {c : Prop} [Decidable c] {s : State} {x y : Carry} (hx : Settled s x) (hy : Settled s y) :
    Settled s (if c then x else y) := by
  split
  · exact hx
  · exact hy

section Settled
variable (p : Port) (h : RawHandle) (i : SlotNo) (pt : Point) (s : State)

theorem settled_define (f : DefineFields) : Settled s (carryDefine p f s) := by
  unfold carryDefine
  split
  · exact settled_refuse _ s
  · split
    · exact settled_refuse _ s
    · exact settled_answer _ s _

theorem settled_setLimits (f : LimitsFields) : Settled s (carrySetLimits p h f s) := by
  refine settled_withPoint h fun i pt => settled_ite (settled_refuse _ s) (settled_ite (settled_refuse _ s)
    (settled_ite (settled_refuse _ s) ?_))
  split
  · exact settled_refuse _ s
  · exact settled_answer _ s _

theorem settled_writePoint (v : Issued) (d : Option Time) : Settled s (writePoint i pt v d s) := by
  have fresh : Settled s (writeFresh i pt v d s) := settled_ite (settled_answer _ s _) (settled_answer _ s _)
  unfold writePoint
  split
  case h_1 | h_2 | h_3 | h_4 => exact settled_answer _ s _
  all_goals exact fresh

theorem settled_cancelPoint : Settled s (cancelPoint i pt s) := by
  unfold cancelPoint
  split
  case h_5 => exact settled_refuse _ s
  all_goals exact settled_answer _ s _

theorem settled_nodeQuery (segment address : Byte) : Settled s (carryNodeQuery segment address s) := by
  unfold carryNodeQuery
  split
  · split <;> exact settled_answer _ s _
  · exact settled_refuse _ s

theorem settled_nodeList (segment start : Byte) : Settled s (carryNodeList segment start s) := by
  unfold carryNodeList
  split
  · exact settled_answer _ s _
  · exact settled_refuse _ s

theorem settled_enable (g : SegId) : Settled s (carryEnable g s) := by
  unfold carryEnable
  split <;> exact settled_answer _ s _

theorem settled_disable (g : SegId) : Settled s (carryDisable g s) := by
  unfold carryDisable
  split <;> exact settled_answer _ s _

theorem settled_restart (g : SegId) : Settled s (carryRestart g s) := by
  unfold carryRestart
  split
  case h_1 | h_3 => exact settled_refuse _ s
  all_goals exact settled_accepted _ s _

theorem settled_setSpeed (g : SegId) (v : Speed) : Settled s (carrySetSpeed g v s) := by
  unfold carrySetSpeed
  split
  case h_1 => exact settled_answer _ s _
  all_goals exact settled_refuse _ s

theorem settled_segmentControl (segment action speed : Byte) : Settled s (carrySegmentControl segment action speed s) := by
  unfold carrySegmentControl
  split
  · exact settled_enable s _
  · exact settled_disable s _
  · exact settled_restart s _
  · split
    · exact settled_setSpeed s _ _
    · exact settled_refuse _ s
  · exact settled_refuse _ s

theorem settled_scan (segment low high : Byte) : Settled s (carryScan p segment low high s) := by
  unfold carryScan
  split
  · refine settled_ite (settled_refuse _ s) (settled_ite (settled_refuse _ s) (settled_ite (settled_refuse _ s) ?_))
    exact settled_accepted _ s _
  · exact settled_refuse _ s

theorem settled_scanResult (segment index : Byte) : Settled s (carryScanResult segment index s) := by
  unfold carryScanResult
  split
  · exact settled_refuse _ s
  · exact settled_ite (settled_refuse _ s) (settled_answer _ s _)

theorem settled_subscribe (set : Byte) : Settled s (carrySubscribe p h set s) := by
  refine settled_withPoint h fun i pt => settled_ite (settled_refuse _ s) ?_
  split
  · exact settled_refuse _ s
  · exact settled_answer _ s _

theorem settled_ack (seq : SeqNo) : Settled s (carryAck p seq s) := by
  unfold carryAck
  dsimp only
  split
  · exact settled_refuse _ s
  · exact settled_answer _ s _

theorem settled_claim (take : Byte) : Settled s (carryClaim p h take s) := by
  refine settled_withPoint h fun i pt => settled_ite (settled_refuse _ s) (settled_ite ?_ (settled_ite (settled_refuse _ s)
    (settled_ite (settled_answer _ s _) (settled_refuse _ s))))
  split
  · exact settled_refuse _ s
  · exact settled_ite (settled_answer _ s _) (settled_answer _ s _)

theorem settled_portSet (n e : Byte) : Settled s (carryPortSet p n e s) := by
  unfold carryPortSet
  split
  · exact settled_answer _ s _
  · exact settled_refuse _ s

theorem settled_clear : Settled s (carryClear p s) := by
  unfold carryClear
  split
  · exact settled_refuse _ s
  · exact settled_answer _ s _

/-- A refused request has an empty body and changes nothing (R165, R166). -/
theorem settled_carryOut (r : Request) : Settled s (carryOut p r s) := by
  cases r with
  | define f => exact settled_define p s f
  | activate k | hold k =>
    exact settled_withPoint k fun i pt => settled_ite (settled_refuse _ s) (settled_ite (settled_refuse _ s)
      (settled_ite (settled_answer _ s _) (settled_answer _ s _)))
  | retire k =>
    exact settled_withPoint k fun i pt => settled_ite (settled_refuse _ s) (settled_ite (settled_refuse _ s)
      (settled_ite (settled_answer _ s _) (settled_answer _ s _)))
  | describe k | read k => exact settled_withPoint k fun i pt => settled_answer _ s _
  | readMany count handles =>
    exact settled_ite (settled_refuse _ s) (settled_ite (settled_refuse _ s) (settled_answer _ s _))
  | refresh k =>
    exact settled_withPoint k fun i pt => settled_ite (settled_refuse _ s) (settled_ite (settled_refuse _ s)
      (settled_accepted _ s _))
  | setLimits k f => exact settled_setLimits p k s f
  | write k v d =>
    exact settled_withPoint k fun i pt => settled_ite (settled_refuse _ s) (settled_ite (settled_refuse _ s)
      (settled_ite (settled_refuse _ s) (settled_ite (settled_refuse _ s) (settled_writePoint i pt s _ _))))
  | cancel k =>
    exact settled_withPoint k fun i pt => settled_ite (settled_refuse _ s) (settled_ite (settled_refuse _ s)
      (settled_ite (settled_refuse _ s) (settled_cancelPoint i pt s)))
  | nodeQuery segment address => exact settled_nodeQuery s segment address
  | nodeList segment start => exact settled_nodeList s segment start
  | segmentControl segment action speed => exact settled_segmentControl s segment action speed
  | scan segment low high => exact settled_scan p s segment low high
  | scanResult segment index => exact settled_scanResult s segment index
  | subscribe k set => exact settled_subscribe p k s set
  | fetch count => exact settled_ite (settled_answer _ s _) (settled_refuse _ s)
  | ack seq => exact settled_ack p s seq
  | claim k take => exact settled_claim p k s take
  | release k =>
    exact settled_withPoint k fun i pt => settled_ite (settled_refuse _ s) (settled_ite (settled_answer _ s _)
      (settled_refuse _ s))
  | status | time => exact settled_answer _ s _
  | clear => exact settled_clear p s
  | portSet n e => exact settled_portSet p s n e

end Settled

/-! ### The first three tests of a frame (R163) -/

section Judge
variable {p : Port} {f : RequestFrame} {s : State}

theorem judge_frameError (h : crc16 f.covered ≠ f.crc) : judge p f s = refuse .frameError s := by
  simp [judge, RequestFrame.crcOk, h]

theorem judge_unknownKind (crc : crc16 f.covered = f.crc) (h : decodeRequest f.kind f.body = .unknownKind) :
    judge p f s = refuse .unknownKind s := by
  simp [judge, RequestFrame.crcOk, crc, h]

theorem judge_badLength (crc : crc16 f.covered = f.crc) (h : decodeRequest f.kind f.body = .badLength) :
    judge p f s = refuse .badLength s := by
  simp [judge, RequestFrame.crcOk, crc, h]

theorem judge_request {r : Request} (crc : crc16 f.covered = f.crc) (h : decodeRequest f.kind f.body = .request r) :
    judge p f s = carryOut p r s := by
  simp [judge, RequestFrame.crcOk, crc, h]

theorem settled_judge (p : Port) (f : RequestFrame) (s : State) : Settled s (judge p f s) := by
  unfold judge
  split
  · split
    · exact settled_refuse _ s
    · exact settled_refuse _ s
    · exact settled_carryOut p s _
  · exact settled_refuse _ s

end Judge

/-- Settles O7. -/
theorem frameIsJudgedInOrderAndARefusalChangesNothing : Obligations.FrameIsJudgedInOrderAndARefusalChangesNothing := by
  unfold Obligations.FrameIsJudgedInOrderAndARefusalChangesNothing
  refine ⟨⟨rfl, crc16_append, by decide +kernel, fun f => rfl⟩, fun body => ⟨fun kind h => requiredLength_unknown body h, ?_, rfl, ?_⟩,
    fun p f s => ⟨judge_frameError, fun crc h => judge_unknownKind crc (decodeRequest_unknownKind _ h),
      fun crc n h length => judge_badLength crc (decodeRequest_badLength h length), fun crc r fits kind body => ?_,
      fun ok accepted => ?_⟩⟩
  · simp [requiredLength]
  · rintro count rest rfl
    rfl
  · exact judge_request crc (by rw [kind, body, decodeRequest_encoded r fits])
  · exact ((settled_judge p f s).resolve_left ok).resolve_left accepted

end Sys2Proof.Machine

/-! The two ports: host transactions by their first byte (R179 to R182, R186), the console's receive assembly and its responses
(R183 to R185), the request unit's turn (R161, R177, R178), and a request's frame across either port. -/
namespace Sys2Proof.Machine

set_option Elab.async false

/-! ### A frame that is complete (R177) -/

@[simp] theorem setPort_setPort (s : State) (p : Port) (x y : PortSlots) : (s.setPort p x).setPort p y = s.setPort p y := by
  cases p <;> rfl

@[simp] theorem setPort_self (s : State) (p : Port) : s.setPort p (s.portOf p) = s := by cases p <;> rfl

theorem setPort_portOf_self (s : State) (p : Port) (x : PortSlots) : (s.setPort p x).portOf p = x := by cases p <;> rfl

theorem receiveFrame_eq (p : Port) (f : RequestFrame) (s : State) : receiveFrame p f s =
    s.setPort p (if (s.portOf p).response = none ∧ (s.portOf p).request = none then { s.portOf p with request := some f }
      else { s.portOf p with dropped := true }) := by
  cases h : (s.portOf p).response <;> cases k : (s.portOf p).request <;>
    simp [receiveFrame, State.slotsBusy, h, k, State.setDropped, State.storeRequest]

/-! ### The host port -/

theorem assembleFrame_complete (tag kind n hi lo : Byte) (body further : List Byte) (fits : n.toNat ≤ 96)
    (length : body.length = n.toNat) :
    assembleFrame (tag :: kind :: n :: body ++ hi :: lo :: further) = .complete ⟨tag, kind, body, hi ++ lo⟩ := by
  have notOver : ¬ bodyLimit < n.toNat := Nat.not_lt.mpr fits
  have whole : ¬ (body ++ hi :: lo :: further).length < n.toNat := by simp [length]
  simp only [List.cons_append, assembleFrame, if_neg notOver, if_neg whole]
  rw [← length, List.take_left, List.drop_left]
  rfl

theorem assembleFrame_overLength (tag kind n : Byte) (rest : List Byte) (long : 96 < n.toNat) :
    assembleFrame (tag :: kind :: n :: rest) = .overLength := if_pos long

theorem finishFrame_partial (tag kind : Byte) (body : List Byte) {l : List Byte} (h : l.length < 2) :
    finishFrame tag kind body l = .partialFrame := by
  unfold finishFrame
  split
  · next hi lo rest =>
    rw [List.length_cons, List.length_cons] at h
    omega
  · rfl

theorem assembleFrame_partial {got : List Byte} (h : got.length < 3 ∨ ∃ tag kind n rest,
    got = tag :: kind :: n :: rest ∧ n.toNat ≤ 96 ∧ rest.length < n.toNat + 2) : assembleFrame got = .partialFrame := by
  obtain short | ⟨tag, kind, n, rest, rfl, fits, few⟩ := h
  · unfold assembleFrame
    split
    · next a b c rest =>
      simp only [List.length_cons] at short
      omega
    · rfl
  · simp only [assembleFrame, if_neg (show ¬ bodyLimit < n.toNat from Nat.not_lt.mpr fits)]
    split
    · rfl
    · refine finishFrame_partial _ _ _ ?_
      rw [List.length_drop]
      omega

section Host
variable {n : Nat} {bytes : List Byte} {s : State}

theorem exec_request_ignored (h : s.inReset = true) : exec (.hostRequestTransaction bytes) s = .next s := by
  simp [exec, execHostRequestTransaction, h]

theorem exec_response_ignored (h : s.inReset = true) : exec (.hostResponseTransaction n) s = .next s := by
  simp [exec, execHostResponseTransaction, h]

theorem exec_hostRequest (on : s.inReset = false) (free : s.hostRx ≠ .ignoring) :
    exec (.hostRequestTransaction bytes) s = .next (hostTransaction bytes s) := by
  simp [exec, execHostRequestTransaction, on, free]

theorem exec_hostResponse (on : s.inReset = false) (free : s.hostRx ≠ .ignoring) :
    exec (.hostResponseTransaction n) s = .next (responseTransaction n s) := by
  simp [exec, execHostResponseTransaction, on, free]

theorem ignoredTransaction_eq (h : s.hostRx = .ignoring) :
    ignoredTransaction n s = { s with hsdo := List.replicate n 0 } := by
  rw [ignoredTransaction, State.setHostPort, ← h]

theorem hostTransaction_request (got : List Byte) (s : State) :
    hostTransaction (0xA5 :: got) s = requestTransaction got s := rfl

theorem hostTransaction_response (got : List Byte) (s : State) :
    hostTransaction (0x5A :: got) s = responseTransaction got.length s := rfl

theorem hostTransaction_other {b : Byte} (request : b ≠ 0xA5) (response : b ≠ 0x5A) (rest : List Byte) (s : State) :
    hostTransaction (b :: rest) s = { s with hostRx := .idle, hsdo := List.replicate (rest.length + 1) 0 } := by
  have first : (b == openRequest) = false := beq_eq_false_iff_ne.mpr request
  have second : (b == openResponse) = false := beq_eq_false_iff_ne.mpr response
  simp only [hostTransaction, first, second, Bool.false_eq_true, if_false]
  rfl

theorem responseTransaction_empty (h : (s.portOf .host).response = none) :
    responseTransaction n s = { s with hostRx := .idle, hsdo := List.replicate (n + 1) 0 } := by
  have slots : ({ s.portOf .host with response := none } : PortSlots) = s.portOf .host := by rw [← h]
  simp only [responseTransaction, h, responseOut, responseLeft, slots]
  rfl

theorem responseTransaction_left {f : ResponseFrame} (h : (s.portOf .host).response = some f) (short : n ≤ f.bytes.length) :
    responseTransaction n s = { s with hostRx := .idle, hsdo := 0 :: (1 :: f.bytes).take n } := by
  have slots : ({ s.portOf .host with response := some f } : PortSlots) = s.portOf .host := by rw [← h]
  have kept : ¬ 1 + f.bytes.length ≤ n := by omega
  have shown : ((1 :: f.bytes) ++ List.replicate n 0).take n = (1 :: f.bytes).take n :=
    List.take_append_of_le_length (by simp only [List.length_cons]; omega)
  simp only [responseTransaction, h, responseOut, responseLeft, if_neg kept, slots, shown]
  rfl

theorem responseTransaction_sent {f : ResponseFrame} (h : (s.portOf .host).response = some f) (whole : f.bytes.length < n) :
    responseTransaction n s = ({ s with
        hostRx := .idle
        hsdo := 0 :: 1 :: f.bytes ++ List.replicate (n - 1 - f.bytes.length) 0 } : State).setPort .host
      { s.portOf .host with response := none } := by
  have gone : 1 + f.bytes.length ≤ n := by omega
  have shown : ((1 :: f.bytes) ++ List.replicate n 0).take n =
      1 :: f.bytes ++ List.replicate (n - 1 - f.bytes.length) (0 : Byte) := by
    have length : (1 :: f.bytes : List Byte).length ≤ n := by simp only [List.length_cons]; omega
    rw [List.take_append, List.take_of_length_le length, List.take_replicate, List.length_cons,
      Nat.min_eq_left (Nat.sub_le _ _), Nat.sub_sub, Nat.add_comm 1]
  simp only [responseTransaction, h, responseOut, responseLeft, if_pos gone, shown]
  rfl

end Host

/-- Settles O35: the transaction by its first byte, a request's by what its bytes amount to. -/
theorem hostTransactionsFollowTheirFirstByte : Obligations.HostTransactionsFollowTheirFirstByte := by
  unfold Obligations.HostTransactionsFollowTheirFirstByte
  intro n bytes s
  refine ⟨⟨?_, ?_, ?_⟩, fun reset => ⟨exec_request_ignored reset, exec_response_ignored reset⟩, fun on ignoring => ⟨?_, ?_⟩,
    fun on free => ⟨fun b rest request response => ?_, fun got h => ?_, fun tag kind n rest long => ?_,
      fun tag kind n hi lo body further fits length => ?_, ?_, ?_, fun empty => ?_, fun f full => ⟨fun short => ?_,
        fun whole => ?_⟩⟩, rfl⟩
  · change (s.hostRx != .idle) = _
    rw [bne, beq_eq_decide, decide_not]
  · change (s.portOf .host).response.isSome = _
    cases (s.portOf .host).response <;> rfl
  · change (!(s.notifyOf .host).queue.isEmpty) = _
    cases (s.notifyOf .host).queue <;> rfl
  · simp [exec, execHostRequestTransaction, on, ignoring, ignoredTransaction_eq ignoring]
  · simp [exec, execHostResponseTransaction, on, ignoring, ignoredTransaction_eq ignoring]
  · rw [exec_hostRequest on free, hostTransaction_other request response]
  · rw [exec_hostRequest on free, hostTransaction_request, requestTransaction, assembleFrame_partial h]
    rfl
  · rw [exec_hostRequest on free, hostTransaction_request, requestTransaction, assembleFrame_overLength _ _ _ _ long]
    rfl
  · rw [List.cons_append, exec_hostRequest on free, hostTransaction_request, requestTransaction,
      assembleFrame_complete _ _ _ _ _ _ _ fits length]
    dsimp only
    rw [receiveFrame_eq]
    have shifted : (tag :: kind :: n :: body ++ hi :: lo :: further).length + 1 = 6 + body.length + further.length := by
      simp only [List.length_append, List.length_cons]
      omega
    rw [shifted]
    rfl
  · rw [exec_hostRequest on free]
    rfl
  · rw [exec_hostRequest on free, exec_hostResponse on free, hostTransaction_response]
  · rw [exec_hostResponse on free, responseTransaction_empty empty]
  · refine ⟨_, exec_hostResponse on free, responseTransaction_left full short, ?_⟩
    rw [responseTransaction_left full short]
    exact (congrArg Option.isSome full :)
  · refine ⟨_, exec_hostResponse on free, responseTransaction_sent full whole, ?_⟩
    rw [responseTransaction_sent full whole]
    rfl

/-! ### The console port -/

/-- Settles O36: the receive assembly state by state. -/
theorem consolePortFollowsItsTables : Obligations.ConsolePortFollowsItsTables := by
  unfold Obligations.ConsolePortFollowsItsTables
  rintro b s at5 rfl
  refine ⟨fun hunt => ⟨fun sync on => ?_, fun other => ?_, ?_⟩, fun got header short => ?_, fun tag kind header => ⟨fun zero => ?_,
    fun some few => ?_, fun long => ?_⟩, fun tag kind left got body => ⟨fun more => ?_, fun last => ?_⟩,
    fun tag kind body crc => ?_, fun tag kind body hi crc => ?_, fun skip => ⟨?_, ?_⟩, fun hunt skip => ?_,
    fun due set reached => ?_, fun empty => ?_, fun f full => ⟨?_, ?_⟩⟩
  · simp [exec, execConsoleByteReceived, hunt, on, sync, syncByte]
  · obtain other | reset := other
    · have noSync : (b == syncByte) = false := beq_eq_false_iff_ne.mpr other
      simp [exec, execConsoleByteReceived, hunt, noSync]
    · simp [exec, execConsoleByteReceived, hunt, reset]
  · simp [exec, execConsoleFramingError, hunt]
  · match got, short with
    | [], _ => simp [exec, execConsoleByteReceived, header, headerByte]; rfl
    | [x], _ => simp [exec, execConsoleByteReceived, header, headerByte]; rfl
  · simp [exec, execConsoleByteReceived, header, headerByte, lengthByte, zero, bodyLimit]; rfl
  · have fits : ¬ bodyLimit < b.toNat := Nat.not_lt.mpr few
    have body : b.toNat ≠ 0 := by omega
    simp only [exec, execConsoleByteReceived, header, headerByte, lengthByte, if_neg fits, if_neg body]; rfl
  · have drop : bodyLimit < b.toNat := long
    simp only [exec, execConsoleByteReceived, header, headerByte, lengthByte, if_pos drop]; rfl
  · have notLast : ¬ left ≤ 1 := by omega
    simp only [exec, execConsoleByteReceived, body, bodyByte, if_neg notLast]; rfl
  · simp [exec, execConsoleByteReceived, body, bodyByte, last]; rfl
  · simp [exec, execConsoleByteReceived, crc, crcByte]; rfl
  · simp only [exec, execConsoleByteReceived, crc, crcByte, receiveFrame_eq]; rfl
  · simp [exec, execConsoleByteReceived, skip]; rfl
  · simp [exec, execConsoleFramingError, skip]; rfl
  · cases h : s.assembly with
    | hunt => exact absurd h hunt
    | skip => exact absurd h skip
    | header got => simp only [exec, execConsoleFramingError, h]; rfl
    | body tag kind left got => simp only [exec, execConsoleFramingError, h]; rfl
    | crc tag kind body high => simp only [exec, execConsoleFramingError, h]; rfl
  · have long : s.gapReached = true := by simp [State.gapReached, set, reached]
    simp only [exec, execConsoleGapExpiry, long, if_pos]; rfl
  · change s.ctxdPin = _
    simp [State.ctxdPin, empty]
  · change s.ctxdPin = _
    simp [State.ctxdPin, full, syncByte]
  · simp [exec, execConsoleResponseSent, full, syncByte]

/-! ### Carrying a request out leaves the ports alone -/

/-- The ports' slots and the port served last stay as they were. -/
def SamePorts (s t : State) : Prop := t.ports = s.ports ∧ t.lastServed = s.lastServed

theorem SamePorts.refl (s : State) : SamePorts s s := ⟨rfl, rfl⟩

theorem SamePorts.trans {s t u : State} (h : SamePorts s t) (k : SamePorts t u) : SamePorts s u :=
  ⟨k.1.trans h.1, k.2.trans h.2⟩

theorem Kept.samePorts {s t : State} (h : Kept s t) : SamePorts s t := ⟨h.ports, h.lastServed⟩

theorem samePorts_freeSlot (i : SlotNo) (s : State) : SamePorts s (freeSlot i s) := by
  unfold freeSlot
  split
  · exact SamePorts.refl s
  · unfold SamePorts markToSystem
    dsimp only [dropNodePoint, State.setDirectory_ports, State.modNode_ports, State.setDirectory_lastServed,
      State.modNode_lastServed]
    split <;> split <;> exact ⟨rfl, rfl⟩

theorem samePorts_definePoint (p : Port) (d : Definition) (i : SlotNo) (s : State) : SamePorts s (definePoint p d i s) := by
  unfold definePoint addNodePoint
  split <;> exact ⟨rfl, rfl⟩

theorem samePorts_setEnables (p : Port) (a b : Action) (s : State) :
    SamePorts s (setNodeEvents p b (setNotifications p a s)) := by
  have first : SamePorts s (setNotifications p a s) := by
    unfold setNotifications
    split
    · exact SamePorts.refl s
    · exact ⟨rfl, rfl⟩
    · split <;> exact ⟨rfl, rfl⟩
  refine first.trans ?_
  cases b <;> exact ⟨rfl, rfl⟩

theorem Effect.samePorts {s t : State} (h : Effect s t) : SamePorts s t := by
  obtain h | ⟨i, u, before, -, after⟩ := h
  · exact h.samePorts
  · exact (before.samePorts.trans (samePorts_freeSlot i u)).trans after.samePorts

theorem samePorts_acknowledge (p : Port) (rest : List Entry) (s : State) : SamePorts s (acknowledge p rest s) :=
  SamePorts.trans (t := s.setNotify p { s.notifyOf p with queue := rest }) ⟨rfl, rfl⟩
    (kept_acknowledge_drain p rest s).samePorts

/-- A request that is answered with a body and nothing else leaves the state as it is. -/
theorem withPoint_answer_fst (h : RawHandle) (s : State) (b : SlotNo → Point → List Byte) :
    (withPoint h s fun i pt => answer (b i pt) s).1 = s := by
  unfold withPoint
  split <;> rfl

theorem samePorts_carryOut (p : Port) (r : Request) (s : State) : SamePorts s (carryOut p r s).1 := by
  have same : ∀ {t}, t = s → SamePorts s t := by rintro t rfl; exact SamePorts.refl _
  cases r with
  | define f =>
    simp only [carryOut, carryDefine]
    split
    · exact same rfl
    · split
      · exact same rfl
      · exact samePorts_definePoint p _ _ s
  | activate h => exact (effect_carryActivate p h s).samePorts
  | hold h => exact (effect_carryHold p h s).samePorts
  | retire h => exact (effect_carryRetire p h s).samePorts
  | refresh h => exact (effect_carryRefresh p h s).samePorts
  | setLimits h f => exact (effect_carrySetLimits p h f s).samePorts
  | write h v d => exact (effect_carryWrite p h v d s).samePorts
  | cancel h => exact (effect_carryCancel p h s).samePorts
  | segmentControl a b c => exact (effect_carrySegmentControl a b c s).samePorts
  | scan a b c => exact (effect_carryScan p a b c s).samePorts
  | subscribe h b => exact (effect_carrySubscribe p h b s).samePorts
  | claim h b => exact (effect_carryClaim p h b s).samePorts
  | release h => exact (effect_carryRelease p h s).samePorts
  | describe h | read h => exact same (withPoint_answer_fst h s _)
  | readMany count handles =>
    simp only [carryOut, carryReadMany]
    split
    · exact same rfl
    · split <;> exact same rfl
  | nodeQuery a b =>
    simp only [carryOut, carryNodeQuery]
    split
    · split <;> exact same rfl
    · exact same rfl
  | nodeList a b =>
    simp only [carryOut, carryNodeList]
    split <;> exact same rfl
  | scanResult a b =>
    simp only [carryOut, carryScanResult]
    split
    · exact same rfl
    · split <;> exact same rfl
  | fetch b =>
    simp only [carryOut, carryFetch]
    split <;> exact same rfl
  | ack q =>
    simp only [carryOut, carryAck]
    split
    · exact same rfl
    · dsimp only [answer]
      exact samePorts_acknowledge p _ s
  | status | time => exact same rfl
  | clear => cases p <;> exact ⟨rfl, rfl⟩
  | portSet a b =>
    simp only [carryOut, carryPortSet]
    split
    · exact samePorts_setEnables p _ _ s
    · exact same rfl

theorem samePorts_judge (p : Port) (f : RequestFrame) (s : State) : SamePorts s (judge p f s).1 := by
  unfold judge
  split
  · split
    · exact SamePorts.refl s
    · exact SamePorts.refl s
    · exact samePorts_carryOut p _ s
  · exact SamePorts.refl s

theorem portOf_congr {s t : State} (h : t.ports = s.ports) (p : Port) : t.portOf p = s.portOf p := by
  unfold State.portOf
  rw [h]

/-! ### The unit's turn and a frame it takes (R161, R162, R177) -/

theorem offers_eq_false (s : State) (p : Port) :
    s.offers p = false ↔ (s.portOf p).request = none ∨ (s.portOf p).response ≠ none := by
  cases h : (s.portOf p).request <;> cases k : (s.portOf p).response <;> simp [State.offers, h, k]

theorem unitChoice_of_turn {s : State} {p : Port} (offers : s.offers p = true)
    (turn : s.lastServed = p.other ∨ s.offers p.other = false) : s.unitChoice = some p := by
  obtain last | alone := turn
  · cases p <;> cases h : s.offers .host <;> cases k : s.offers .console <;>
      simp_all [State.unitChoice, Port.other]
  · cases p <;> simp_all [State.unitChoice, Port.other]

theorem unitChoice_none {s : State} (h : ∀ p, s.offers p = false) : s.unitChoice = none := by
  simp [State.unitChoice, h]

/-- The frames that arrive while the port's slots are empty: the first is stored, a further one sets the dropped flag. -/
theorem arrivals_eq (p : Port) (l : List RequestFrame) (s : State) (request : (s.portOf p).request = none)
    (response : (s.portOf p).response = none) (fits : ∀ a ∈ l, a.body.length ≤ 96) :
    l.foldl (arrive p) s = s.setPort p { s.portOf p with
      request := l.head?, dropped := (s.portOf p).dropped || decide (2 ≤ l.length) } := by
  have empty : s.slotsBusy p = false := by simp [State.slotsBusy, request, response]
  cases l with
  | nil =>
    have same : ({ s.portOf p with
        request := [].head?, dropped := (s.portOf p).dropped || decide (2 ≤ ([] : List RequestFrame).length) } : PortSlots) =
        s.portOf p := by
      rw [List.head?_nil, ← request]
      simp
    rw [same, setPort_self, List.foldl_nil]
  | cons f rest =>
    rw [arrivals_empty p f rest s empty (fits f List.mem_cons_self)]
    cases rest with
    | nil => simp [State.storeRequest]
    | cons a l => simp [State.storeRequest, State.setDropped]

theorem answerFrame_eq (p : Port) (f : RequestFrame) (l : List RequestFrame) {s : State}
    (request : (s.portOf p).request = none) (response : (s.portOf p).response = none) (fits : ∀ a ∈ l, a.body.length ≤ 96) :
    answerFrame p f l s = (judge p f (s.served p)).1.setPort p
      { request := l.head?, dropped := false
        response := some { tag := f.tag, status := (judge p f (s.served p)).2.status
                           droppedFlag := (s.portOf p).dropped || decide (2 ≤ l.length)
                           queueFlag := !((judge p f (s.served p)).1.notifyOf p).queue.isEmpty
                           body := (judge p f (s.served p)).2.body } } := by
  have same : (judge p f (s.served p)).1.portOf p = s.portOf p := portOf_congr (samePorts_judge p f _).1 p
  unfold answerFrame placeResponse
  dsimp only
  rw [arrivals_eq p l _ (by rw [same, request]) (by rw [same, response]) fits]
  simp [same]

/-- The state in which the unit judges the frame it takes from port `p` (R161): the lines as brought, the port served last and
its request slot empty. -/
def State.taking (s : State) (p : Port) (la lb : Lines) : State :=
  (((s.setLines .a la).setLines .b lb).emptyRequest p).served p

/-- The offered frame of the port whose turn it is, taken, judged and answered. -/
theorem exec_requestTaken {p : Port} {f : RequestFrame} {s : State} {l : List RequestFrame} (la lb : Lines)
    (request : (s.portOf p).request = some f) (response : (s.portOf p).response = none)
    (turn : s.lastServed = p.other ∨ s.offers p.other = false) (fits : ∀ a ∈ l, a.body.length ≤ 96) :
    exec (.requestTaken ⟨la, lb⟩ l) s = .next ((judge p f (s.taking p la lb)).1.setPort p
      { request := l.head?, dropped := false
        response := some { tag := f.tag, status := (judge p f (s.taking p la lb)).2.status
                           droppedFlag := (s.portOf p).dropped || decide (2 ≤ l.length)
                           queueFlag := !((judge p f (s.taking p la lb)).1.notifyOf p).queue.isEmpty
                           body := (judge p f (s.taking p la lb)).2.body } }) := by
  have offers : s.offers p = true := (offers_iff s p).mpr ⟨by rw [request]; exact Option.some_ne_none f, response⟩
  have before : ((s.setLines .a la).setLines .b lb).portOf p = s.portOf p := rfl
  have taken : takeFrom p l ((s.setLines .a la).setLines .b lb) =
      answerFrame p f l (((s.setLines .a la).setLines .b lb).emptyRequest p) := by
    simp only [takeFrom, before, request]
  change execRequestTaken _ _ s = _
  simp only [execRequestTaken, unitChoice_of_turn offers turn]
  rw [taken, answerFrame_eq p f l (by simp [State.emptyRequest]) (by simp [State.emptyRequest, response]) fits]
  simp [State.emptyRequest, State.taking]

/-- Settles O37. -/
theorem requestUnitServesThePortsInTurn : Obligations.RequestUnitServesThePortsInTurn := by
  unfold Obligations.RequestUnitServesThePortsInTurn
  intro la lb arriving s
  refine ⟨fun p f request response turn fits => ?_, fun idle => ?_⟩
  · have judged := samePorts_judge p f (s.taking p la lb)
    have queue : (!((judge p f (s.taking p la lb)).1.notifyOf p).queue.isEmpty) =
        decide (((judge p f (s.taking p la lb)).1.notifyOf p).queue ≠ []) := by
      cases ((judge p f (s.taking p la lb)).1.notifyOf p).queue <;> rfl
    refine ⟨_, exec_requestTaken la lb request response (turn.imp_right (offers_eq_false s p.other).mpr) fits, ?_, ?_, ?_,
      ⟨_, s.taking p la lb, _, rfl, rfl, congrArg PortSlots.response (setPort_portOf_self _ p _), rfl, rfl, rfl, queue, rfl, ?_⟩, ?_⟩
    · rw [State.setPort_lastServed, judged.2]
      rfl
    · simp
    · simp
    · cases p <;> rfl
    · rw [State.setPort_read_portOf, if_neg (by cases p <;> decide), portOf_congr judged.1]
      cases p <;> rfl
  · have none : s.unitChoice = none := unitChoice_none fun p => (offers_eq_false s p).mpr (idle p)
    change execRequestTaken _ _ s = _
    simp [execRequestTaken, none]

/-! ### A request's frame across either port (R179, R184) -/

theorem frameOf_bytes (tag : Byte) (r : Request) : (frameOf tag r).bytes =
    tag :: r.kindCode :: byteOfNat r.body.length :: r.body ++ bytes16 (frameOf tag r).crc := rfl

theorem byteOfNat_toNat {n : Nat} (h : n ≤ 96) : (byteOfNat n).toNat = n := by
  rw [byteOfNat, BitVec.toNat_ofNat, Nat.mod_eq_of_lt (by omega)]

theorem assembleFrame_frameOf (tag : Byte) (r : Request) (h : r.wellFormed = true) :
    assembleFrame (frameOf tag r).bytes = .complete (frameOf tag r) := by
  have length : r.body.length = (byteOfNat r.body.length).toNat := (byteOfNat_toNat (body_fits r h)).symm
  rw [frameOf_bytes, bytes16, assembleFrame_complete _ _ _ _ _ _ _ (length ▸ body_fits r h) length]
  exact congrArg (fun c => FrameProgress.complete ⟨tag, r.kindCode, r.body, c⟩) (be16_bytes16 _)

theorem frameOf_crc (tag : Byte) (r : Request) : crc16 (frameOf tag r).covered = (frameOf tag r).crc := rfl

theorem judge_frameOf (p : Port) (tag : Byte) (r : Request) (h : r.wellFormed = true) (s : State) :
    judge p (frameOf tag r) s = carryOut p r s :=
  judge_request (frameOf_crc tag r) (decodeRequest_encoded r h)

theorem goesFirst_iff (s : State) (p : Port) :
    s.goesFirst p = true ↔ s.lastServed = p.other ∨ s.offers p.other = false := by
  cases p <;> cases h : s.lastServed <;> simp [State.goesFirst, h, Port.other]

/-- A request whose frame stands in its port's slot is carried out and answered when the unit takes it. -/
theorem exec_requestTaken_frameOf {p : Port} {tag : Byte} {r : Request} {s : State} (la lb : Lines) (h : r.wellFormed = true)
    (request : (s.portOf p).request = some (frameOf tag r)) (response : (s.portOf p).response = none)
    (turn : s.goesFirst p = true) :
    exec (.requestTaken ⟨la, lb⟩ []) s = .next (responded p tag (carryOut p r (s.taking p la lb)).2
      (carryOut p r (s.taking p la lb)).1) := by
  have slots : (carryOut p r (s.taking p la lb)).1.portOf p = { s.portOf p with request := none } :=
    (portOf_congr (samePorts_carryOut p r _).1 p).trans (by simp [State.taking, State.emptyRequest])
  rw [exec_requestTaken la lb request response ((goesFirst_iff s p).mp turn) (by simp), judge_frameOf p tag r h]
  simp [responded, placeResponse, slots, frameOf]

theorem receives_cons {s t : State} {b : Byte} (h : exec (.consoleByteReceived b) s = .next t) (rest : List Byte) :
    s.receives (b :: rest) = t.receives rest := by
  rw [State.receives, h]

@[simp] theorem setAssembly_assembly (s : State) (x : Assembly) : (s.setAssembly x).assembly = x := rfl

@[simp] theorem setAssembly_setAssembly (s : State) (x y : Assembly) : (s.setAssembly x).setAssembly y = s.setAssembly y := rfl

theorem receives_body (tag kind : Byte) (rest : List Byte) :
    ∀ (s : State) (got body : List Byte), body ≠ [] →
      (s.setAssembly (.body tag kind body.length got)).receives (body ++ rest) =
        (s.setAssembly (.crc tag kind (got ++ body) none)).receives rest := by
  intro s got body
  induction body generalizing got with
  | nil => exact fun h => absurd rfl h
  | cons b more ih =>
    intro _
    have step : exec (.consoleByteReceived b) (s.setAssembly (.body tag kind (b :: more).length got)) =
        .next (bodyByte tag kind (b :: more).length got b (s.setAssembly (.body tag kind (b :: more).length got))) := rfl
    rw [List.cons_append, receives_cons step]
    cases more with
    | nil => rfl
    | cons c l =>
      have next : bodyByte tag kind (b :: c :: l).length got b (s.setAssembly (.body tag kind (b :: c :: l).length got)) =
          s.setAssembly (.body tag kind (c :: l).length (got ++ [b])) := rfl
      rw [next, ih (got ++ [b]) (List.cons_ne_nil c l), List.append_assoc]
      rfl

/-- A frame of at most 96 body bytes received in HUNT behind the sync byte is given to its port's slots. -/
theorem receives_frame {s : State} {tag kind n hi lo : Byte} {body : List Byte} (on : s.inReset = false)
    (hunt : s.assembly = .hunt) (fits : n.toNat ≤ 96) (length : body.length = n.toNat) :
    s.receives (0xC3 :: (tag :: kind :: n :: body ++ [hi, lo])) =
      some ((receiveFrame .console ⟨tag, kind, body, be16 hi lo⟩ s).setAssembly .hunt) := by
  have sync : exec (.consoleByteReceived 0xC3) s = .next { s with assembly := .header [] } := by
    simp [exec, execConsoleByteReceived, hunt, on, syncByte]
  have assembled : (s.setAssembly (.header [tag, kind])).receives (n :: body ++ [hi, lo]) =
      (s.setAssembly (.crc tag kind body none)).receives [hi, lo] := by
    rw [List.cons_append, receives_cons (t := lengthByte tag kind n (s.setAssembly (.header [tag, kind]))) rfl, lengthByte,
      if_neg (show ¬ bodyLimit < n.toNat from Nat.not_lt.mpr fits)]
    cases body with
    | nil => rw [if_pos (by rw [← length]; rfl)]; rfl
    | cons b rest =>
      rw [if_neg (by rw [← length]; exact Nat.succ_ne_zero _), ← length, setAssembly_setAssembly]
      exact receives_body tag kind [hi, lo] s [] (b :: rest) (List.cons_ne_nil b rest)
  calc s.receives (0xC3 :: (tag :: kind :: n :: body ++ [hi, lo]))
      = (s.setAssembly (.header [tag, kind])).receives (n :: body ++ [hi, lo]) := receives_cons sync _
    _ = (s.setAssembly (.crc tag kind body none)).receives [hi, lo] := assembled
    _ = some ((receiveFrame .console ⟨tag, kind, body, be16 hi lo⟩ (s.setAssembly (.crc tag kind body (some hi)))).setAssembly
          .hunt) := rfl
    _ = _ := by rw [receiveFrame_eq, receiveFrame_eq]; rfl

theorem receiveFrame_of_free {p : Port} {s : State} (free : s.slotsBusy p = false) (f : RequestFrame) :
    receiveFrame p f s = s.storeRequest p f := by simp [receiveFrame, free]

theorem response_of_free {s : State} {p : Port} (free : s.slotsBusy p = false) : (s.portOf p).response = none := by
  cases h : (s.portOf p).response with
  | none => rfl
  | some f => simp [State.slotsBusy, h] at free

/-- Settles O9. -/
theorem requestCrossesThePorts : Obligations.RequestCrossesThePorts := by
  unfold Obligations.RequestCrossesThePorts
  rintro tag r s la lb h on taken rfl
  refine ⟨fun free listening => ⟨_, ?_, rfl, fun turn => ⟨_, _, rfl, rfl, ?_⟩⟩, fun free hunt => ⟨_, ?_, rfl, fun turn =>
    ⟨_, _, rfl, rfl, ?_⟩⟩⟩
  · rw [exec_hostRequest on listening, hostTransaction_request, requestTransaction, assembleFrame_frameOf tag r h]
    dsimp only
    rw [receiveFrame_of_free (s := s.setHostPort .idle (List.replicate _ 0)) free]
    have shifted : (frameOf tag r).bytes.length + 1 = 6 + r.body.length := by
      rw [frameOf_bytes, bytes16]
      simp only [List.length_append, List.length_cons, List.length_nil]
      omega
    rw [shifted]
    rfl
  · exact exec_requestTaken_frameOf la lb h rfl (response_of_free (s := s) free) turn
  · have length : r.body.length = (byteOfNat r.body.length).toNat := (byteOfNat_toNat (body_fits r h)).symm
    rw [frameOf_bytes, bytes16, receives_frame on hunt (length ▸ body_fits r h) length, be16_bytes16,
      receiveFrame_of_free free]
    simp [State.setAssembly, State.storeRequest, hunt]
    rfl
  · exact exec_requestTaken_frameOf la lb h rfl (response_of_free (s := s) free) turn

end Sys2Proof.Machine

/-! Hard reset (R27, R30, R104, R127, R145, R159, R183, R186, R191): every block at its reset value, which no other command changes
while it lasts. -/
namespace Sys2Proof.Machine

set_option Elab.async false

/-- Every block of `t` is at its value after hard reset, the roster clock at 0. -/
structure Blank (t : State) : Prop where
  clock : t.clock = 0
  slots : ∀ i, t.point? i = none ∧ t.generation i = 0
  directory : t.directory = []
  segment : ∀ g, ∃ lines, t.segment g = Segment.reset lines
  ports : ∀ p, t.notifyOf p = Notify.reset ∧ t.portOf p = PortSlots.reset
  lastServed : t.lastServed = .console
  hostRx : t.hostRx = .idle ∨ t.hostRx = .ignoring
  assembly : t.assembly = .hunt
  gapDue : t.gapDue = none

/-- The laws of the records and engines. -/
def State.lawful (t : State) : Prop :=
  t.noDuplicates ∧ t.fieldsOk ∧ t.queuesOk ∧ t.marksOk ∧ t.directoryOk ∧ t.commandQueuesOk ∧ t.schedulesOk ∧ t.flightsOk ∧
    t.enginesOk

theorem lawful_atReset {s t : State} (h : AtReset s t) : t.lawful := by
  obtain ⟨schedules, commands, flights⟩ := (collected_iff t).mp (collected_atReset h)
  obtain ⟨queues, marks⟩ :=
    notifyOk_of_emptied (fun p => by rw [h.notify]; rfl) (fun p => by rw [h.notify]; rfl) h.point
  refine ⟨fun i j a b ha => ?_, fun i a ha => ?_, queues, marks, directoryOk_of_empty h.directory h.ident, commands, schedules,
    flights, enginesOk_atReset h⟩
  · rw [h.ident] at ha
    cases ha
  · rw [h.ident] at ha
    cases ha

section Blank
variable {t : State}

theorem Blank.atReset (h : Blank t) : AtReset t t where
  point i := (h.slots i).1
  generation i := (h.slots i).2
  directory := h.directory
  segment g := by
    obtain ⟨lines, e⟩ := h.segment g
    rw [e]
    rfl
  notify p := (h.ports p).1

theorem Blank.pins (h : Blank t) : t.pins =
    { hsdoDriven := decide (t.hostRx = .ignoring), rdy := false, attn := false, ctxd := .idle
      fieldA := { fc := true, fd := true }, fieldB := { fc := true, fd := true } } := by
  have driven : t.hselLow = decide (t.hostRx = .ignoring) := by
    obtain e | e := h.hostRx <;> rw [State.hselLow, e] <;> rfl
  have released : ∀ g, (t.segment g).drivers = .released := fun g => by
    obtain ⟨lines, e⟩ := h.segment g
    rw [e]
    rfl
  have host : t.rdy = false ∧ t.attn = false := by
    refine ⟨?_, ?_⟩
    · rw [State.rdy, (h.ports .host).2]; rfl
    · rw [State.attn, (h.ports .host).1]; rfl
  have console : t.ctxdPin = .idle := by rw [State.ctxdPin, (h.ports .console).2]; rfl
  rw [State.pins, driven, host.1, host.2, console, released, released]
  rfl

/-- What the levels last observed are does not matter. -/
theorem Blank.setLines (h : Blank t) (g : SegId) (l : Lines) : Blank (t.setLines g l) :=
  { h with
    segment := fun k => by
      obtain ⟨lines, e⟩ := h.segment k
      rw [State.setLines_read_segment]
      split
      · next same => subst same; exact ⟨l, by rw [e]; rfl⟩
      · exact ⟨lines, e⟩ }

theorem Blank.setHostIdle (h : Blank t) : Blank { t with hostRx := .idle } := { h with hostRx := .inl rfl }

theorem blank_afterReset (x y z : Bool) (la lb : Lines) (l : List Instr) : Blank (State.afterReset x y z la lb l) where
  clock := rfl
  slots i := by simp [State.afterReset, State.point?, State.generation, Slot.reset]
  directory := rfl
  segment g := by cases g <;> exact ⟨_, rfl⟩
  ports p := by cases p <;> exact ⟨rfl, rfl⟩
  lastServed := rfl
  hostRx := by cases z <;> simp [State.afterReset]
  assembly := rfl
  gapDue := rfl

theorem blank_heldInReset (s : State) : Blank s.heldInReset := by
  obtain ⟨clock, slots, directory, segment, ports, lastServed, hostRx, assembly, gapDue⟩ :=
    blank_afterReset false false (s.hostRx != .idle) s.segments.a.lines s.segments.b.lines s.pending
  exact ⟨clock, slots, directory, segment, ports, lastServed, hostRx, assembly, gapDue⟩

/-! ### Nothing is due in blank blocks -/

theorem Blank.offers (h : Blank t) (p : Port) : t.offers p = false := by
  rw [State.offers, (h.ports p).2]
  rfl

theorem Blank.idle (h : Blank t) (g : SegId) : (t.segment g).idle = false := by
  obtain ⟨lines, e⟩ := h.segment g
  rw [e]
  rfl

theorem Blank.hasChoice (h : Blank t) (g : SegId) : t.hasChoice g = false := by
  rw [State.hasChoice, h.idle g, Bool.false_and]

theorem Blank.segmentExpiry (h : Blank t) (g : SegId) : (t.segment g).dueExpiry g t.clock = none := by
  obtain ⟨lines, e⟩ := h.segment g
  rw [e]
  rfl

theorem Blank.slotExpiry (h : Blank t) (i : SlotNo) : t.slotExpiry i = none := by
  have point := (h.slots i).1
  have stand : t.stand i = .noCommand := by simp [State.stand, point]
  simp [State.slotExpiry, State.deadlineReached, State.nextDeadlineReached, State.staleReached, State.ageCapReached,
    State.dueCapReached, State.cappedDue, State.entry?, point, stand, Stand.deadline, Stand.nextDeadline]

theorem Blank.gapExpiry (h : Blank t) : t.gapExpiry = none := by simp [State.gapExpiry, State.gapReached, h.gapDue]

theorem Blank.probeExpiry (h : Blank t) : t.directory.findSome? (·.dueExpiry t.clock) = none := by rw [h.directory]; rfl

theorem Blank.nextEvent (h : Blank t) : t.nextEvent = none := by
  have request : t.dueRequest = none := by simp [State.dueRequest, unitChoice_none h.offers]
  have choice : ∀ g, t.dueChoice g = none := fun g => by simp [State.dueChoice, h.idle g]
  have slots : allSlots.findSome? t.slotExpiry = none := List.findSome?_eq_none_iff.mpr fun i _ => h.slotExpiry i
  simp [State.nextEvent, State.nextExpiry, request, choice, h.gapExpiry, h.segmentExpiry, h.probeExpiry, slots]

theorem Blank.serving (h : Blank t) (g : SegId) (f : Work → Bool) : (t.segment g).serving f = false := by
  obtain ⟨lines, e⟩ := h.segment g
  rw [e]
  rfl

theorem Blank.completeWith (h : Blank t) (g : SegId) (f : Work → Bool) (levels : List Bool) :
    completeWith g f levels t = t := by simp [Machine.completeWith, h.serving g f]

theorem exec_request_inReset {s : State} {c : Instr} {p : Port} {tag : Byte} {r : Request}
    (h : asRequest c = some (p, tag, r)) (reset : s.inReset = true) : exec c s = .next s := by
  obtain ⟨look, submits⟩ := exec_submits h
  rw [submits, submit_inReset p tag r look reset]

/-- No other command changes a block while hard reset lasts: it is without effect, but for the levels last observed and
for HSEL_N rising. -/
theorem Blank.exec (h : Blank t) (reset : t.inReset = true) {c : Instr} (hc : ∀ x y e, c ≠ .hardReset x y e) :
    exec c t = .next t ∨ (∃ g l, exec c t = .next (t.setLines g l)) ∨ exec c t = .next { t with hostRx := .idle } := by
  have segments := fun g => segmentExpiries_idle (h.segmentExpiry g)
  have slots := fun i => slotExpiries_idle (h.slotExpiry i)
  cases c with
  | hardReset x y e => exact absurd rfl (hc x y e)
  | define _ _ _ | activate _ _ _ | hold _ _ _ | retire _ _ _ | describe _ _ _ | read _ _ _ | readMany _ _ _ _
  | refresh _ _ _ | setLimits _ _ _ _ | write _ _ _ _ _ | cancel _ _ _ | nodeQuery _ _ _ _ | nodeList _ _ _ _
  | enable _ _ _ _ _ | disable _ _ _ | segmentRestart _ _ _ | setSpeed _ _ _ _ | scan _ _ _ _ _ | scanResult _ _ _ _
  | subscribe _ _ _ _ | fetch _ _ _ | ack _ _ _ | claim _ _ _ _ | release _ _ _ | status _ _ | time _ _ | clear _ _
  | portSet _ _ _ _ =>
    exact .inl (exec_request_inReset (by rfl) reset)
  | hostRequestTransaction bytes => exact .inl (exec_request_ignored reset)
  | hostResponseTransaction n => exact .inl (exec_response_ignored reset)
  | hostPortResync => exact .inr (.inr rfl)
  | consoleByteReceived b => exact .inl (by simp [Machine.exec, execConsoleByteReceived, h.assembly, reset])
  | consoleFramingError => exact .inl (by simp [Machine.exec, execConsoleFramingError, h.assembly])
  | consoleGapExpiry => exact .inl (gapExpiry_idle h.gapExpiry)
  | consoleResponseSent =>
    exact .inl (by simp [Machine.exec, execConsoleResponseSent, (h.ports .console).2, PortSlots.reset])
  | requestTaken lines arriving =>
    exact .inl (by simp [Machine.exec, execRequestTaken, unitChoice_none h.offers])
  | arbiterChoose g lines =>
    exact .inr (.inl ⟨g, lines, by
      simp [Machine.exec, execArbiterChoose, chooseWork_of_no_choice ((h.setLines g lines).hasChoice g)]⟩)
  | faFall g => exact .inr (.inl ⟨g, _, rfl⟩)
  | startAfterLineCheck g =>
    obtain ⟨lines, e⟩ := h.segment g
    exact .inl (by
      simp [Machine.exec, execStartAfterLineCheck, e, Segment.reset, Segment.checking, Segment.checkSince])
  | lineCheckExpiry g => exact .inl (segments g).1
  | holdAllowanceExpiry g => exact .inl (segments g).2.1
  | transactionLimitExpiry g => exact .inl (segments g).2.2.1
  | recoveryRetryExpiry g => exact .inl (segments g).2.2.2.1
  | alertSuppressionExpiry g => exact .inl (segments g).2.2.2.2.1
  | pollDueExpiry g => exact .inl (segments g).2.2.2.2.2
  | pollCompletion g levels | refreshPollCompletion g levels | guardCompletion g levels | writeCompletion g levels
  | verifyCompletion g levels | probeCompletion g levels | scanStepCompletion g levels =>
    exact .inl (congrArg _ (h.completeWith g _ levels))
  | rollCompletion g levels fa => exact .inl (by simp [Machine.exec, execRollCompletion, h.serving g])
  | recoveryAttemptEnd g reads =>
    obtain ⟨lines, e⟩ := h.segment g
    exact .inl (by simp [Machine.exec, execRecoveryAttemptEnd, e, Segment.reset, Segment.attempting])
  | clearEndTransaction g between levels =>
    obtain ⟨lines, e⟩ := h.segment g
    exact .inl (by simp [Machine.exec, execClearEndTransaction, e, Segment.reset, Segment.endingCleared])
  | staleExpiry i => exact .inl (slots i).2.2.1
  | ageCapExpiry i => exact .inl (slots i).2.2.2.1
  | dueCapExpiry i which => exact .inl ((slots i).2.2.2.2 which)
  | deadlineExpiry i => exact .inl (slots i).1
  | nextValueDeadlineExpiry i => exact .inl (slots i).2.1
  | probeExpiry g address => exact .inl (probeExpiry_idle h.probeExpiry g address)

end Blank

/-- Settles O4: hard reset makes the blocks blank, and blank blocks stay blank while it lasts. -/
theorem hardResetLeavesEveryBlockAtItsResetValue : Obligations.HardResetLeavesEveryBlockAtItsResetValue := by
  unfold Obligations.HardResetLeavesEveryBlockAtItsResetValue
  rintro laws lawsEq blocks rfl
  have lawful : ∀ {t}, Blank t → laws t := fun {t} h => by rw [lawsEq]; exact lawful_atReset h.atReset
  have whole : ∀ {t}, Blank t → _ := fun {t} (h : Blank t) =>
    And.intro h.clock (And.intro h.slots (And.intro h.directory (And.intro h.segment (And.intro h.ports
      (And.intro h.lastServed (And.intro h.hostRx (And.intro h.assembly (And.intro h.gapDue
        (And.intro h.pins (lawful h))))))))))
  refine ⟨lawful (blank_afterReset _ _ _ _ _ _), fun _ _ s => ⟨_, rfl, rfl, whole (blank_heldInReset s), ?_, rfl, ?_⟩,
    fun u c reset blocks hc => ?_, fun u reset blocks empty => ?_,
    fun x y z s => ⟨_, rfl, rfl, whole (blank_afterReset _ _ _ _ _ _), rfl, ?_, rfl, ?_⟩⟩
  · cases e : s.hostRx <;> simp [State.heldInReset, State.afterReset, e]
  · intro g
    cases g <;> rfl
  · obtain ⟨clock, slots, directory, segment, ports, lastServed, hostRx, assembly, gapDue, -⟩ := blocks
    have blank : Blank u := ⟨clock, slots, directory, segment, ports, lastServed, hostRx, assembly, gapDue⟩
    obtain e | ⟨g, l, e⟩ | e := blank.exec reset hc
    · exact ⟨_, e, reset, whole blank, rfl⟩
    · exact ⟨_, e, reset, whole (blank.setLines g l), rfl⟩
    · exact ⟨_, e, reset, whole blank.setHostIdle, rfl⟩
  · obtain ⟨clock, slots, directory, segment, ports, lastServed, hostRx, assembly, gapDue, -⟩ := blocks
    have blank : Blank u := ⟨clock, slots, directory, segment, ports, lastServed, hostRx, assembly, gapDue⟩
    simp [step_empty empty, idleStep, blank.nextEvent, reset]
  · cases x <;> cases y <;> rfl
  · intro g
    cases g <;> rfl

end Sys2Proof.Machine

/-! Codes and records (R188, R190), READ and the inquiries (R26, R50, R51, R102, R103, R144, R153, R172), and the room of a response
body (R187). -/
namespace Sys2Proof.Machine

set_option Elab.async false

/-! ### Optional fields (R188) -/

theorem optBytes32_eq (o : Option Value) : optBytes32 o = bytes32 (o.getD 0) := by cases o <;> rfl

theorem optBytes16_eq (o : Option Interval) : optBytes16 o = bytes16 (o.getD 0) := by cases o <;> rfl

theorem elim_map_getD {α : Type} (o : Option α) (f : α → Byte) : o.elim 0 f = (o.map f).getD 0 := by cases o <;> rfl

/-! ### Notification records (TABLES 11-7 and 11-8) -/

/-- A record that carries no handle has the kind alone at offset 0 (TABLE 11-7). -/
theorem record_of_place {seq : SeqNo} {t : Time} {n : Note} {kind place : Byte} (code : n.kindCode = kind)
    (at_ : n.place = (0, place)) : Entry.record ⟨seq, t, n⟩ = (kind <<< 4) :: place :: bytes32 t ++ n.payload := by
  have first : (kind <<< 4) ||| (0 : Byte) = kind <<< 4 := BitVec.or_zero
  rw [Entry.record, code, at_]
  exact congrArg (· :: place :: bytes32 t ++ n.payload) first

/-- Settles O18: each record by its kind, its place and its payload. -/
theorem notificationRecordsFollowTheirTables : Obligations.NotificationRecordsFollowTheirTables := by
  unfold Obligations.NotificationRecordsFollowTheirTables
  refine ⟨⟨rfl, rfl, rfl, rfl, rfl, rfl, rfl, rfl, rfl, rfl, rfl, fun _ _ => rfl, fun _ _ => rfl⟩, ?_⟩
  rintro seq t h v u q q' al al' n g x sa sb p cause ov cmd gives rfl system rfl
  refine ⟨rfl, ?_, rfl, ?_, ?_, rfl, rfl, rfl, rfl, ?_, ?_, rfl, rfl, record_of_place rfl rfl, record_of_place rfl rfl,
    record_of_place rfl rfl, ?_, record_of_place rfl rfl, record_of_place rfl rfl, ?_, record_of_place rfl rfl⟩
  · have plain : al.code ||| (al'.code <<< 2) ||| flagBit false 4 = al.code ||| (al'.code <<< 2) := BitVec.or_zero
    exact congrArg (fun b => (2 <<< 4 ||| h.generation.zeroExtend 8) :: BitVec.ofFin h.slot :: bytes32 t ++ (bytes32 v ++ [b])) plain
  · simp only [List.forall_mem_cons]
    exact ⟨rfl, rfl, rfl, rfl, by simp⟩
  · have plain : byteOfNat n <<< 5 = BitVec.ofNat 8 n <<< 5 := rfl
    exact congrArg (fun b => (4 <<< 4 ||| h.generation.zeroExtend 8) :: BitVec.ofFin h.slot :: bytes32 t ++ (bytes32 v ++ [b])) plain
  · have plain : (0 : Byte) ||| (q.code <<< 2) = q.code <<< 2 := BitVec.zero_or
    exact congrArg (fun b => (6 <<< 4 ||| h.generation.zeroExtend 8) :: BitVec.ofFin h.slot :: bytes32 t ++ (bytes32 v ++ [b])) plain
  · simp only [List.forall_mem_cons]
    exact ⟨rfl, rfl, rfl, by simp⟩
  · intro y c
    revert y
    simp only [List.forall_mem_cons]
    exact ⟨record_of_place rfl rfl, record_of_place rfl rfl, record_of_place rfl rfl, by simp⟩
  · cases ov <;> cases cmd <;> rfl

/-! ### READ (R50) -/

/-- A request that is answered and leaves the records alone (R50, R165). -/
theorem exec_answered {c : Instr} {p : Port} {tag : Byte} {r : Request} {s : State} {x : Status} {body : List Byte}
    (ready : s.ready p = true) (h : asRequest c = some (p, tag, r)) (fits : r.body.length ≤ bodyLimit)
    (hc : ∀ q u b x y, c ≠ .enable q u b x y) (carried : carryOut p r (s.served p) = (s.served p, ⟨x, body⟩)) :
    exec c s = .next (responded p tag ⟨x, body⟩ (s.served p)) := exec_of_ready h ready fits hc carried

theorem ageBytes_eq (pt : Point) (now : Time) :
    pt.ageBytes now = bytes16 (BitVec.ofNat 16 ((pt.value.map (·.age now)).getD 0)) := by
  unfold Point.ageBytes
  cases pt.value with
  | none => exact (by decide : ([0, 0] : List Byte) = bytes16 (BitVec.ofNat 16 0))
  | some v => rfl

theorem age_eq (v : StoredValue) (now : Time) :
    v.age now = if v.capped then 65535 else min 65535 ((now.toNat + 2 ^ 32 - v.time.toNat) % 2 ^ 32) := by
  rw [StoredValue.age, toNat_time_sub]

section Quality
variable {pt : Point} {now : Time}

theorem reportedQuality_of_failures (h : 4 ≤ pt.failures) : pt.reportedQuality now = .fault := if_pos h

theorem reportedQuality_eq (h : pt.failures < 4) : pt.reportedQuality now =
    if pt.command = none ∧ (pt.quality = .good ∨ pt.quality = .stale) ∧ pt.outlived now = true then .stale else pt.quality := by
  rw [Point.reportedQuality, if_neg (Nat.not_le.mpr h)]
  refine if_congr ?_ rfl rfl
  cases e : pt.command <;> simp [Point.isOutput, e]

theorem outlived_of_limit {v : StoredValue} {l : Interval} (value : pt.value = some v) (limit : pt.staleLimit = some l) :
    pt.outlived now = decide (l.toNat ≤ v.age now) := by
  rw [Point.outlived, value, limit]

theorem outlived_false (h : pt.value = none ∨ pt.staleLimit = none) : pt.outlived now = false := by
  unfold Point.outlived
  split
  · next value limit => simp [value, limit] at h
  · rfl

end Quality

/-- Settles O17. -/
theorem readReportsTheRecordAndNeverVouchesForAnOldOrFailingValue :
    Obligations.ReadReportsTheRecordAndNeverVouchesForAnOldOrFailingValue := by
  unfold Obligations.ReadReportsTheRecordAndNeverVouchesForAnOldOrFailingValue
  refine ⟨fun p tag i pt s ready hp => ?_, age_eq, fun pt now => ⟨reportedQuality_of_failures, ?_, ?_, ?_⟩⟩
  · refine exec_answered ready rfl (Nat.le_of_ble_eq_true rfl) (fun _ _ _ _ _ e => by cases e) ?_
    change withPoint (s.rawHandle i) (s.served p) _ = _
    rw [← served_rawHandle s p, withPoint_rawHandle (s := s.served p) hp]
    have command : pt.commandByte = (pt.command.map (·.stand.code.code)).getD 0 := elim_map_getD _ _
    simp only [answer, readBody, optBytes32_eq, ageBytes_eq, command]
    rfl
  · intro v l few input value limit quality
    rw [reportedQuality_eq few, outlived_of_limit value limit]
    exact ⟨fun old => if_pos ⟨input, quality, decide_eq_true old⟩,
      fun young => if_neg fun stale => absurd (of_decide_eq_true stale.2.2) (Nat.not_le.mpr young)⟩
  · intro few other
    rw [reportedQuality_eq few]
    refine if_neg ?_
    rintro ⟨input, quality, old⟩
    obtain e | e | e | e | e := other
    · rw [e] at quality; simp at quality
    · rw [e] at quality; simp at quality
    · exact e input
    · rw [outlived_false (.inl e)] at old; cases old
    · rw [outlived_false (.inr e)] at old; cases old
  · intro good
    have few : pt.failures < 4 := by
      by_contra many
      rw [reportedQuality_of_failures (Nat.not_lt.mp many)] at good
      cases good
    rw [reportedQuality_eq few] at good
    split at good
    · cases good
    · next young =>
      refine ⟨good, few, fun v l input value limit => ?_⟩
      rw [outlived_of_limit value limit] at young
      have age : v.age now < l.toNat := by
        by_contra old
        exact young ⟨input, .inl good, decide_eq_true (Nat.not_lt.mp old)⟩
      have room : l.toNat < 2 ^ 16 := l.isLt
      rw [age_eq] at age
      split at age
      · omega
      · next notCapped => exact ⟨Bool.eq_false_iff.mpr notCapped, by omega⟩

end Sys2Proof.Machine

/-! The inquiries (R26, R51, R102, R103, R144, R153, R172), and the room of a response body (R187). -/
namespace Sys2Proof.Machine

set_option Elab.async false

/-! ### Fields read back (TABLE 11-2) -/

theorem segmentOf_eq_none {b : Byte} (h : 2 ≤ b.toNat) : segmentOf b = none := by
  have notA : (b == 0) = false := beq_eq_false_iff_ne.mpr (by rintro rfl; simp at h)
  have notB : (b == 1) = false := beq_eq_false_iff_ne.mpr (by rintro rfl; simp at h)
  rw [segmentOf, notA, notB]
  rfl

theorem addressOf_eq_some {x : Byte} (low : 0x10 ≤ x.toNat) (high : x.toNat ≤ 0x6F) : addressOf x = some (x.truncate 7) := by
  simp [addressOf, nodeAddressInRange, low, high]

theorem addressOf_eq_none {x : Byte} (h : x.toNat < 0x10 ∨ 0x6F < x.toNat) : addressOf x = none := by
  have outside : nodeAddressInRange x.toNat = false := by
    simp only [nodeAddressInRange, Bool.and_eq_false_iff, decide_eq_false_iff_not]
    omega
  simp [addressOf, outside]

theorem truncate_toNat {x : Byte} (high : x.toNat ≤ 0x6F) : (x.truncate 7 : Address).toNat = x.toNat := by
  simp only [BitVec.truncate_eq_setWidth, BitVec.toNat_setWidth]
  omega

theorem nodeEntry?_key {s : State} {g : SegId} {x : Address} {e : NodeEntry} (h : s.nodeEntry? g x = some e) :
    e.segment = g ∧ e.address = x := by
  have key : e.hasKey g x = true := List.find?_some (p := fun e : NodeEntry => e.hasKey g x) h
  simpa [NodeEntry.hasKey] using key

/-! ### READ_MANY (R51) -/

theorem handle_matches (h : RawHandle) (g : BitVec 4) :
    (h.generation == g.zeroExtend 8) = decide (h.generation.toNat = g.toNat) := by
  have small : g.toNat < 2 ^ 4 := g.isLt
  rw [beq_eq_decide]
  refine decide_eq_decide.mpr ?_
  rw [← BitVec.toNat_inj]
  simp only [BitVec.truncate_eq_setWidth, BitVec.toNat_setWidth]
  rw [Nat.mod_eq_of_lt (by omega)]

theorem resolve_free {s : State} {h : RawHandle} (free : s.point? h.slot.toFin = none) : resolve h s = .error .badHandle := by
  simp [resolve, free]

theorem resolve_stale {s : State} {h : RawHandle} {pt : Point} (hp : s.point? h.slot.toFin = some pt)
    (stale : h.generation.toNat ≠ (s.generation h.slot.toFin).toNat) : resolve h s = .error .staleHandle := by
  simp [resolve, hp, handle_matches, stale]

theorem resolve_current {s : State} {h : RawHandle} {pt : Point} (hp : s.point? h.slot.toFin = some pt)
    (current : h.generation.toNat = (s.generation h.slot.toFin).toNat) : resolve h s = .ok (h.slot.toFin, pt) := by
  simp [resolve, hp, handle_matches, current]

/-! ### FETCH (R153, R190) -/

/-- What a FETCH returns is the front of the queue, the longest that the count, the queue and the room allow. -/
theorem fetchable_prefix (n room : Nat) (q : List Entry) :
    ∃ k, k ≤ n ∧ k ≤ q.length ∧ fetchable n room q = q.take k ∧ ((q.take k).flatMap Entry.record).length ≤ room ∧
      (k = n ∨ k = q.length ∨ room < ((q.take (k + 1)).flatMap Entry.record).length) := by
  induction n generalizing room q with
  | zero => exact ⟨0, Nat.le_refl 0, Nat.zero_le _, by simp [fetchable], by simp, .inl rfl⟩
  | succ n ih =>
    cases q with
    | nil => exact ⟨0, Nat.zero_le _, Nat.le_refl 0, by simp [fetchable], by simp, .inr (.inl rfl)⟩
    | cons e rest =>
      by_cases fits : e.record.length ≤ room
      · obtain ⟨k, few, short, same, inside, longest⟩ := ih (room - e.record.length) rest
        refine ⟨k + 1, by omega, by simp only [List.length_cons]; omega, by simp [fetchable, fits, same], ?_, ?_⟩
        · simp only [List.take_succ_cons, List.flatMap_cons, List.length_append]
          omega
        · simp only [List.take_succ_cons, List.flatMap_cons, List.length_append, List.length_cons]
          omega
      · refine ⟨0, Nat.zero_le _, Nat.zero_le _, by simp [fetchable, fits], by simp, .inr (.inr ?_)⟩
        simp only [List.take_succ_cons, List.take_zero, List.flatMap_cons, List.flatMap_nil, List.append_nil]
        omega

theorem firstSeqBytes_take (q : List Entry) (k : Nat) (h : k ≤ q.length) :
    firstSeqBytes (q.take k) = if k = 0 then [0, 0] else bytes16 ((q.head?.map (·.seq)).getD 0) := by
  cases k with
  | zero => rfl
  | succ k =>
    cases q with
    | nil => simp at h
    | cons e rest => rfl

/-- Settles O19: each inquiry's answer is its body, and the served state. -/
theorem inquiriesAnswerFromTheRecordsAndChangeNone : Obligations.InquiriesAnswerFromTheRecordsAndChangeNone := by
  unfold Obligations.InquiriesAnswerFromTheRecordsAndChangeNone
  rintro p tag s ready gives rfl handle rfl setByte rfl
  have short : ∀ {r : Request}, (∀ count handles, r ≠ .readMany count handles) → r.body.length ≤ bodyLimit :=
    fun {r} => Laws.Frames.short_body r
  refine ⟨?describe, ?readMany, ?nodes, ?nodeFields, ?scan, ?scanFields, ?fetch, ?fetchFields, ?status⟩
  case describe =>
    rintro i pt hp due rfl
    refine exec_answered ready rfl (short (by simp)) (by simp) ?_
    change withPoint (s.rawHandle i) (s.served p) _ = _
    rw [← served_rawHandle s p, withPoint_rawHandle (s := s.served p) hp]
    have due : (s.served p).nextDue i = (s.entryOf? pt.segment i).map (·.due.time) := by
      have entry : s.entry? i = s.entryOf? pt.segment i := by rw [State.entry?, hp]
      rw [← entry]
      rfl
    simp only [answer, describeBody, optBytes32_eq, optBytes16_eq, due]
    congr
    · exact elim_map_getD _ _
    · cases pt.inFlight with
      | none => rfl
      | some f => cases f with | mk kind startDue => cases kind <;> rfl
  case readMany =>
    intro count hs counted
    have few : hs.length ≤ 16 → ¬ (count.toNat = 0 ∨ 16 < count.toNat) ∨ hs.length = 0 := by omega
    refine ⟨fun some many result resultEq => ?_, fun none => ?_⟩
    · subst resultEq
      refine exec_answered ready rfl (Laws.Frames.readMany_body hs count (by omega)) (by simp) ?_
      change carryReadMany count hs (s.served p) = _
      rw [carryReadMany, if_neg (not_not_intro counted), if_neg (by omega)]
      refine congrArg (fun body => answer body (s.served p)) (congrArg hs.flatMap (funext fun h => ?_))
      rw [readManyResult]
      cases hp : s.point? h.slot.toFin with
      | none => rw [resolve_free (s := s.served p) hp]; rfl
      | some pt =>
        by_cases current : h.generation.toNat = (s.generation h.slot.toFin).toNat
        · rw [resolve_current (s := s.served p) hp current]
          simp only [current, if_true, optBytes32_eq]
          rfl
        · rw [resolve_stale (s := s.served p) hp current]
          simp only [current, if_false]
          rfl
    · refine exec_answered ready rfl (Laws.Frames.readMany_body hs count (by omega)) (by simp) ?_
      change carryReadMany count hs (s.served p) = _
      rw [carryReadMany, if_neg (not_not_intro counted), if_pos (by omega)]
      rfl
  case nodes =>
    intro b g x segment low high
    refine ⟨fun e found => ?_, fun none => ?_, fun l lEq => ?_⟩
    · refine exec_answered ready rfl (short (by simp)) (by simp) ?_
      change carryNodeQuery b x (s.served p) = _
      unfold carryNodeQuery
      rw [segment, addressOf_eq_some low high]
      have here : (s.served p).nodeEntry? g (x.truncate 7) = some e := found
      obtain ⟨sameSegment, sameAddress⟩ : e.segment = g ∧ e.address = x.truncate 7 :=
        nodeEntry?_key found
      have probed : flagBit true 0 ||| flagBit e.probeTime.isSome 1 = 1 ||| flagBit e.probe.isSome 1 := by
        rw [NodeEntry.probeTime, Option.isSome_map]
        rfl
      simp only [here, answer, nodeQueryBody, optBytes32_eq, probed]
      rw [sameSegment, sameAddress]
      rfl
    · refine exec_answered ready rfl (short (by simp)) (by simp) ?_
      change carryNodeQuery b x (s.served p) = _
      unfold carryNodeQuery
      rw [segment, addressOf_eq_some low high]
      have here : (s.served p).nodeEntry? g (x.truncate 7) = Option.none := none
      simp only [here]
      rfl
    · refine exec_answered ready rfl (short (by simp)) (by simp) ?_
      change carryNodeList b x (s.served p) = _
      unfold carryNodeList
      rw [segment, addressOf_eq_some low high]
      have listed : (s.served p).nodesFrom g (x.truncate 7) = l := by
        rw [lEq, State.nodesFrom, truncate_toNat high]
        exact List.filter_congr fun e _ => by simp [beq_eq_decide]
      have more : flagBit l[16]?.isSome 0 = if 16 < l.length then 1 else 0 := by
        by_cases h : 16 < l.length <;> simp [h, flagBit]
      simp only [listed, answer, nodeListBody, nodeListLimit, List.head?_drop, more, elim_map_getD]
      rfl
  case nodeFields =>
    intro b x outside
    have refused : segmentOf b = none ∨ addressOf x = none :=
      outside.imp segmentOf_eq_none addressOf_eq_none
    refine ⟨?_, ?_⟩
    · refine exec_answered ready rfl (short (by simp)) (by simp) ?_
      change carryNodeQuery b x (s.served p) = _
      unfold carryNodeQuery
      split
      · next h k => simp [h, k] at refused
      · rfl
    · refine exec_answered ready rfl (short (by simp)) (by simp) ?_
      change carryNodeList b x (s.served p) = _
      unfold carryNodeList
      split
      · next h k => simp [h, k] at refused
      · rfl
  case scan =>
    intro b g x found segment index foundEq range rangeEq
    subst rangeEq
    refine exec_answered ready rfl (short (by simp)) (by simp) ?_
    change carryScanResult b x (s.served p) = _
    unfold carryScanResult
    rw [segment]
    dsimp only
    rw [if_neg (by omega)]
    have scanEq : ((s.served p).segment g).scan = { state := (s.segment g).scan.state, found := found } := by
      rw [← foundEq]
      rfl
    simp only [scanEq, answer, scanResultBody]
    cases (s.segment g).scan.state <;> rfl
  case scanFields =>
    intro b x outside
    refine exec_answered ready rfl (short (by simp)) (by simp) ?_
    change carryScanResult b x (s.served p) = _
    unfold carryScanResult
    split
    · rfl
    · next g segment =>
      have index : 95 < x.toNat := outside.resolve_left fun two => by rw [segmentOf_eq_none two] at segment; cases segment
      rw [if_pos index]
      rfl
  case fetch =>
    intro n some few q qEq
    obtain ⟨k, counted, short', same, inside, longest⟩ := fetchable_prefix n.toNat fetchRoom q
    refine ⟨k, counted, short', inside, longest, ?_⟩
    refine exec_answered ready rfl (short (by simp)) (by simp) ?_
    change carryFetch p n (s.served p) = _
    have inRange : (decide (1 ≤ n.toNat) && decide (n.toNat ≤ 8)) = true := by simp [some, few]
    unfold carryFetch
    rw [if_pos inRange]
    have length : (q.take k).length = k := List.length_take_of_le short'
    have queue : ((s.served p).notifyOf p).queue = q := qEq.symm
    simp only [answer, fetchBody, queue, same, firstSeqBytes_take q k short', length]
    rfl
  case fetchFields =>
    intro n outside
    refine exec_answered ready rfl (short (by simp)) (by simp) ?_
    change carryFetch p n (s.served p) = _
    have notInRange : (decide (1 ≤ n.toNat) && decide (n.toNat ≤ 8)) = false := by
      obtain rfl | many := outside
      · rfl
      · simp [Nat.not_le.mpr many]
    unfold carryFetch
    rw [notInRange]
    rfl
  case status =>
    rintro count rfl segment rfl port rfl
    refine exec_answered ready rfl (short (by simp)) (by simp) ?_
    change carryStatus (s.served p) = _
    have retiring : ∀ pt : Point, pt.isRetiring = decide (pt.state ≠ .held ∧ pt.state ≠ .active) := fun pt => by
      unfold Point.isRetiring
      cases pt.state <;> rfl
    simp only [carryStatus, answer, statusBody, statusSegment, statusPort, elim_map_getD, funext retiring]
    rfl

/-! ### The room of a response body (R187) -/

/-- The body of a reply fits a frame. -/
def Carry.fits (c : Carry) : Prop := c.2.body.length ≤ 96

theorem fits_refuse (x : Status) (s : State) : (refuse x s).fits := Nat.zero_le 96

theorem fits_answer {body : List Byte} (h : body.length ≤ 96) (s : State) : (answer body s).fits := h

theorem fits_accepted {body : List Byte} (h : body.length ≤ 96) (s : State) : (answerAccepted body s).fits := h

theorem fits_ite {c : Prop} [Decidable c] {x y : Carry} (hx : c → x.fits) (hy : ¬ c → y.fits) : (if c then x else y).fits := by
  split
  · next h => exact hx h
  · next h => exact hy h

theorem fits_withPoint (h : RawHandle) {s : State} {k : SlotNo → Point → Carry} (hk : ∀ i pt, (k i pt).fits) :
    (withPoint h s k).fits := by
  unfold withPoint
  split
  · exact fits_refuse _ s
  · exact hk _ _

@[simp] theorem length_bytes16 (w : BitVec 16) : (bytes16 w).length = 2 := rfl

@[simp] theorem length_bytes32 (w : BitVec 32) : (bytes32 w).length = 4 := rfl

@[simp] theorem length_bytes16OfNat (n : Nat) : (bytes16OfNat n).length = 2 := rfl

@[simp] theorem length_optBytes16 (o : Option Interval) : (optBytes16 o).length = 2 := by cases o <;> rfl

@[simp] theorem length_optBytes32 (o : Option Value) : (optBytes32 o).length = 4 := by cases o <;> rfl

@[simp] theorem length_handle (h : Handle) : h.bytes.length = 2 := rfl

@[simp] theorem length_ageBytes (pt : Point) (now : Time) : (pt.ageBytes now).length = 2 := by
  rw [ageBytes_eq, length_bytes16]

@[simp] theorem length_readManyResult (s : State) (h : RawHandle) : (readManyResult s h).length = 6 := by
  unfold readManyResult
  split <;> simp

/-- A list written with `n` bytes for each of its members. -/
theorem length_flatMap_const {α : Type} (l : List α) {f : α → List Byte} {n : Nat} (h : ∀ a, (f a).length = n) :
    (l.flatMap f).length = n * l.length := by
  simp [List.length_flatMap, h, Nat.mul_comm]

section Fits
variable (p : Port) (h : RawHandle) (i : SlotNo) (pt : Point) (s : State)

theorem fits_define (f : DefineFields) : (carryDefine p f s).fits := by
  unfold carryDefine
  split
  · exact fits_refuse _ s
  · split
    · exact fits_refuse _ s
    · exact fits_answer (by simp) _

theorem fits_readMany (count : Byte) (handles : List RawHandle) : (carryReadMany count handles s).fits := by
  refine fits_ite (fun _ => fits_refuse _ s) fun counted => fits_ite (fun _ => fits_refuse _ s) fun few =>
    fits_answer ?_ s
  rw [length_flatMap_const handles (length_readManyResult s)]
  omega

theorem fits_setLimits (f : LimitsFields) : (carrySetLimits p h f s).fits := by
  refine fits_withPoint h fun i pt => fits_ite (fun _ => fits_refuse _ s) fun _ => fits_ite (fun _ => fits_refuse _ s)
    fun _ => fits_ite (fun _ => fits_refuse _ s) fun _ => ?_
  split
  · exact fits_refuse _ s
  · exact fits_answer (Nat.zero_le _) _

theorem fits_writePoint (v : Issued) (d : Option Time) : (writePoint i pt v d s).fits := by
  have fresh : (writeFresh i pt v d s).fits := fits_ite (fun _ => fits_answer (by simp) _) fun _ => fits_answer (by simp) _
  unfold writePoint
  split
  case h_1 | h_2 | h_3 | h_4 => exact fits_answer (by simp) _
  all_goals exact fresh

theorem fits_cancelPoint : (cancelPoint i pt s).fits := by
  unfold cancelPoint
  split
  case h_5 => exact fits_refuse _ s
  all_goals exact fits_answer (Nat.zero_le _) _

/-- An entry's points are at most 32 (R93), so a NODE_QUERY names no more. -/
theorem fits_nodeQuery (ok : s.directoryOk) (segment address : Byte) : (carryNodeQuery segment address s).fits := by
  unfold carryNodeQuery
  split
  · next g x _ _ =>
    split
    · exact fits_answer (by simp) _
    · next e found =>
      refine fits_answer ?_ _
      obtain ⟨counted, -, few⟩ := ok.2.2.1 e (List.mem_of_find?_eq_some found)
      have named : (s.slotsNaming e.segment e.address).length = s.pointsNaming e.segment e.address := by
        rw [State.slotsNaming, State.pointsNaming, List.countP_eq_length_filter]
        refine congrArg List.length (List.filter_congr fun j _ => ?_)
        unfold State.ident
        cases s.point? j <;> rfl
      have limit : e.points ≤ 32 := few
      simp only [nodeQueryBody, List.length_append, length_optBytes32, length_flatMap_const _ (fun i => length_handle (s.handle i)),
        named, ← counted, List.length_cons, List.length_nil]
      omega
  · exact fits_refuse _ s

theorem fits_nodeList (segment start : Byte) : (carryNodeList segment start s).fits := by
  unfold carryNodeList
  split
  · refine fits_answer ?_ _
    have listed : ∀ l : List NodeEntry, (nodeListBody l).length ≤ 66 := fun l => by
      have few : (l.take nodeListLimit).length ≤ 16 := List.length_take_le _ _
      simp only [nodeListBody, List.length_append, List.length_cons, List.length_nil,
        length_flatMap_const (n := 4) _ fun e : NodeEntry => (rfl : (nodeListEntry e).length = 4)]
      omega
    exact (listed _).trans (by omega)
  · exact fits_refuse _ s

theorem fits_segmentControl (segment action speed : Byte) : (carrySegmentControl segment action speed s).fits := by
  have two : ∀ (g : SegId) (t : State), (segmentBody g t).length ≤ 96 := fun g t => by simp [segmentBody]
  unfold carrySegmentControl
  split
  · unfold carryEnable
    split <;> exact fits_answer (two _ _) _
  · unfold carryDisable
    split <;> exact fits_answer (two _ _) _
  · unfold carryRestart
    split
    case h_1 | h_3 => exact fits_refuse _ s
    all_goals exact fits_accepted (two _ _) _
  · split
    · unfold carrySetSpeed
      split
      case h_1 => exact fits_answer (two _ _) _
      all_goals exact fits_refuse _ s
    · exact fits_refuse _ s
  · exact fits_refuse _ s

theorem fits_scan (segment low high : Byte) : (carryScan p segment low high s).fits := by
  unfold carryScan
  split
  · exact fits_ite (fun _ => fits_refuse _ s) fun _ => fits_ite (fun _ => fits_refuse _ s) fun _ =>
      fits_ite (fun _ => fits_refuse _ s) fun _ => fits_accepted (Nat.zero_le _) _
  · exact fits_refuse _ s

theorem fits_scanResult (segment index : Byte) : (carryScanResult segment index s).fits := by
  unfold carryScanResult
  split
  · exact fits_refuse _ s
  · next g _ =>
    refine fits_ite (fun _ => fits_refuse _ s) fun _ => fits_answer ?_ _
    have found : (((s.segment g).scan.found.drop index.toNat).take 64).length ≤ 64 := List.length_take_le _ _
    have range : (scanRangeBytes (s.segment g).scan.state).length = 3 := by cases (s.segment g).scan.state <;> rfl
    simp only [scanResultBody, List.length_append, List.length_cons, List.length_nil, List.length_map, range]
    omega

theorem fits_subscribe (set : Byte) : (carrySubscribe p h set s).fits := by
  refine fits_withPoint h fun i pt => fits_ite (fun _ => fits_refuse _ s) fun _ => ?_
  split
  · exact fits_refuse _ s
  · exact fits_answer (by simp) _

theorem fits_fetch (count : Byte) : (carryFetch p count s).fits := by
  refine fits_ite (fun _ => fits_answer ?_ s) fun _ => fits_refuse _ s
  obtain ⟨k, -, -, same, inside, -⟩ := fetchable_prefix count.toNat fetchRoom (s.notifyOf p).queue
  have room : (((s.notifyOf p).queue.take k).flatMap Entry.record).length ≤ 92 := inside
  have first : ∀ l, (firstSeqBytes l).length = 2 := fun l => by cases l <;> rfl
  simp only [fetchBody, same, List.length_append, first, List.length_cons, List.length_nil]
  omega

theorem fits_ack (seq : SeqNo) : (carryAck p seq s).fits := by
  unfold carryAck
  dsimp only
  split
  · exact fits_refuse _ s
  · exact fits_answer (by simp) _

theorem fits_claim (take : Byte) : (carryClaim p h take s).fits := by
  refine fits_withPoint h fun i pt => fits_ite (fun _ => fits_refuse _ s) fun _ => fits_ite (fun _ => ?_) fun _ =>
    fits_ite (fun _ => fits_refuse _ s) fun _ => fits_ite (fun _ => fits_answer (by simp) _) fun _ => fits_refuse _ s
  split
  · exact fits_refuse _ s
  · exact fits_ite (fun _ => fits_answer (by simp) _) fun _ => fits_answer (by simp) _

theorem fits_portSet (n e : Byte) : (carryPortSet p n e s).fits := by
  unfold carryPortSet
  split
  · exact fits_answer (by simp [portSetBody]) _
  · exact fits_refuse _ s

theorem fits_clear : (carryClear p s).fits := by
  unfold carryClear
  split
  · exact fits_refuse _ s
  · exact fits_answer (Nat.zero_le _) _

end Fits

/-- Settles O21: each body's bytes counted, the handles of a NODE_QUERY by the directory's law. -/
theorem responseBodiesFitAFrame : Obligations.ResponseBodiesFitAFrame := by
  unfold Obligations.ResponseBodiesFitAFrame
  intro p r s _ ok
  change (carryOut p r s).fits
  cases r with
  | define f => exact fits_define p s f
  | activate k | hold k | retire k =>
    exact fits_withPoint k fun i pt => fits_ite (fun _ => fits_refuse _ s) fun _ => fits_ite (fun _ => fits_refuse _ s)
      fun _ => fits_ite (fun _ => fits_answer (by simp) _) fun _ => fits_answer (by simp) _
  | describe k => exact fits_withPoint k fun i pt => fits_answer (by simp [describeBody]) s
  | read k => exact fits_withPoint k fun i pt => fits_answer (by simp [readBody]) s
  | readMany count handles => exact fits_readMany s count handles
  | refresh k =>
    exact fits_withPoint k fun i pt => fits_ite (fun _ => fits_refuse _ s) fun _ => fits_ite (fun _ => fits_refuse _ s)
      fun _ => fits_accepted (Nat.zero_le _) _
  | setLimits k f => exact fits_setLimits p k s f
  | write k v d =>
    exact fits_withPoint k fun i pt => fits_ite (fun _ => fits_refuse _ s) fun _ => fits_ite (fun _ => fits_refuse _ s)
      fun _ => fits_ite (fun _ => fits_refuse _ s) fun _ => fits_ite (fun _ => fits_refuse _ s)
      fun _ => fits_writePoint i pt s _ _
  | cancel k =>
    exact fits_withPoint k fun i pt => fits_ite (fun _ => fits_refuse _ s) fun _ => fits_ite (fun _ => fits_refuse _ s)
      fun _ => fits_ite (fun _ => fits_refuse _ s) fun _ => fits_cancelPoint i pt s
  | nodeQuery segment address => exact fits_nodeQuery s ok segment address
  | nodeList segment start => exact fits_nodeList s segment start
  | segmentControl segment action speed => exact fits_segmentControl s segment action speed
  | scan segment low high => exact fits_scan p s segment low high
  | scanResult segment index => exact fits_scanResult s segment index
  | subscribe k set => exact fits_subscribe p k s set
  | fetch count => exact fits_fetch p s count
  | ack seq => exact fits_ack p s seq
  | claim k take => exact fits_claim p k s take
  | release k =>
    exact fits_withPoint k fun i pt => fits_ite (fun _ => fits_refuse _ s) fun _ => fits_ite (fun _ =>
      fits_answer (by simp) _) fun _ => fits_refuse _ s
  | status => exact fits_answer (by simp [statusBody, statusSegment, statusPort]) s
  | time => exact fits_answer (by simp) s
  | clear => exact fits_clear p s
  | portSet n e => exact fits_portSet p s n e

end Sys2Proof.Machine

/-! DEFINE judged by its fields and its resources (R12, R13), and the tests of a request's point (R163, R164, R167). -/
namespace Sys2Proof.Machine

set_option Elab.async false

/-! ### The fields of DEFINE (R12) -/

theorem kindOf_eq_some (b : Byte) (o : Bool) : kindOf b = some o ↔ b = if o then 1 else 0 := by
  revert b o
  decide

theorem kindOf_eq_none (b : Byte) : kindOf b = none ↔ ¬ (b = 0 ∨ b = 1) := by
  revert b
  decide

theorem segmentOf_isSome (b : Byte) : (segmentOf b).isSome = true ↔ b = 0 ∨ b = 1 := by
  revert b
  decide

theorem widthOf_isSome (b : Byte) : (widthOf b).isSome = true ↔ b = 1 ∨ b = 2 ∨ b = 4 := by
  revert b
  decide

theorem addressOf_isSome (b : Byte) : (addressOf b).isSome = true ↔ 0x10 ≤ b.toNat ∧ b.toNat ≤ 0x6F := by
  unfold addressOf nodeAddressInRange
  split <;> simp_all

theorem highBits_clear (b : Byte) :
    (b &&& 0xE0 == 0) = true ↔ b.getLsbD 5 = false ∧ b.getLsbD 6 = false ∧ b.getLsbD 7 = false := by
  revert b
  decide

theorem inputSet_fits (b : Byte) : (subSetOf false b).isSome = true ↔ b.toNat < 8 := by
  revert b
  decide

theorem outputSet_fits (b : Byte) : (subSetOf true b).isSome = true ↔ b = 0 ∨ b = 4 ∨ b = 8 ∨ b = 12 := by
  revert b
  decide

theorem subOption_isSome (isOutput : Bool) (options set : Byte) : (subOption isOutput options set).isSome = true ↔
    (options.getLsbD 4 = true → (subSetOf isOutput set).isSome = true) ∧ (options.getLsbD 4 = false → set = 0) := by
  unfold subOption
  cases options.getLsbD 4 <;> by_cases h : set = 0 <;> simp [h]

/-- The checks of R12 on fields that are in range one by one. -/
theorem checkDefine_isSome (f : DefineFields) : (checkDefine f).isSome = true ↔
    ∃ o, kindOf f.kind = some o ∧ (segmentOf f.segment).isSome = true ∧ (addressOf f.address).isSome = true ∧
      (widthOf f.width).isSome = true ∧ (subOption o f.options f.subscriptions).isSome = true ∧
      (f.options &&& 0xE0 == 0) = true ∧ periodsFit o f.period f.staleLimit = true ∧
      optionsFit o (f.period != 0) (f.options.getLsbD 1) (f.options.getLsbD 2) = true := by
  unfold checkDefine
  cases kind : kindOf f.kind <;> cases segment : segmentOf f.segment <;> cases address : addressOf f.address <;>
    cases width : widthOf f.width <;> simp
  next o g x w =>
    cases subs : subOption o f.options f.subscriptions <;> simp [and_assoc]

theorem interval_eq_zero (w : Interval) : (w == 0) = true ↔ w = 0 := beq_iff_eq

/-- The periods and options of an INPUT (R12). -/
theorem inputFits (period stale : Interval) (alert restore : Bool) :
    (periodsFit false period stale = true ∧ optionsFit false (period != 0) alert restore = true) ↔
      (5 ≤ period.toNat ∧ period.toNat ≤ 60000 ∧ period.toNat < stale.toNat) ∧ restore = false := by
  cases alert <;> cases restore <;> simp [periodsFit, optionsFit, between, and_assoc]

/-- The periods and options of an OUTPUT (R12). -/
theorem outputFits (period stale : Interval) (alert restore : Bool) :
    (periodsFit true period stale = true ∧ optionsFit true (period != 0) alert restore = true) ↔
      ((period = 0 ∨ 50 ≤ period.toNat ∧ period.toNat ≤ 60000) ∧ stale = 0) ∧ (alert = true → period ≠ 0) ∧
        (restore = true → period ≠ 0) := by
  cases alert <;> cases restore <;> simp [periodsFit, optionsFit, between]

/-- The field conditions of DEFINE, one by one (R12, R188). -/
def FieldsFit (f : DefineFields) : Prop :=
  (f.kind = 0 ∨ f.kind = 1) ∧ (f.segment = 0 ∨ f.segment = 1) ∧ (0x10 ≤ f.address.toNat ∧ f.address.toNat ≤ 0x6F) ∧
    (f.width = 1 ∨ f.width = 2 ∨ f.width = 4) ∧
    (f.kind = 0 → 5 ≤ f.period.toNat ∧ f.period.toNat ≤ 60000 ∧ f.period.toNat < f.staleLimit.toNat) ∧
    (f.kind = 1 → (f.period = 0 ∨ 50 ≤ f.period.toNat ∧ f.period.toNat ≤ 60000) ∧ f.staleLimit = 0) ∧
    (f.options.getLsbD 1 = true → f.kind = 0 ∨ f.period ≠ 0) ∧
    (f.options.getLsbD 2 = true → f.kind = 1 ∧ f.period ≠ 0) ∧
    (f.options.getLsbD 5 = false ∧ f.options.getLsbD 6 = false ∧ f.options.getLsbD 7 = false) ∧
    (f.options.getLsbD 4 = true → f.kind = 0 → f.subscriptions.toNat < 8) ∧
    (f.options.getLsbD 4 = true → f.kind = 1 → f.subscriptions = 0 ∨ f.subscriptions = 4 ∨ f.subscriptions = 8 ∨
      f.subscriptions = 12) ∧
    (f.options.getLsbD 4 = false → f.subscriptions = 0)

theorem checkDefine_isSome_of_kind {f : DefineFields} {o : Bool} (kind : kindOf f.kind = some o) :
    (checkDefine f).isSome = true ↔ (f.segment = 0 ∨ f.segment = 1) ∧
      (0x10 ≤ f.address.toNat ∧ f.address.toNat ≤ 0x6F) ∧ (f.width = 1 ∨ f.width = 2 ∨ f.width = 4) ∧
      ((f.options.getLsbD 4 = true → (subSetOf o f.subscriptions).isSome = true) ∧
        (f.options.getLsbD 4 = false → f.subscriptions = 0)) ∧
      (f.options.getLsbD 5 = false ∧ f.options.getLsbD 6 = false ∧ f.options.getLsbD 7 = false) ∧
      periodsFit o f.period f.staleLimit = true ∧
      optionsFit o (f.period != 0) (f.options.getLsbD 1) (f.options.getLsbD 2) = true := by
  rw [checkDefine_isSome, kind, ← segmentOf_isSome, ← addressOf_isSome, ← widthOf_isSome, ← highBits_clear,
    ← subOption_isSome]
  constructor
  · rintro ⟨_, e, rest⟩
    obtain rfl := Option.some.inj e
    exact rest
  · exact fun rest => ⟨o, rfl, rest⟩

theorem checkDefine_isSome_iff (f : DefineFields) : (checkDefine f).isSome = true ↔ FieldsFit f := by
  have clash : (0 : Byte) ≠ 1 := by decide
  by_cases input : f.kind = 0
  · have output : f.kind ≠ 1 := fun e => clash (input.symm.trans e)
    rw [checkDefine_isSome_of_kind ((kindOf_eq_some f.kind false).mpr input), inputFits, inputSet_fits]
    constructor
    · rintro ⟨segment, address, width, ⟨set, plain⟩, high, periods, noRestore⟩
      exact ⟨.inl input, segment, address, width, fun _ => periods, fun e => absurd e output, fun _ => .inl input,
        fun restore => absurd (restore.symm.trans noRestore) (by decide), high, fun b _ => set b, fun _ e => absurd e output, plain⟩
    · rintro ⟨-, segment, address, width, periods, -, -, restore, high, set, -, plain⟩
      exact ⟨segment, address, width, ⟨fun b => set b input, plain⟩, high, periods input,
        Bool.eq_false_iff.mpr fun r => output (restore r).1⟩
  · by_cases output : f.kind = 1
    · rw [checkDefine_isSome_of_kind ((kindOf_eq_some f.kind true).mpr output), outputFits, outputSet_fits]
      constructor
      · rintro ⟨segment, address, width, ⟨set, plain⟩, high, periods, alert, restore⟩
        exact ⟨.inr output, segment, address, width, fun e => absurd e input, fun _ => periods, fun a => .inr (alert a),
          fun r => ⟨output, restore r⟩, high, fun _ e => absurd e input, fun b _ => set b, plain⟩
      · rintro ⟨-, segment, address, width, -, periods, alert, restore, high, -, set, plain⟩
        exact ⟨segment, address, width, ⟨fun b => set b output, plain⟩, high, periods output,
          fun a => (alert a).resolve_left input, fun r => (restore r).2⟩
    · have none : kindOf f.kind = Option.none := (kindOf_eq_none f.kind).mpr (not_or.mpr ⟨input, output⟩)
      refine iff_of_false ?_ fun fits => fits.1.elim input output
      rw [checkDefine_isSome, none]
      rintro ⟨_, e, -⟩
      cases e

/-! ### The resources of DEFINE (R13) -/

theorem carryDefine_badField {f : DefineFields} (h : checkDefine f = none) (p : Port) (s : State) :
    carryDefine p f s = refuse .badField s := by simp [carryDefine, h]

theorem carryDefine_refused {f : DefineFields} {d : Definition} {s : State} {x : Status} (h : checkDefine f = some d)
    (resources : defineResources d s = .error x) (p : Port) : carryDefine p f s = refuse x s := by
  simp [carryDefine, h, resources]

theorem lowestFree_eq_none {s : State} (h : ∀ i, s.point? i ≠ none) : s.lowestFree = none := by
  refine List.find?_eq_none.mpr fun i _ => ?_
  simpa using h i

theorem lowestFree_eq_some {s : State} (h : ∃ i, s.point? i = none) :
    ∃ i, s.lowestFree = some i ∧ s.point? i = none ∧ ∀ j, j < i → s.point? j ≠ none := by
  obtain ⟨free, hfree⟩ := h
  cases e : s.lowestFree with
  | none => exact absurd (List.find?_eq_none.mp e free (mem_allSlots free)) (by simp [hfree])
  | some i =>
    obtain ⟨first, ahead, behind, split, taken⟩ := List.find?_eq_some_iff_append.mp e
    refine ⟨i, rfl, by simpa using first, fun j below => ?_⟩
    have ordered : (ahead ++ i :: behind).Pairwise (· < ·) := split ▸ List.pairwise_lt_finRange 256
    have place : j ∈ ahead ∨ j ∈ i :: behind := List.mem_append.mp (split ▸ mem_allSlots j)
    obtain early | late := place
    · simpa [← Option.isSome_iff_ne_none] using taken j early
    · obtain rfl | later := List.mem_cons.mp late
      · exact absurd below (lt_irrefl _)
      · exact absurd below (not_lt.mpr ((List.pairwise_cons.mp (List.pairwise_append.mp ordered).2.1).1 j later).le)

theorem duplicate_iff (s : State) (g : SegId) (x : Address) (item : Byte) : s.duplicate g x item = true ↔
    ∃ j a, s.ident j = some a ∧ a.segment = g ∧ a.address = x ∧ a.item = item := by
  simp only [State.duplicate, List.any_eq_true, mem_allSlots, true_and]
  refine exists_congr fun j => ?_
  unfold State.ident
  cases s.point? j with
  | none => simp
  | some pt => simp [Point.names, Point.identity, and_assoc]

section Resources
variable {d : Definition} {s : State}

theorem defineResources_noSlot (h : s.lowestFree = none) : defineResources d s = .error .noSlot := by
  simp [defineResources, h]

theorem defineResources_duplicate {i : SlotNo} (free : s.lowestFree = some i)
    (h : s.duplicate d.segment d.address d.item = true) : defineResources d s = .error .duplicate := by
  simp [defineResources, free, h]

theorem defineResources_noNodeSlot {i : SlotNo} (free : s.lowestFree = some i)
    (single : s.duplicate d.segment d.address d.item = false) (entry : s.nodeEntry? d.segment d.address = none)
    (full : directoryCapacity ≤ s.directory.length) : defineResources d s = .error .noNodeSlot := by
  simp [defineResources, free, single, entry, full]

theorem defineResources_nodeFull {i : SlotNo} {e : NodeEntry} (free : s.lowestFree = some i)
    (single : s.duplicate d.segment d.address d.item = false) (entry : s.nodeEntry? d.segment d.address = some e)
    (full : nodePointLimit ≤ e.points) : defineResources d s = .error .nodeFull := by
  simp [defineResources, free, single, entry, full]

theorem defineResources_slot {i : SlotNo} (free : s.lowestFree = some i)
    (single : s.duplicate d.segment d.address d.item = false)
    (room : s.nodeEntry? d.segment d.address = none → s.directory.length < directoryCapacity)
    (few : ∀ e, s.nodeEntry? d.segment d.address = some e → e.points < nodePointLimit) : defineResources d s = .ok i := by
  cases entry : s.nodeEntry? d.segment d.address with
  | none => simp [defineResources, free, single, entry, Nat.not_le.mpr (room entry)]
  | some e => simp [defineResources, free, single, entry, Nat.not_le.mpr (few e entry)]

end Resources

/-- Settles O10. -/
theorem defineIsJudgedByItsFieldsThenItsResources : Obligations.DefineIsJudgedByItsFieldsThenItsResources := by
  unfold Obligations.DefineIsJudgedByItsFieldsThenItsResources
  refine ⟨fun f => ⟨checkDefine_isSome_iff f, fun h p s => carryDefine_badField h p s, fun _ _ => rfl⟩,
    fun p f d s check => ⟨fun full => carryDefine_refused check (defineResources_noSlot (lowestFree_eq_none full)) p,
      fun some => ?_⟩⟩
  obtain ⟨i, lowest, free, below⟩ := lowestFree_eq_some some
  refine ⟨fun same => carryDefine_refused check (defineResources_duplicate lowest ((duplicate_iff _ _ _ _).mpr same)) p,
    fun other => ?_⟩
  have single : s.duplicate d.segment d.address d.item = false :=
    Bool.eq_false_iff.mpr fun same => by
      obtain ⟨j, a, named, item⟩ := (duplicate_iff _ _ _ _).mp same
      exact other j a named item
  exact ⟨fun entry full => carryDefine_refused check (defineResources_noNodeSlot lowest single entry full) p,
    fun e entry full => carryDefine_refused check (defineResources_nodeFull lowest single entry full) p,
    fun room few => ⟨i, free, below, defineResources_slot lowest single room few⟩⟩

/-! ### The tests of a request's point (R163, R164, R167) -/

theorem mayChange_iff (pt : Point) (p : Port) : pt.mayChange p = true ↔ pt.owner ≠ some p.other := by
  unfold Point.mayChange
  cases pt.owner with
  | none => simp
  | some q => cases p <;> cases q <;> decide

theorem withPoint_error {h : RawHandle} {s : State} {x : Status} (e : resolve h s = .error x)
    (k : SlotNo → Point → Carry) : withPoint h s k = refuse x s := by simp [withPoint, e]

/-- A request that carries one handle begins with the tests of its slot and generation (R164). -/
theorem carryOut_of_resolve {p : Port} {h : RawHandle} {f : LimitsFields} {v : Value} {d : Interval} {b : Byte} {s : State}
    {r : Request} {x : Status} (hr : r ∈ [.activate h, .hold h, .retire h, .describe h, .read h, .refresh h, .setLimits h f,
      .write h v d, .cancel h, .claim h b, .release h, .subscribe h b]) (e : resolve h s = .error x) :
    carryOut p r s = refuse x s := by
  revert r
  simp only [List.forall_mem_cons]
  refine ⟨withPoint_error e _, withPoint_error e _, withPoint_error e _, withPoint_error e _, withPoint_error e _,
    withPoint_error e _, withPoint_error e _, withPoint_error e _, withPoint_error e _, withPoint_error e _,
    withPoint_error e _, withPoint_error e _, by simp⟩

/-- Settles O12. -/
theorem handleKindStateAndOwnerAreJudgedInOrder : Obligations.HandleKindStateAndOwnerAreJudgedInOrder := by
  unfold Obligations.HandleKindStateAndOwnerAreJudgedInOrder
  refine ⟨mayChange_iff, fun p h f v d b s r hr => ⟨fun free => carryOut_of_resolve hr (resolve_free free),
    fun taken stale => ?_⟩, fun p i pt f v d b s hp => ?_⟩
  · obtain ⟨pt, hp⟩ := Option.ne_none_iff_exists'.mp taken
    exact carryOut_of_resolve hr (resolve_stale hp stale)
  have at_ := fun k => withPoint_rawHandle hp k
  simp only [List.forall_mem_cons, carryOut, carryRefresh, carrySetLimits, carryWrite, carryCancel, carryActivate, carryHold,
    carryRetire, carryClaim, carryRelease, carrySubscribe, at_]
  have kind : pt.isOutput = decide (pt.command ≠ none) := by
    unfold Point.isOutput
    cases pt.command <;> rfl
  refine ⟨?_, ?_, fun q retiring => ⟨?_, ?_, ?_⟩, fun held input => ?_, fun owned stays => ?_⟩
  · simp +contextual [kind, refuse]
  · simp +contextual [kind, refuse]
  · have yes : pt.isRetiring = true := (isRetiring_iff pt).mpr ⟨q, retiring⟩
    simp [yes, refuse]
  · have yes : pt.isRetiring = true := (isRetiring_iff pt).mpr ⟨q, retiring⟩
    have no : pt.isActive = false := by simp [Point.isActive, retiring]
    simp +contextual [kind, yes, no, refuse]
  · have yes : pt.isRetiring = true := (isRetiring_iff pt).mpr ⟨q, retiring⟩
    simp +contextual [kind, yes, refuse]
  · simp [kind, input, isActive_of_held held, refuse]
  · have no : pt.isRetiring = false := isRetiring_eq_false stays
    have foreign : pt.mayChange p = false := Bool.eq_false_iff.mpr fun may => (mayChange_iff pt p).mp may owned
    refine ⟨?_, fun input => ?_, fun output => ?_⟩
    · simp [no, foreign, refuse]
    · simp [kind, input, no, foreign, refuse]
    · simp [kind, output, no, foreign, refuse]

end Sys2Proof.Machine

/-! What DEFINE, ACTIVATE, HOLD and RETIRE make of a point and of its place in the collections (R3, R11, R14 to R18, R21 to R23, R33,
R92). -/
namespace Sys2Proof.Machine

set_option Elab.async false

/-! ### DEFINE (R14) -/

theorem nodeBefore_iff (e f : NodeEntry) : e.before f = true ↔
    (e.segment = .a ∧ f.segment = .b) ∨ (e.segment = f.segment ∧ e.address.toNat < f.address.toNat) := by
  unfold NodeEntry.before
  cases e.segment <;> cases f.segment <;> simp

theorem addressOf_some {b : Byte} {x : Address} (h : addressOf b = some x) : x = b.extractLsb' 0 7 := by
  unfold addressOf at h
  split at h
  · obtain rfl := Option.some.inj h
    apply BitVec.eq_of_toNat_eq
    simp
  · cases h

theorem segmentOf_some {b : Byte} {g : SegId} (h : segmentOf b = some g) : g = if b = 0 then .a else .b := by
  revert b g
  unfold segmentOf
  intro b g h
  split at h
  · next e => obtain rfl := Option.some.inj h; rw [if_pos (by simpa using e)]
  · next e =>
    split at h
    · obtain rfl := Option.some.inj h; rw [if_neg (by simpa using e)]
    · cases h

theorem widthOf_some {b : Byte} {w : Width} (h : widthOf b = some w) :
    w = if b = 1 then .one else if b = 2 then .two else .four := by
  unfold widthOf at h
  split at h
  · next e => obtain rfl := Option.some.inj h; rw [if_pos (by simpa using e)]
  · next e =>
    split at h
    · next e' => obtain rfl := Option.some.inj h; rw [if_neg (by simpa using e), if_pos (by simpa using e')]
    · next e' =>
      split at h
      · obtain rfl := Option.some.inj h; rw [if_neg (by simpa using e), if_neg (by simpa using e')]
      · cases h

/-- With or without its option, the set is that of the byte (R12, R15, R188). -/
theorem subOption_some {o : Bool} {options set : Byte} {x : SubSet} (h : subOption o options set = some x) :
    x = SubSet.ofByte set := by
  unfold subOption at h
  split at h
  · unfold subSetOf at h
    rw [Option.ite_none_right_eq_some] at h
    exact (Option.some.inj h.2).symm
  · split at h
    · next zero =>
      obtain rfl := eq_of_beq zero
      exact (Option.some.inj h).symm
    · cases h

/-- What a DEFINE that passes its field checks fixes. -/
theorem checkDefine_fields {f : DefineFields} {d : Definition} (h : checkDefine f = some d) :
    ∃ o g x w, kindOf f.kind = some o ∧ segmentOf f.segment = some g ∧ addressOf f.address = some x ∧
      widthOf f.width = some w ∧ d =
        { isOutput := o, segment := g, address := x, item := f.item, width := w, signed := f.options.getLsbD 0
          alertDriven := f.options.getLsbD 1, restore := f.options.getLsbD 2, claim := f.options.getLsbD 3
          subscriptions := SubSet.ofByte f.subscriptions, period := optInterval f.period
          staleLimit := optInterval f.staleLimit } := by
  unfold checkDefine at h
  split at h
  · next o g x w kind segment address width =>
    split at h
    · cases h
    · next subs option =>
      split at h
      · refine ⟨o, g, x, w, kind, segment, address, width, ?_⟩
        rw [← subOption_some option]
        exact (Option.some.inj h).symm
      · cases h
  · cases h

theorem definePoint_eq (p : Port) (d : Definition) (i : SlotNo) (s : State) : definePoint p d i s =
    (s.setPoint i (Point.new p d)).setDirectory (match s.nodeEntry? d.segment d.address with
      | some _ => s.directory.map fun e => if e.hasKey d.segment d.address then { e with points := e.points + 1 } else e
      | none => insertNode
          { segment := d.segment, address := d.address, presence := .unconfirmed, points := 1, misses := 0, probe := none }
          s.directory) := by
  have entry : (s.setPoint i (Point.new p d)).nodeEntry? d.segment d.address = s.nodeEntry? d.segment d.address := rfl
  unfold definePoint addNodePoint
  rw [entry]
  cases s.nodeEntry? d.segment d.address <;> rfl

theorem optInterval_eq (w : Interval) : optInterval w = if w = 0 then none else some w := by simp [optInterval]

/-- Settles O11. -/
theorem defineCreatesAHeldPoint : Obligations.DefineCreatesAHeldPoint := by
  unfold Obligations.DefineCreatesAHeldPoint
  refine ⟨fun e l => ⟨nodeBefore_iff e, insertNode_splits e l⟩, fun p tag f d i s ready check resources => ?_⟩
  obtain ⟨o, g, x, w, kind, segment, address, width, dEq⟩ := checkDefine_fields check
  have carried : carryOut p (.define f) (s.served p) =
      answer (s.handle i).bytes (definePoint p d i (s.served p)) := by
    change carryDefine p f (s.served p) = _
    have taken : defineResources d (s.served p) = .ok i := resources
    simp only [carryDefine, check, taken]
    rfl
  have placed := exec_of_ready (c := .define p tag f) rfl ready (Nat.le_of_ble_eq_true rfl) (by simp) carried
  rw [definePoint_eq] at placed
  have command : (if o then some (Command.new (f.options.getLsbD 2)) else none) = if f.kind = 1 then
      some { stand := .noCommand, attempts := 0, confirmedValue := none, restore := f.options.getLsbD 2 } else none := by
    rw [(kindOf_eq_some f.kind o).mp kind]
    cases o <;> rfl
  subst dEq
  refine ⟨segmentOf_some segment, addressOf_some address, rfl, widthOf_some width, placed.trans ?_⟩
  simp only [Point.new, optInterval_eq, command]
  rfl

/-! ### The order of a schedule (R31, R33) -/

theorem entryBefore_iff (e f : SchedEntry) : e.before f = true ↔
    (e.due.capped = true ∧ f.due.capped = false) ∨ (e.due.capped = f.due.capped ∧
      (2 ^ 31 ≤ (e.due.time.toNat + 2 ^ 32 - f.due.time.toNat) % 2 ^ 32 ∨ (e.due.time = f.due.time ∧ e.slot < f.slot))) := by
  unfold SchedEntry.before
  rw [← toNat_time_sub]
  cases e.due.capped <;> cases f.due.capped <;> simp [earlierThan]

/-- A new entry stands behind those it does not come before, ahead of the next one. -/
theorem insertEntry_splits (e : SchedEntry) (l : List SchedEntry) :
    ∃ ahead behind, l = ahead ++ behind ∧ insertEntry e l = ahead ++ e :: behind ∧ (∀ f ∈ ahead, e.before f = false) ∧
      ∀ f, behind.head? = some f → e.before f = true := by
  induction l with
  | nil => exact ⟨[], [], rfl, rfl, by simp, by simp⟩
  | cons f l ih =>
    cases h : e.before f with
    | true => exact ⟨[], f :: l, rfl, by simp [insertEntry, h], by simp, by simpa using h⟩
    | false =>
      obtain ⟨ahead, behind, split, put, passed, next⟩ := ih
      refine ⟨f :: ahead, behind, by rw [split]; rfl, by simp [insertEntry, h, put], ?_, next⟩
      exact List.forall_mem_cons.mpr ⟨h, passed⟩

/-- Where an entry stands among those due within 2^31 ms of `base`: the capped ones first, then by due time, then by slot. -/
def SchedEntry.rank (base : Time) (e : SchedEntry) : Nat :=
  ((if e.due.capped then 0 else 2 ^ 31) + (e.due.time - base).toNat) * 256 + e.slot

theorem toNat_sub_of_base (t u base : Time) :
    (t - u).toNat = ((t - base).toNat + 2 ^ 32 - (u - base).toNat) % 2 ^ 32 := by
  rw [← toNat_time_sub]
  congr 1
  abel

theorem before_iff_rank {base : Time} {e f : SchedEntry} (he : (e.due.time - base).toNat < 2 ^ 31)
    (hf : (f.due.time - base).toNat < 2 ^ 31) : e.before f = true ↔ e.rank base < f.rank base := by
  have slots : e.slot.val < 256 ∧ f.slot.val < 256 := ⟨e.slot.isLt, f.slot.isLt⟩
  have same : e.due.time = f.due.time ↔ (e.due.time - base).toNat = (f.due.time - base).toNat := by
    rw [BitVec.toNat_inj, sub_left_inj]
  have order : e.slot < f.slot ↔ e.slot.val < f.slot.val := Iff.rfl
  rw [entryBefore_iff, ← toNat_time_sub, toNat_sub_of_base _ _ base, same, order]
  unfold SchedEntry.rank
  generalize (e.due.time - base).toNat = m at he
  generalize (f.due.time - base).toNat = n at hf
  cases e.due.capped <;> cases f.due.capped <;> simp only [Bool.false_eq_true, if_true, if_false, and_true, true_and,
    and_false, false_and, or_false, false_or, Bool.true_eq_false, false_iff, true_iff] <;> omega

/-- A schedule in its order stays so (R33). -/
theorem pairwise_insertEntry {base : Time} {e : SchedEntry} {l : List SchedEntry}
    (near : ∀ f ∈ e :: l, (f.due.time - base).toNat < 2 ^ 31) (other : ∀ f ∈ l, f.slot ≠ e.slot)
    (ordered : l.Pairwise fun f h => f.before h = true) : (insertEntry e l).Pairwise fun f h => f.before h = true := by
  have nearE := near e List.mem_cons_self
  have nearL : ∀ f ∈ l, (f.due.time - base).toNat < 2 ^ 31 := fun f hf => near f (List.mem_cons_of_mem e hf)
  obtain ⟨ahead, behind, rfl, put, passed, next⟩ := insertEntry_splits e l
  obtain ⟨first, second, across⟩ := List.pairwise_append.mp ordered
  have earlier : ∀ f ∈ ahead, f.before e = true := fun f hf => by
    have mem := List.mem_append_left behind hf
    have notBefore := Bool.eq_false_iff.mp (passed f hf)
    rw [Ne, before_iff_rank nearE (nearL f mem)] at notBefore
    rw [before_iff_rank (nearL f mem) nearE]
    have apart : f.slot.val ≠ e.slot.val := SlotNo.val_ne (other f mem)
    have slots : e.slot.val < 256 ∧ f.slot.val < 256 := ⟨e.slot.isLt, f.slot.isLt⟩
    unfold SchedEntry.rank at notBefore ⊢
    omega
  have later : ∀ f ∈ behind, e.before f = true := by
    cases behind with
    | nil => simp
    | cons k behind =>
      have head := next k rfl
      have nearK := nearL k (List.mem_append_right ahead List.mem_cons_self)
      refine List.forall_mem_cons.mpr ⟨head, fun f hf => ?_⟩
      have nearF := nearL f (List.mem_append_right ahead (List.mem_cons_of_mem k hf))
      have after := (List.pairwise_cons.mp second).1 f hf
      rw [before_iff_rank nearE nearK] at head
      rw [before_iff_rank nearK nearF] at after
      exact (before_iff_rank nearE nearF).mpr (head.trans after)
  rw [put]
  exact List.pairwise_append.mpr ⟨first, List.pairwise_cons.mpr ⟨later, second⟩, fun f hf =>
    List.forall_mem_cons.mpr ⟨earlier f hf, across f hf⟩⟩

end Sys2Proof.Machine

/-! A point's record and its segment replaced together (`State.put`), and ACTIVATE, HOLD and RETIRE by it (R11, R16 to R18, R21 to
R23). -/
namespace Sys2Proof.Machine

set_option Elab.async false

/-! ### One record and one segment -/

/-- The record of slot `i` and the segment `g` replaced. -/
def State.put (s : State) (i : SlotNo) (pt : Point) (g : SegId) (x : Segment) : State := (s.setPoint i pt).setSegment g x

section Put
variable (s : State) (i : SlotNo) (pt : Point) (g : SegId) (x : Segment)

theorem State.put_self {s : State} {i : SlotNo} {pt : Point} (h : s.point? i = some pt) (g : SegId) :
    s.put i pt g (s.segment g) = s := by rw [State.put, setPoint_self h, setSegment_self]

@[simp] theorem State.put_point : (s.put i pt g x).point? i = some pt := by simp [State.put]

@[simp] theorem State.put_segment : (s.put i pt g x).segment g = x := by simp [State.put]

@[simp] theorem State.put_clock : (s.put i pt g x).clock = s.clock := rfl

@[simp] theorem State.put_nodeLost (h : SegId) (y : Address) : (s.put i pt g x).nodeLost h y = s.nodeLost h y := rfl

@[simp] theorem State.put_generation (j : SlotNo) : (s.put i pt g x).generation j = s.generation j := by simp [State.put]

@[simp] theorem State.put_handle (j : SlotNo) : (s.put i pt g x).handle j = s.handle j := by
  rw [State.handle, State.put_generation, State.handle]

@[simp] theorem State.put_entryOf (j : SlotNo) : (s.put i pt g x).entryOf? g j = x.schedule.find? (·.slot == j) := by
  rw [State.entryOf?, State.put_segment]

@[simp] theorem State.put_modSegment (f : Segment → Segment) : (s.put i pt g x).modSegment g f = s.put i pt g (f x) := by
  simp [State.put, State.modSegment]

@[simp] theorem State.put_setPoint (pt' : Point) : (s.put i pt g x).setPoint i pt' = s.put i pt' g x := by
  rw [State.put, setPoint_setSegment, setPoint_setPoint, State.put]

@[simp] theorem State.put_modPoint (f : Point → Point) : (s.put i pt g x).modPoint i f = s.put i (f pt) g x := by
  rw [State.modPoint_of_some _ _ _ pt (by simp), State.put_setPoint]

@[simp] theorem modCommand_put (f : Command → Command) : modCommand i f (s.put i pt g x) = s.put i (pt.modCommand f) g x :=
  State.put_modPoint s i pt g x _

@[simp] theorem setStand_put (y : Stand) :
    setStand i y (s.put i pt g x) = s.put i (pt.modCommand fun c => { c with stand := y }) g x :=
  modCommand_put s i pt g x _

@[simp] theorem leaveSchedule_put :
    leaveSchedule g i (s.put i pt g x) = s.put i pt g { x with schedule := removeEntry i x.schedule } :=
  State.put_modSegment s i pt g x _

@[simp] theorem leaveQueue_put :
    leaveQueue g i (s.put i pt g x) = s.put i pt g { x with commandQueue := x.commandQueue.filter (· != i) } :=
  State.put_modSegment s i pt g x _

@[simp] theorem queueTail_put :
    queueTail g i (s.put i pt g x) = s.put i pt g { x with commandQueue := x.commandQueue ++ [i] } :=
  State.put_modSegment s i pt g x _

@[simp] theorem queueHead_put :
    queueHead g i (s.put i pt g x) = s.put i pt g { x with commandQueue := i :: x.commandQueue } :=
  State.put_modSegment s i pt g x _

theorem enterSchedule_put (d : Due) (h : x.schedule.find? (·.slot == i) = none) :
    enterSchedule g i d (s.put i pt g x) =
      s.put i pt g { x with schedule := insertEntry ⟨i, d, d.reachedAt s.clock⟩ x.schedule } := by
  simp [enterSchedule, h]

/-- The command state of a record, NONE without a command. -/
def Point.stand (pt : Point) : Stand := (pt.command.map (·.stand)).getD .noCommand

theorem stand_of_point {s : State} {i : SlotNo} {pt : Point} (h : s.point? i = some pt) : s.stand i = pt.stand := by
  cases command : pt.command <;> simp [State.stand, Point.stand, h, command]

@[simp] theorem stand_put : (s.put i pt g x).stand i = pt.stand := stand_of_point (State.put_point s i pt g x)

end Put

theorem wantsEntry_iff (s : State) (pt : Point) : s.wantsEntry pt = true ↔
    pt.state = .active ∧ pt.period ≠ none ∧ pt.inFlight = none ∧ s.nodeLost pt.segment pt.address = false := by
  simp [State.wantsEntry, Point.isActive, Point.scheduledKind, and_assoc, Option.isSome_iff_ne_none]

@[simp] theorem wantsEntry_put (s : State) (i : SlotNo) (pt pt' : Point) (g : SegId) (x : Segment) :
    (s.put i pt g x).wantsEntry pt' = s.wantsEntry pt' := rfl

/-- A re-entry of a point without an entry (R34). -/
theorem reenter_put (s : State) (i : SlotNo) (pt : Point) (x : Segment) (d : Due)
    (h : x.schedule.find? (·.slot == i) = none) :
    reenter i d (s.put i pt pt.segment x) = s.put i pt pt.segment { x with
      schedule := if s.wantsEntry pt then insertEntry ⟨i, d, d.reachedAt s.clock⟩ x.schedule else x.schedule } := by
  unfold reenter
  rw [State.put_point]
  dsimp only
  rw [wantsEntry_put]
  split
  · exact enterSchedule_put s i pt pt.segment x d h
  · rfl

/-! ### ACTIVATE (R16) -/

/-- What ACTIVATE makes of a command state: PENDING is QUEUED. -/
def Stand.activated : Stand → Stand
  | .pending v d => .queued v d
  | x => x

/-- The place that ACTIVATE gives a command in its queue. -/
def Stand.activatedPlace (i : SlotNo) : Stand → List SlotNo
  | .pending _ _ => [i]
  | _ => []

theorem modCommand_id (pt : Point) : pt.modCommand (fun c => { c with stand := pt.stand }) = pt := by
  have same : pt.command.map (fun c => { c with stand := pt.stand }) = pt.command := by
    unfold Point.stand
    cases pt.command <;> rfl
  exact congrArg (fun c => { pt with command := c }) same

theorem reachedAt_now (t : Time) : (⟨t, false⟩ : Due).reachedAt t = true := by
  simp [Due.reachedAt, reached]

theorem setPoint_setSegment_self (s : State) (i : SlotNo) (pt : Point) (g : SegId) :
    (s.setPoint i pt).setSegment g (s.segment g) = s.setPoint i pt := setSegment_self (s.setPoint i pt) g

theorem activatePoint_eq {s : State} {i : SlotNo} {pt : Point}
    (none : s.entryOf? pt.segment i = none) :
    activatePoint i pt s = s.put i
      ((pt.activated s.clock).modCommand fun c => { c with stand := pt.stand.activated }) pt.segment
      { s.segment pt.segment with
        schedule := if s.wantsEntry (pt.activated s.clock) then
            insertEntry ⟨i, ⟨s.clock, false⟩, true⟩ (s.segment pt.segment).schedule
          else (s.segment pt.segment).schedule
        commandQueue := (s.segment pt.segment).commandQueue ++ pt.stand.activatedPlace i } := by
  have started : s.setPoint i (pt.activated s.clock) = s.put i (pt.activated s.clock) pt.segment (s.segment pt.segment) := by
    rw [State.put, setPoint_setSegment_self]
  have entered := reenter_put s i (pt.activated s.clock) (s.segment pt.segment) ⟨s.clock, false⟩ none
  rw [reachedAt_now] at entered
  unfold activatePoint
  dsimp only
  rw [started]
  change queuePending i pt (reenter i ⟨s.clock, false⟩ (s.put i (pt.activated s.clock) (pt.activated s.clock).segment _)) = _
  rw [entered]
  have kept : (pt.activated s.clock).stand = pt.stand := rfl
  have same := modCommand_id (pt.activated s.clock)
  unfold queuePending
  rw [stand_put, kept]
  rw [kept] at same
  cases hs : pt.stand with
  | pending v d => simp only [setStand_put]; exact queueTail_put _ _ _ _ _
  | _ =>
    rw [hs] at same
    simp only [Stand.activated, Stand.activatedPlace, List.append_nil, same]
    rfl

theorem modCommand_stand_eq (pt : Point) (f : Stand → Stand) :
    pt.modCommand (fun c => { c with stand := f pt.stand }) = pt.modCommand (fun c => { c with stand := f c.stand }) := by
  unfold Point.modCommand Point.stand
  cases pt.command <;> rfl

/-- Settles O13. -/
theorem activateMakesAHeldPointActive : Obligations.ActivateMakesAHeldPointActive := by
  unfold Obligations.ActivateMakesAHeldPointActive
  refine ⟨fun e l => ⟨entryBefore_iff e, insertEntry_splits e l, fun base near other ordered =>
    pairwise_insertEntry near other ordered⟩, fun p tag i pt s ready hp may => ⟨fun held none => ?_, fun active => ?_⟩⟩
  · have carried : carryOut p (.activate (s.rawHandle i)) (s.served p) = answer [] (activatePoint i pt (s.served p)) := by
      change withPoint ((s.served p).rawHandle i) (s.served p) _ = _
      rw [withPoint_rawHandle (s := s.served p) hp]
      simp [not_retiring_of_held held, may, isActive_of_held held]
    rw [exec_of_ready (c := .activate p tag (s.rawHandle i)) rfl ready (Nat.le_of_ble_eq_true rfl) (by simp) carried,
      activatePoint_eq (s := s.served p) none]
    have command : (pt.activated s.clock).modCommand (fun c => { c with stand := pt.stand.activated }) =
        (pt.activated s.clock).modCommand fun c => { c with stand := c.stand.activated } :=
      modCommand_stand_eq (pt.activated s.clock) Stand.activated
    have wants : (s.served p).wantsEntry (pt.activated (s.served p).clock) = true ↔
        pt.period ≠ Option.none ∧ pt.inFlight = Option.none ∧ s.nodeLost pt.segment pt.address = false := by
      rw [wantsEntry_iff]
      exact and_iff_right rfl
    rw [stand_of_point hp, if_congr wants rfl rfl, State.served_clock, command]
    rfl
  · have carried : carryOut p (.activate (s.rawHandle i)) (s.served p) = answer [] (s.served p) := by
      change withPoint ((s.served p).rawHandle i) (s.served p) _ = _
      rw [withPoint_rawHandle (s := s.served p) hp]
      simp [not_retiring_of_active active, may, Point.isActive, active]
    exact exec_of_ready rfl ready (Nat.le_of_ble_eq_true rfl) (by simp) carried

/-! ### HOLD (R18) -/

/-- The point HELD, out of its collections, its command state `x`. -/
def State.heldAs (s : State) (i : SlotNo) (pt : Point) (x : Stand) : State :=
  s.put i (pt.heldNow.modCommand fun c => { c with stand := x }) pt.segment
    { s.segment pt.segment with
      schedule := removeEntry i (s.segment pt.segment).schedule
      commandQueue := if pt.stand.isQueued then (s.segment pt.segment).commandQueue.filter (· != i)
        else (s.segment pt.segment).commandQueue }

/-- What HOLD makes of a command state whose verification it does not skip: QUEUED is PENDING. -/
def Stand.held : Stand → Stand
  | .queued v d => .pending v d
  | x => x

section Hold
variable {s : State} {i : SlotNo} {pt : Point}

theorem heldAs_self (h : pt.stand.isQueued = false) :
    leaveSchedule pt.segment i (s.setPoint i pt.heldNow) = s.heldAs i pt pt.stand := by
  have same := modCommand_id pt.heldNow
  rw [show pt.heldNow.stand = pt.stand from rfl] at same
  have started : s.setPoint i pt.heldNow = s.put i pt.heldNow pt.segment (s.segment pt.segment) :=
    (setPoint_setSegment_self s i pt.heldNow pt.segment).symm
  rw [started, leaveSchedule_put, State.heldAs, same, h]
  rfl

theorem stand_of_some {pt : Point} {c : Command} (h : pt.command = some c) : pt.stand = c.stand := by
  simp [Point.stand, h]

theorem stand_of_none {pt : Point} (h : pt.command = none) : pt.stand = .noCommand := by simp [Point.stand, h]

theorem awaitsVerify_iff (pt : Point) : pt.awaitsVerify = true ↔
    ∃ v next, pt.stand = .verifying v next ∧ ∀ f, pt.inFlight = some f → f.kind ≠ .verify := by
  cases command : pt.command with
  | none => simp [Point.awaitsVerify, command, stand_of_none command]
  | some c =>
    rw [stand_of_some command]
    cases stand : c.stand <;> cases flight : pt.inFlight <;> simp [Point.awaitsVerify, command, stand, flight]

theorem setPoint_heldNow_point (s : State) (i : SlotNo) (pt : Point) :
    (leaveSchedule pt.segment i (s.setPoint i pt.heldNow)).stand i = pt.stand := by
  have started : s.setPoint i pt.heldNow = s.put i pt.heldNow pt.segment (s.segment pt.segment) :=
    (setPoint_setSegment_self s i pt.heldNow pt.segment).symm
  rw [started, leaveSchedule_put, stand_put]
  rfl

theorem holdPoint_plain (h : pt.awaitsVerify = false) : holdPoint i pt s = s.heldAs i pt pt.stand.held := by
  unfold holdPoint holdCommand
  rw [setPoint_heldNow_point]
  cases stand : pt.stand with
  | queued v d =>
    have started : s.setPoint i pt.heldNow = s.put i pt.heldNow pt.segment (s.segment pt.segment) :=
      (setPoint_setSegment_self s i pt.heldNow pt.segment).symm
    dsimp only
    rw [started, leaveSchedule_put, leaveQueue_put, setStand_put, State.heldAs, stand]
    rfl
  | verifying v next =>
    have same := heldAs_self (s := s) (i := i) (pt := pt) (by rw [stand]; rfl)
    rw [stand] at same
    simp only [h]
    exact same
  | _ =>
    have same := heldAs_self (s := s) (i := i) (pt := pt) (by rw [stand]; rfl)
    rw [stand] at same
    exact same

theorem holdPoint_skipped (h : pt.awaitsVerify = true) : holdPoint i pt s = notAnAttempt i (s.heldAs i pt pt.stand) := by
  obtain ⟨v, next, stand, -⟩ := (awaitsVerify_iff pt).mp h
  unfold holdPoint holdCommand
  rw [setPoint_heldNow_point, heldAs_self (by rw [stand]; rfl), stand]
  simp only [h, if_true]

end Hold

/-! ### A step undone on a HELD point (R18, R80) -/

@[simp] theorem Point.modCommand_modCommand (pt : Point) (f h : Command → Command) :
    (pt.modCommand f).modCommand h = pt.modCommand (h ∘ f) := by simp [Point.modCommand]

theorem modCommand_modCommand (i : SlotNo) (f h : Command → Command) (s : State) :
    modCommand i h (modCommand i f s) = modCommand i (h ∘ f) s := by
  have composed : (fun pt => Point.modCommand pt h) ∘ (fun pt => Point.modCommand pt f) = (·.modCommand (h ∘ f)) :=
    funext fun pt => pt.modCommand_modCommand f h
  rw [modCommand, modCommand, modPoint_modPoint, composed, modCommand]

theorem setStand_modCommand (i : SlotNo) (y : Stand) (f : Command → Command) (s : State) :
    setStand i y (modCommand i f s) = modCommand i (fun c => { f c with stand := y }) s := modCommand_modCommand i f _ s

theorem waitAgain_held {s : State} {i : SlotNo} {pt : Point} (hp : s.point? i = some pt) (h : pt.isActive = false)
    (v : Issued) (d : Option Time) : waitAgain i v d s = setStand i (.pending v d) s := by
  simp [waitAgain, hp, h]

/-- A next value takes the desired value's place on a HELD point (R80, R82). -/
theorem promote_held {s : State} {i : SlotNo} {pt : Point} (hp : s.point? i = some pt) (h : pt.isActive = false)
    (nv : NextValue) : promote i nv s = if nv.expired then
      closeCommand i nv.issued (.failed .expired 0)
        (modCommand i (fun c => { c with stand := .failed nv.issued .expired, attempts := 0 }) s)
    else modCommand i (fun c => { c with stand := .pending nv.issued nv.deadline, attempts := 0 }) s := by
  have reset : (modCommand i (fun c => { c with attempts := 0 }) s).point? i =
      some (pt.modCommand fun c => { c with attempts := 0 }) := by simp [modCommand, hp]
  unfold promote
  dsimp only
  rw [waitAgain_held reset h, setStand_modCommand, setStand_modCommand]

theorem heldAs_point (s : State) (i : SlotNo) (pt : Point) (x : Stand) :
    (s.heldAs i pt x).point? i = some (pt.heldNow.modCommand fun c => { c with stand := x }) := State.put_point _ _ _ _ _

theorem setStand_heldAs (s : State) (i : SlotNo) (pt : Point) (x y : Stand) :
    setStand i y (s.heldAs i pt x) = s.heldAs i pt y := by
  rw [State.heldAs, setStand_put, Point.modCommand_modCommand]
  rfl

theorem heldAs_stand {s : State} {i : SlotNo} {pt : Point} (h : pt.command ≠ none) (x : Stand) :
    (s.heldAs i pt x).stand i = x := by
  obtain ⟨c, hc⟩ := Option.ne_none_iff_exists'.mp h
  rw [State.heldAs, stand_put]
  simp [Point.stand, Point.modCommand, Point.heldNow, hc]

/-- Settles O14. -/
theorem holdTakesAnActivePointOutOfService : Obligations.HoldTakesAnActivePointOutOfService := by
  unfold Obligations.HoldTakesAnActivePointOutOfService
  intro p tag i pt s ready hp may
  rw [stand_of_point hp]
  refine ⟨awaitsVerify_iff pt, fun held => ?_, fun active w wEq => ?_⟩
  · have carried : carryOut p (.hold (s.rawHandle i)) (s.served p) = answer [] (s.served p) := by
      change withPoint ((s.served p).rawHandle i) (s.served p) _ = _
      rw [withPoint_rawHandle (s := s.served p) hp]
      simp [not_retiring_of_held held, may, isActive_of_held held]
    exact exec_of_ready rfl ready (Nat.le_of_ble_eq_true rfl) (by simp) carried
  · have carried : carryOut p (.hold (s.rawHandle i)) (s.served p) = answer [] (holdPoint i pt (s.served p)) := by
      change withPoint ((s.served p).rawHandle i) (s.served p) _ = _
      rw [withPoint_rawHandle (s := s.served p) hp]
      simp [not_retiring_of_active active, may, Point.isActive, active]
    have run := exec_of_ready (c := .hold p tag (s.rawHandle i)) rfl ready (Nat.le_of_ble_eq_true rfl) (by simp) carried
    have form : ∀ x, w x = (s.served p).heldAs i pt x := fun x => by
      rw [wEq, State.heldAs, State.put, removeEntry, filter_slot_bne, filter_bne]
      cases pt.stand <;> rfl
    have closed : ∀ v x, ∃ pt', (closeCommand i v .superseded ((s.served p).heldAs i pt x)).point? i = some pt' ∧
        pt'.isActive = false := fun v x => by
      obtain ⟨m, hm⟩ := (noted_closeCommand i v .superseded _).point_self (heldAs_point (s.served p) i pt x)
      exact ⟨_, hm, rfl⟩
    refine ⟨fun plain => ?_, fun v skipped verifying => ?_, fun v nv skipped verifying => ?_⟩
    · rw [run, holdPoint_plain plain, form]
      rfl
    · have command : pt.command ≠ none := fun none => by rw [stand_of_none none] at verifying; cases verifying
      rw [run, holdPoint_skipped skipped, verifying, form, notAnAttempt, heldAs_stand command]
      simp only [Stand.delivering, stepUndone]
      rw [waitAgain_held (heldAs_point _ i pt _) rfl, setStand_heldAs]
    · have command : pt.command ≠ none := fun none => by rw [stand_of_none none] at verifying; cases verifying
      obtain ⟨pt', closedPoint, inactive⟩ := closed v (.verifying v (some nv))
      rw [run, holdPoint_skipped skipped, verifying, form, notAnAttempt, heldAs_stand command]
      simp only [Stand.delivering, stepUndone]
      rw [promote_held closedPoint inactive]

end Sys2Proof.Machine

/-! RETIRE and the freeing procedure (R3, R11, R21 to R23, R92). -/
namespace Sys2Proof.Machine

set_option Elab.async false

theorem markToSystem_eq (pt : Point) (p : Port) (s : State) : markToSystem pt p s =
    s.setNotify p { s.notifyOf p with systemMark := (s.notifyOf p).systemMark || pt.marks.get p } := by
  unfold markToSystem
  split
  · next h => rw [h, Bool.or_true]
  · next h => rw [Bool.eq_false_iff.mpr h, Bool.or_false]; exact (setNotify_self s p).symm

/-- The freeing procedure, field by field (R3, R11, R92). -/
theorem freeSlot_eq {s : State} {i : SlotNo} {pt : Point} (hp : s.point? i = some pt) : freeSlot i s =
    { s with
      slots := s.slots.set i { generation := s.generation i + 1, point := none }
      segments := s.segments.set pt.segment
        { s.segment pt.segment with
          schedule := (s.segment pt.segment).schedule.filter (·.slot ≠ i)
          commandQueue := (s.segment pt.segment).commandQueue.filter (· ≠ i) }
      notify :=
        ⟨{ s.notify.host with systemMark := s.notify.host.systemMark || pt.marks.host },
         { s.notify.console with systemMark := s.notify.console.systemMark || pt.marks.console }⟩
      directory :=
        (s.directory.map fun e => if e.hasKey pt.segment pt.address then { e with points := e.points - 1 } else e).filter
          fun e => !(e.hasKey pt.segment pt.address && e.points == 0) } := by
  have left : leaveQueue pt.segment i (leaveSchedule pt.segment i s) = s.setSegment pt.segment
      { s.segment pt.segment with
        schedule := (s.segment pt.segment).schedule.filter (·.slot ≠ i)
        commandQueue := (s.segment pt.segment).commandQueue.filter (· ≠ i) } := by
    rw [leaveQueue, leaveSchedule, modSegment_modSegment, ← filter_slot_bne, ← filter_bne]
    rfl
  unfold freeSlot
  rw [hp]
  dsimp only
  rw [left, markToSystem_eq, markToSystem_eq]
  rfl

/-- RETIRE's notifications: each open value's, the desired one's first (R22, R23). -/
theorem withdrawNotes_eq (i : SlotNo) (s : State) :
    withdrawNotes i s = (s.stand i).openValues.foldl (fun t v => closeCommand i v .withdrawn t) s := by
  unfold withdrawNotes
  cases s.stand i with
  | writing v next => cases next <;> rfl
  | verifying v next => cases next <;> rfl
  | _ => rfl

/-- Settles O15. -/
theorem retireFreesTheSlotNowOrLater : Obligations.RetireFreesTheSlotNowOrLater := by
  unfold Obligations.RetireFreesTheSlotNowOrLater
  refine ⟨fun p tag i pt s ready hp stays may w wEq => ?_, fun i pt s hp => freeSlot_eq hp⟩
  have noted : Noted i (s.served p) w := by
    rw [wEq]
    exact withdrawNotes_eq i (s.served p) ▸ noted_withdrawNotes i (s.served p)
  have withdrawn : withdrawNotes i (s.served p) = w := (withdrawNotes_eq i (s.served p)).trans wEq.symm
  have carried : carryOut p (.retire (s.rawHandle i)) (s.served p) = if pt.inFlight.isNone then answer [0] (freeSlot i w)
      else answer [1] ((leaveQueue pt.segment i w).modPoint i (·.retiringNow p)) := by
    change withPoint ((s.served p).rawHandle i) (s.served p) _ = _
    rw [withPoint_rawHandle (s := s.served p) hp]
    simp only [isRetiring_eq_false stays, may, Bool.not_true, Bool.false_eq_true, if_false, retireNow, retireLater, withdrawn]
  refine ⟨fun idle => ?_, fun busy => ?_⟩
  · rw [idle] at carried
    exact exec_of_ready rfl ready (Nat.le_of_ble_eq_true rfl) (by simp) carried
  · obtain ⟨m, marked⟩ := noted.point_self hp
    refine ⟨m, marked, ?_⟩
    rw [if_neg (by simpa using busy)] at carried
    rw [exec_of_ready (c := .retire p tag (s.rawHandle i)) rfl ready (Nat.le_of_ble_eq_true rfl) (by simp) carried]
    have form : leaveQueue pt.segment i w = w.setSegment pt.segment
        { s.segment pt.segment with commandQueue := (s.segment pt.segment).commandQueue.filter (· ≠ i) } := by
      rw [leaveQueue, State.modSegment, noted.segment, filter_bne]
      rfl
    have point : (leaveQueue pt.segment i w).point? i = some { pt with marks := m } := marked
    rw [State.modPoint_of_some _ _ _ _ point, form, setPoint_setSegment]
    rfl

end Sys2Proof.Machine

/-! REFRESH and SET_LIMITS (R52, R53, R63 to R65). -/
namespace Sys2Proof.Machine

set_option Elab.async false

/-! ### A request of a point -/

/-- A point's request of a ready port, carried out in the state in which the port is served. -/
theorem exec_carried {c : Instr} {p : Port} {tag : Byte} {r : Request} {s : State} {x : Carry} (ready : s.ready p = true)
    (h : asRequest c = some (p, tag, r)) (hr : ∀ count handles, r ≠ .readMany count handles)
    (hc : ∀ q u b x y, c ≠ .enable q u b x y) (carried : carryOut p r (s.served p) = x) :
    exec c s = .next (responded p tag x.2 x.1) := exec_of_ready h ready (Laws.Frames.short_body r hr) hc carried

/-- The point that a request's handle names, in the state in which the port is served. -/
theorem withPoint_served {s : State} {i : SlotNo} {pt : Point} (hp : s.point? i = some pt) (p : Port)
    (k : SlotNo → Point → Carry) : withPoint (s.rawHandle i) (s.served p) k = k i pt :=
  withPoint_rawHandle (s := s.served p) hp k

theorem isOutput_iff (pt : Point) : pt.isOutput = true ↔ pt.command ≠ none := by
  simp [Point.isOutput, Option.isSome_iff_ne_none]

theorem isOutput_eq_false (pt : Point) : pt.isOutput = false ↔ pt.command = none := by simp [Point.isOutput]

/-! ### REFRESH (R52, R53) -/

theorem find?_removeEntry_self (i : SlotNo) (l : List SchedEntry) : (removeEntry i l).find? (·.slot == i) = none := by
  refine List.find?_eq_none.mpr fun e he => ?_
  simpa using (List.mem_filter.mp he).2

theorem moveToNow_put (s : State) (i : SlotNo) (pt : Point) (g : SegId) (x : Segment) :
    moveToNow g i (s.put i pt g x) =
      s.put i pt g { x with schedule := insertEntry ⟨i, ⟨s.clock, false⟩, true⟩ (removeEntry i x.schedule) } := by
  have entered := enterSchedule_put s i pt g { x with schedule := removeEntry i x.schedule } ⟨s.clock, false⟩
    (find?_removeEntry_self i x.schedule)
  rw [reachedAt_now] at entered
  unfold moveToNow
  rw [leaveSchedule_put]
  exact entered

theorem modPoint_eq_put {s : State} {i : SlotNo} {pt : Point} (hp : s.point? i = some pt) (f : Point → Point) (g : SegId) :
    s.modPoint i f = s.put i (f pt) g (s.segment g) := by
  rw [State.modPoint_of_some s i f pt hp]
  exact (setPoint_setSegment_self s i (f pt) g).symm

theorem refreshEntry_first {pt : Point} (h : pt.rhythmDue = none) (i : SlotNo) (e : SchedEntry) (s : State) :
    refreshEntry i pt e s = moveToNow pt.segment i (s.modPoint i fun x => { x with rhythmDue := some e.due }) := by
  simp [refreshEntry, h]

theorem refreshEntry_again {pt : Point} {d : Due} (h : pt.rhythmDue = some d) (i : SlotNo) (e : SchedEntry) (s : State) :
    refreshEntry i pt e s =
      if e.marked = true ∨ e.due.capped = true ∨ reached e.due.time s.clock = true then s else moveToNow pt.segment i s := by
  simp [refreshEntry, h, Due.reachedAt]

/-- Settles O22. -/
theorem refreshBringsTheNextReadForward : Obligations.RefreshBringsTheNextReadForward := by
  unfold Obligations.RefreshBringsTheNextReadForward
  intro p tag i pt s ready hp active input
  have carried : carryOut p (.refresh (s.rawHandle i)) (s.served p) = answerAccepted [] (refreshPoint p i pt (s.served p)) := by
    change withPoint _ _ _ = _
    rw [withPoint_served hp]
    simp [(isOutput_eq_false pt).mpr input, Point.isActive, active]
  have run := exec_carried (c := .refresh p tag (s.rawHandle i)) ready rfl (by simp) (by simp) carried
  have here : (s.served p).point? i = some pt := hp
  have flagged := modPoint_eq_put here (·.setFresh p true) pt.segment
  have entry : ∀ P, ((s.served p).put i P pt.segment ((s.served p).segment pt.segment)).entryOf? pt.segment i =
      s.entryOf? pt.segment i := fun P => State.put_entryOf (s.served p) i P pt.segment _ i
  refine ⟨fun busy => ?_, fun e idle found fresh => ?_, fun e d idle found due => ?_, fun idle none => ?_⟩
  · have flight : pt.inFlight.isSome = true := by simpa [Option.isSome_iff_ne_none] using busy
    rw [run, refreshPoint, if_pos flight, State.modPoint_of_some _ _ _ pt here]
    rfl
  · rw [run, refreshPoint, if_neg (by simp [idle]), flagged, entry, found]
    dsimp only
    rw [refreshEntry_first fresh, State.put_modPoint, moveToNow_put, removeEntry, filter_slot_bne]
    rfl
  · rw [run, refreshPoint, if_neg (by simp [idle]), flagged, entry, found]
    dsimp only
    rw [refreshEntry_again due, moveToNow_put, removeEntry, filter_slot_bne, State.put_clock, State.served_clock]
    split <;> rfl
  · have answered : answerFresh p .noNode i ((s.served p).setPoint i (pt.setFresh p true)) =
        (offerPoint p i (.fresh ((s.served p).handle i) .noNode pt.quality)
          ((s.served p).setPoint i (pt.setFresh p true))).modPoint i (·.setFresh p false) := by
      simp [answerFresh, Point.setFresh]
    refine ⟨_, rfl, ?_⟩
    rw [run, refreshPoint, if_neg (by simp [idle]), flagged, entry, none]
    dsimp only
    rw [State.put, setPoint_setSegment_self, answered]
    rfl

/-! ### SET_LIMITS (R63 to R65) -/

/-- The byte of an action (TABLE 11-2). -/
def Action.byte : Action → Byte
  | .keep => 0
  | .set => 1
  | .remove => 2

/-- A byte above 2 is no action, every other one is the byte of its action. -/
theorem actionOf_cases (b : Byte) : (2 < b.toNat ∧ actionOf b = none) ∨ ∃ a : Action, b = a.byte ∧ actionOf b = some a := by
  by_cases keep : b = 0
  · exact .inr ⟨.keep, keep, by rw [keep]; rfl⟩
  by_cases set : b = 1
  · exact .inr ⟨.set, set, by rw [set]; rfl⟩
  by_cases remove : b = 2
  · exact .inr ⟨.remove, remove, by rw [remove]; rfl⟩
  · refine .inl ⟨?_, ?_⟩
    · revert b
      decide
    · simp only [actionOf, beq_eq_false_iff_ne.mpr keep, beq_eq_false_iff_ne.mpr set, beq_eq_false_iff_ne.mpr remove,
        Bool.false_eq_true, if_false]

theorem Action.byte_toNat_lt (a : Action) : a.byte.toNat < 3 := by cases a <;> decide

theorem actionOf_of_lt {b : Byte} (h : b.toNat < 3) : ∃ a : Action, b = a.byte ∧ actionOf b = some a :=
  (actionOf_cases b).resolve_left fun big => absurd h (by omega)

theorem actionOf_of_gt {b : Byte} (h : 2 < b.toNat) : actionOf b = none := by
  rcases actionOf_cases b with ⟨-, none⟩ | ⟨a, byte, -⟩
  · exact none
  · have := a.byte_toNat_lt
    rw [← byte] at this
    omega

theorem byte_eq_one (a : Action) : a.byte = 1 ↔ a = .set := by cases a <;> decide

theorem byte_eq_zero (a : Action) : a.byte = 0 ↔ a = .keep := by cases a <;> decide

theorem checkLimits_of_no_action {signed : Bool} {f : LimitsFields}
    (h : actionOf f.limitsAction = none ∨ actionOf f.deadbandAction = none) : checkLimits signed f = none := by
  unfold checkLimits
  rcases h with h | h <;> rw [h]
  cases actionOf f.limitsAction <;> rfl

theorem deadbandFits_iff (d : Value) : deadbandFits d = true ↔ 1 ≤ d.toNat ∧ d.toNat ≤ 2 ^ 31 - 1 := by
  simp only [deadbandFits, Bool.and_eq_true, decide_eq_true_eq]
  omega

theorem limitsFit_iff (signed : Bool) (l : Limits) : limitsFit signed l = true ↔
    asInt signed l.low < asInt signed l.high ∧ (l.hysteresis.toNat : Int) ≤ asInt signed l.high - asInt signed l.low := by
  simp [limitsFit]

theorem checkLimits_of_actions {signed : Bool} {f : LimitsFields} {a b : Action} (ha : actionOf f.limitsAction = some a)
    (hb : actionOf f.deadbandAction = some b) : checkLimits signed f =
      if (a = .set → asInt signed f.low < asInt signed f.high ∧
          (f.hysteresis.toNat : Int) ≤ asInt signed f.high - asInt signed f.low) ∧
        (b = .set → 1 ≤ f.deadband.toNat ∧ f.deadband.toNat ≤ 2 ^ 31 - 1) then some (a, b) else none := by
  simp only [checkLimits, ha, hb, Bool.and_eq_true, Bool.or_eq_true, bne_iff_ne, limitsFit_iff, deadbandFits_iff,
    ← Decidable.imp_iff_not_or]
  rfl

section Limits
variable {s : State} {i : SlotNo} {pt : Point}

theorem applyLimits_of_point (hp : s.point? i = some pt) (a : Action) (l : Limits) : applyLimits i a l s =
    if a = .keep then s
    else if pt.alarm = .normal then s.setPoint i { pt with limits := if a = .set then some l else none }
    else offerSubscribers (·.alarm) i (.alarm (s.handle i) ((pt.value.map (·.value)).getD 0) pt.alarm .normal .hostReset)
      (s.setPoint i { pt with limits := if a = .set then some l else none, alarm := .normal }) := by
  cases a with
  | keep => rfl
  | set | remove =>
    simp only [applyLimits, hp]
    by_cases normal : pt.alarm = .normal <;> simp [normal]

theorem applyDeadband_eq (a : Action) (d : Value) : applyDeadband i a d s = if a = .keep then s
    else s.modPoint i fun x => { x with deadband := if a = .set then some d else none, reported := none } := by
  cases a <;> rfl

end Limits

/-- Settles O23. -/
theorem setLimitsActsOnEachGroup : Obligations.SetLimitsActsOnEachGroup := by
  unfold Obligations.SetLimitsActsOnEachGroup
  intro p tag i pt f s ready hp input stays may
  have judged : carryOut p (.setLimits (s.rawHandle i) f) (s.served p) = match checkLimits pt.signed f with
      | none => refuse .badField (s.served p)
      | some (la, da) => answer [] (applyDeadband i da f.deadband (applyLimits i la (limitsOf f) (s.served p))) := by
    change withPoint _ _ _ = _
    rw [withPoint_served hp]
    simp only [(isOutput_eq_false pt).mpr input, isRetiring_eq_false stays, may, Bool.not_true, Bool.false_eq_true, if_false]
      <;> rfl
  have run := exec_carried (c := .setLimits p tag (s.rawHandle i) f) ready rfl (by simp) (by simp) judged
  refine ⟨fun la da limits deadband u uEq => ?_, fun broken => ?_⟩
  · obtain ⟨a, aByte, aOf⟩ := actionOf_of_lt la
    obtain ⟨b, bByte, bOf⟩ := actionOf_of_lt da
    rw [aByte, byte_eq_one] at limits
    rw [bByte, byte_eq_one] at deadband
    have checked : checkLimits pt.signed f = some (a, b) := by
      rw [checkLimits_of_actions aOf bOf]
      exact if_pos ⟨limits, deadband⟩
    have here : (s.served p).point? i = some pt := hp
    rw [run, checked]
    simp only [aByte, bByte, byte_eq_one, byte_eq_zero] at uEq ⊢
    rw [uEq, applyDeadband_eq, applyLimits_of_point here]
    rfl
  · have checked : checkLimits pt.signed f = none := by
      rcases actionOf_cases f.limitsAction with ⟨-, none⟩ | ⟨a, aByte, aOf⟩
      · exact checkLimits_of_no_action (.inl none)
      rcases actionOf_cases f.deadbandAction with ⟨-, none⟩ | ⟨b, bByte, bOf⟩
      · exact checkLimits_of_no_action (.inr none)
      have aSmall := a.byte_toNat_lt
      have bSmall := b.byte_toNat_lt
      rw [aByte, bByte, byte_eq_one, byte_eq_one] at broken
      rw [checkLimits_of_actions aOf bOf]
      refine if_neg fun ⟨limits, deadband⟩ => ?_
      rcases broken with big | big | ⟨set, crossed⟩ | ⟨set, out⟩
      · omega
      · omega
      · have := limits set
        omega
      · have := deadband set
        rcases out with zero | big
        · exact absurd this.1 (by rw [zero]; decide)
        · omega
    rw [run, checked]
    rfl

end Sys2Proof.Machine

/-! WRITE, CANCEL, CLAIM, RELEASE and SUBSCRIBE (R71 to R73, R83, R152, R168 to R170). -/
namespace Sys2Proof.Machine

set_option Elab.async false

/-! ### Commands -/

/-- Two changes of a command that agree on it as it stands do the same. -/
theorem modCommand_congr {i : SlotNo} {f h : Command → Command} {s : State}
    (same : ∀ c : Command, c.stand = s.stand i → f c = h c) : modCommand i f s = modCommand i h s := by
  unfold modCommand
  cases hp : s.point? i with
  | none => rw [State.modPoint_of_none _ _ _ hp, State.modPoint_of_none _ _ _ hp]
  | some pt =>
    rw [State.modPoint_of_some _ _ _ _ hp, State.modPoint_of_some _ _ _ _ hp]
    congr 1
    unfold Point.modCommand
    cases command : pt.command with
    | none => rfl
    | some c =>
      rw [Option.map_some, Option.map_some, same c (by rw [stand_of_point hp, stand_of_some command])]

theorem State.served_stand (s : State) (p : Port) (i : SlotNo) : (s.served p).stand i = s.stand i := rfl

theorem stand_closeCommand (i : SlotNo) (v : Issued) (c : Close) (s : State) : (closeCommand i v c s).stand i = s.stand i :=
  stand_noted (noted_closeCommand i v c s) i

/-! ### WRITE (R71 to R73) -/

theorem writeFits_iff (pt : Point) (v : Value) (d : Interval) :
    writeFits pt v d = true ↔ fits pt.width pt.signed v = true ∧ d.toNat ≤ 60000 := by
  have range : (d == 0 || between 1 60000 d) = true ↔ d.toNat ≤ 60000 := by
    simp only [Bool.or_eq_true, beq_iff_eq, between, Bool.and_eq_true, decide_eq_true_eq]
    constructor
    · rintro (zero | ⟨-, small⟩)
      · rw [zero]; decide
      · exact small
    · intro small
      by_cases zero : d = 0
      · exact .inl zero
      · exact .inr ⟨Nat.one_le_iff_ne_zero.mpr fun e => zero (BitVec.eq_of_toNat_eq e), small⟩
  rw [writeFits, Bool.and_eq_true, range]

theorem deadlineAt_eq (d : Interval) (t : Time) : deadlineAt d t = if d = 0 then none else some (t + d.zeroExtend 32) := by
  simp [deadlineAt, after]

/-- A next value given to a command on its way. -/
def Stand.withNext (nv : NextValue) : Stand → Stand
  | .writing w _ => .writing w (some nv)
  | .verifying w _ => .verifying w (some nv)
  | x => x

theorem openValues_eq_nil {x : Stand} (h : x.openValues = []) :
    x = .noCommand ∨ (∃ v, x = .confirmed v) ∨ ∃ v c, x = .failed v c := by
  cases x with
  | noCommand => exact .inl rfl
  | confirmed v => exact .inr (.inl ⟨v, rfl⟩)
  | failed v c => exact .inr (.inr ⟨v, c, rfl⟩)
  | pending | queued => cases h
  | writing v next => cases next <;> cases h
  | verifying v next => cases next <;> cases h

section Write
variable {s : State} {i : SlotNo} {pt : Point} {v : Issued} {d : Option Time}

theorem writePoint_fresh (h : (s.stand i).openValues = []) : writePoint i pt v d s = writeFresh i pt v d s := by
  unfold writePoint
  rcases openValues_eq_nil h with stand | ⟨w, stand⟩ | ⟨w, c, stand⟩ <;> rw [stand]

theorem writePoint_next {w : Issued} {next : Option NextValue}
    (h : s.stand i = .writing w next ∨ s.stand i = .verifying w next) : writePoint i pt v d s =
      answer [2] (modCommand i (fun c => { c with stand := c.stand.withNext ⟨v, d, false⟩ }) (supersedeNext i next s)) := by
  have same : (supersedeNext i next s).stand i = s.stand i := by
    cases next with
    | none => rfl
    | some nv => exact stand_closeCommand i nv.issued .superseded s
  unfold writePoint
  rcases h with stand | stand <;> rw [stand] <;> refine congrArg (answer [2]) (modCommand_congr fun c hc => ?_) <;>
    rw [hc, same, stand] <;> rfl

theorem writeFresh_held (h : pt.state = .held) : writeFresh i pt v d s =
    answer [0] (modCommand i (fun c => { c with stand := .pending v d, attempts := 0 }) s) := by
  unfold writeFresh
  rw [if_neg (by simp [isActive_of_held h]), setStand_modCommand]

theorem writeFresh_active (h : pt.state = .active) : writeFresh i pt v d s = answer [1]
    ((modCommand i (fun c => { c with stand := .queued v d, attempts := 0 }) s).setSegment pt.segment
      { s.segment pt.segment with commandQueue := (s.segment pt.segment).commandQueue ++ [i] }) := by
  unfold writeFresh
  rw [if_pos ((isActive_iff pt).mpr h), setStand_modCommand, queueTail, State.modSegment, modCommand,
    State.modPoint_read_segment]

end Write

/-- Settles O24. -/
theorem writeStoresTheValueByCommandState : Obligations.WriteStoresTheValueByCommandState := by
  unfold Obligations.WriteStoresTheValueByCommandState
  intro p tag i pt v d s ready hp output stays may due dueEq fit fitEq
  have fitIff : fits pt.width pt.signed v = true ↔ fit := by
    rw [fitEq]
    cases pt.width <;> cases pt.signed <;> simp [fits, asInt]
  have deadline : deadlineAt d (s.served p).clock = due := (deadlineAt_eq d _).trans dueEq.symm
  have judged : carryOut p (.write (s.rawHandle i) v d) (s.served p) =
      if !writeFits pt v d then refuse .badField (s.served p) else writePoint i pt ⟨v, p⟩ due (s.served p) := by
    change withPoint _ _ _ = _
    rw [withPoint_served hp]
    simp only [(isOutput_iff pt).mpr output, isRetiring_eq_false stays, may, Bool.not_true, Bool.false_eq_true, if_false, deadline]
  have run := exec_carried (c := .write p tag (s.rawHandle i) v d) ready rfl (by simp) (by simp) judged
  refine ⟨fun out => ?_, fun fitting short => ?_⟩
  · have refused : writeFits pt v d = false := by
      rw [Bool.eq_false_iff, ne_eq, writeFits_iff, fitIff]
      rintro ⟨fitting, short⟩
      exact out.elim (fun no => no fitting) (by omega)
    rw [run, refused]
    rfl
  have accepted := (writeFits_iff pt v d).mpr ⟨fitIff.mpr fitting, short⟩
  rw [accepted] at run
  simp only [Bool.not_true, Bool.false_eq_true, if_false] at run
  refine ⟨fun closed held => ?_, fun closed active => ?_, fun old od stand => ?_, fun old od stand => ?_, fun w stand => ?_,
    fun w nv stand => ?_⟩
  · rw [run, writePoint_fresh (s := s.served p) closed, writeFresh_held held]
    rfl
  · rw [run, writePoint_fresh (s := s.served p) closed, writeFresh_active active]
    rfl
  · rw [run, writePoint, State.served_stand, stand]
    simp only [setStand_modCommand]
    rfl
  · rw [run, writePoint, State.served_stand, stand]
    simp only [setStand_modCommand]
    rfl
  · rw [run, writePoint_next (s := s.served p) stand]
    rfl
  · rw [run, writePoint_next (s := s.served p) stand]
    rfl

/-! ### CANCEL (R83) -/

/-- Settles O25. -/
theorem cancelWithdrawsWhatStillWaits : Obligations.CancelWithdrawsWhatStillWaits := by
  unfold Obligations.CancelWithdrawsWhatStillWaits
  intro p tag i pt s ready hp output stays may
  have judged : carryOut p (.cancel (s.rawHandle i)) (s.served p) = cancelPoint i pt (s.served p) := by
    change withPoint _ _ _ = _
    rw [withPoint_served hp]
    simp only [(isOutput_iff pt).mpr output, isRetiring_eq_false stays, may, Bool.not_true, Bool.false_eq_true, if_false]
  have run := exec_carried (c := .cancel p tag (s.rawHandle i)) ready rfl (by simp) (by simp) judged
  refine ⟨fun v d stand => ?_, fun v d stand => ?_, fun v nv stand => ?_, fun v nv stand => ?_, fun idle sent => ?_⟩
  · rw [run, cancelPoint, State.served_stand, stand]
    rfl
  · rw [run, cancelPoint, State.served_stand, stand]
    dsimp only
    rw [modCommand, leaveQueue, modPoint_modSegment, State.modSegment, State.modPoint_read_segment,
      (noted_closeCommand i v .withdrawn (s.served p)).segment, filter_bne]
    rfl
  · rw [run, cancelPoint, State.served_stand, stand]
    rfl
  · rw [run, cancelPoint, State.served_stand, stand]
    rfl
  · have refused : cancelPoint i pt (s.served p) = refuse .wrongState (s.served p) := by
      rw [cancelPoint, State.served_stand]
      cases stand : s.stand i with
      | pending v d => exact absurd stand (idle v d).1
      | queued v d => exact absurd stand (idle v d).2
      | writing v next => cases next with
        | none => rfl
        | some nv => exact absurd stand (sent v nv).1
      | verifying v next => cases next with
        | none => rfl
        | some nv => exact absurd stand (sent v nv).2
      | noCommand | confirmed | failed => rfl
    rw [run, refused]
    rfl

/-! ### CLAIM, RELEASE and SUBSCRIBE (R152, R168 to R170) -/

theorem subSetOf_byte (output : Bool) (b : Byte) (x : SubSet) (h : subSetOf output b = some x) : x = SubSet.ofByte b ∧ x.byte = b := by
  unfold subSetOf at h
  rw [Option.ite_none_right_eq_some] at h
  obtain ⟨bits, same⟩ := h
  obtain rfl := Option.some.inj same
  refine ⟨rfl, ?_⟩
  cases output <;> revert b <;> decide

theorem carryClaimPoint_plain {p : Port} {take : Byte} (h : take ≠ 1) (i : SlotNo) (pt : Point) (s : State) :
    carryClaimPoint p i pt take s = if pt.mayChange p then if take = 0 then claimPoint p i pt s else refuse .badField s
      else refuse .heldByOther s := by
  unfold carryClaimPoint
  rw [if_neg (by simpa using h)]
  cases pt.mayChange p <;> simp

theorem carryClaimPoint_take (i : SlotNo) (pt : Point) (s : State) : carryClaimPoint .host i pt 1 s =
    if pt.owner = some .console then answer [portCode .host] (takePoint i pt s) else claimPoint .host i pt s := by
  simp [carryClaimPoint]

theorem subSetOf_isSome_iff (pt : Point) (set : Byte) : (subSetOf pt.isOutput set).isSome = true ↔
    (pt.command = none ∧ set.toNat < 8) ∨ (pt.command ≠ none ∧ set ∈ ([0, 4, 8, 12] : List Byte)) := by
  cases output : pt.isOutput with
  | false => simp [inputSet_fits, (isOutput_eq_false pt).mp output]
  | true => simp [outputSet_fits, (isOutput_iff pt).mp output]

/-- Settles O26. -/
theorem claimReleaseAndSubscribeActForTheRequestingPort : Obligations.ClaimReleaseAndSubscribeActForTheRequestingPort := by
  unfold Obligations.ClaimReleaseAndSubscribeActForTheRequestingPort
  intro p tag set i pt s ready hp stays
  have kept := isRetiring_eq_false stays
  have claim : ∀ take, exec (.claim p tag (s.rawHandle i) take) s = .next
      (responded p tag (carryClaimPoint p i pt take (s.served p)).2 (carryClaimPoint p i pt take (s.served p)).1) := fun take => by
    refine exec_carried (c := .claim p tag (s.rawHandle i) take) ready rfl (by simp) (by simp) ?_
    change withPoint _ _ _ = _
    rw [withPoint_served hp, kept]
    rfl
  have release : exec (.release p tag (s.rawHandle i)) s = .next (if pt.owner = some p
      then responded p tag ⟨.ok, []⟩ ((s.served p).setPoint i { pt with owner := none })
      else responded p tag ⟨.notOwner, []⟩ (s.served p)) := by
    have carried : carryOut p (.release (s.rawHandle i)) (s.served p) = if pt.owner = some p
        then answer [] ((s.served p).setPoint i { pt with owner := none }) else refuse .notOwner (s.served p) := by
      change withPoint _ _ _ = _
      rw [withPoint_served hp, kept]
      simp
    rw [exec_carried (c := .release p tag (s.rawHandle i)) ready rfl (by simp) (by simp) carried]
    split <;> rfl
  have subscribe : exec (.subscribe p tag (s.rawHandle i) set) s = .next (match subSetOf pt.isOutput set with
      | none => responded p tag ⟨.badField, []⟩ (s.served p)
      | some x => responded p tag ⟨.ok, [x.byte]⟩ ((s.served p).setPoint i { pt with subscriptions := pt.subscriptions.set p x })) := by
    have carried : carryOut p (.subscribe (s.rawHandle i) set) (s.served p) = match subSetOf pt.isOutput set with
        | none => refuse .badField (s.served p)
        | some x => answer [x.byte] ((s.served p).setPoint i { pt with subscriptions := pt.subscriptions.set p x }) := by
      change withPoint _ _ _ = _
      rw [withPoint_served hp, kept]
      rfl
    rw [exec_carried (c := .subscribe p tag (s.rawHandle i) set) ready rfl (by simp) (by simp) carried]
    cases subSetOf pt.isOutput set <;> rfl
  refine ⟨fun mine => ?_, fun take notNo notYes mine => ?_, fun take notYes other => ?_, fun console => ?_,
    fun host mine => ?_, fun host other => ?_, fun mine => ?_, fun other => ?_, fun fit => ?_, fun out => ?_⟩
  · rw [claim, carryClaimPoint_plain (by decide), if_pos ((mayChange_iff pt p).mpr mine)]
    rfl
  · rw [claim, carryClaimPoint_plain notYes, if_pos ((mayChange_iff pt p).mpr mine), if_neg notNo]
    rfl
  · rw [claim, carryClaimPoint_plain notYes, if_neg (by rw [mayChange_iff]; exact fun h => h other)]
    rfl
  · subst console
    rw [claim]
    rfl
  · subst host
    rw [claim, carryClaimPoint_take, if_neg mine]
    rfl
  · subst host
    rw [claim, carryClaimPoint_take, if_pos other]
    rfl
  · rw [release, if_pos mine]
  · rw [release, if_neg other]
  · obtain ⟨x, found⟩ := Option.isSome_iff_exists.mp ((subSetOf_isSome_iff pt set).mpr fit)
    obtain ⟨same, byte⟩ := subSetOf_byte _ _ _ found
    rw [subscribe, found]
    dsimp only
    rw [byte, same]
    rfl
  · have none : subSetOf pt.isOutput set = none := by
      rw [← Option.not_isSome_iff_eq_none, subSetOf_isSome_iff]
      rintro (⟨input, small⟩ | ⟨output, within⟩) <;> rcases out with ⟨input', big⟩ | ⟨output', without⟩
      · omega
      · exact output' input
      · exact output input'
      · exact without within
    rw [subscribe, none]

end Sys2Proof.Machine

/-! ACK with the drain of the marks, PORT_SET and CLEAR (R28, R29, R154 to R156, R158, R174, R176). -/
namespace Sys2Proof.Machine

set_option Elab.async false

/-! ### The drain (R155, R156) -/

/-- The SUMMARY that a mark makes: of the system, or of the point in a slot. -/
def State.summaryOf (s : State) : Option SlotNo → Note
  | none => s.systemSummary
  | some i => (s.point? i).elim s.systemSummary (s.pointSummary i)

/-- The queue's entries for the marks of a list, numbered on from the port's next sequence number. -/
def State.summaries (s : State) (p : Port) (taken : List (Option SlotNo)) : List Entry :=
  taken.zipIdx.map fun x => ⟨(s.notifyOf p).nextSeq + BitVec.ofNat 16 x.2, s.clock, s.summaryOf x.1⟩

/-- From `s` to `t` the marks of a list have been drained into the queue of port `p`, and nothing else has changed. -/
structure Drained (p : Port) (s : State) (taken : List (Option SlotNo)) (t : State) : Prop where
  queue : t.notifyOf p =
    { s.notifyOf p with
      queue := (s.notifyOf p).queue ++ s.summaries p taken
      nextSeq := (s.notifyOf p).nextSeq + BitVec.ofNat 16 taken.length
      systemMark := (s.notifyOf p).systemMark && !(taken.contains none) }
  other : t.notifyOf p.other = s.notifyOf p.other
  point : ∀ i, t.point? i = (s.point? i).map fun pt =>
    if taken.contains (some i) then { pt with marks := pt.marks.set p false } else pt
  generation : ∀ i, t.generation i = s.generation i
  rest : { t with slots := s.slots, notify := s.notify } = s

theorem Port.ne_other (p : Port) : p ≠ p.other := by cases p <;> decide

section Drain
variable {p : Port} {s t : State} {taken : List (Option SlotNo)}

theorem Drained.refl (p : Port) (s : State) : Drained p s [] s where
  queue := by simp [State.summaries]
  other := rfl
  point i := by simp
  generation _ := rfl
  rest := rfl

theorem summaries_append (s : State) (p : Port) (taken : List (Option SlotNo)) (o : Option SlotNo) :
    s.summaries p (taken ++ [o]) =
      s.summaries p taken ++ [⟨(s.notifyOf p).nextSeq + BitVec.ofNat 16 taken.length, s.clock, s.summaryOf o⟩] := by
  simp [State.summaries, List.zipIdx_append]

theorem Drained.length (d : Drained p s taken t) :
    (t.notifyOf p).queue.length = (s.notifyOf p).queue.length + taken.length := by
  rw [d.queue]
  simp [State.summaries]

theorem Drained.clock (d : Drained p s taken t) : t.clock = s.clock := congrArg (·.clock) d.rest

/-- A slot whose mark has not been drained stands as it stood. -/
theorem Drained.kept (d : Drained p s taken t) {i : SlotNo} (h : some i ∉ taken) : t.point? i = s.point? i := by
  simp [d.point, h]

theorem Drained.pushed (d : Drained p s taken t) (o : Option SlotNo) : (t.notifyOf p).push t.clock (s.summaryOf o) =
    { t.notifyOf p with
      queue := (s.notifyOf p).queue ++ s.summaries p (taken ++ [o])
      nextSeq := (s.notifyOf p).nextSeq + BitVec.ofNat 16 (taken ++ [o]).length } := by
  have next : (s.notifyOf p).nextSeq + BitVec.ofNat 16 taken.length + 1 =
      (s.notifyOf p).nextSeq + BitVec.ofNat 16 (taken.length + 1) := by
    rw [BitVec.ofNat_add, BitVec.add_assoc]
    rfl
  rw [summaries_append, List.length_append, List.length_singleton, ← next, ← List.append_assoc, Notify.push, d.queue, d.clock]

theorem Drained.slot (d : Drained p s taken t) {i : SlotNo} (fresh : some i ∉ taken) : Drained p s
    (taken ++ if s.marked p i && (t.notifyOf p).hasRoom then [some i] else []) (drainSlot p t i) := by
  have kept := d.kept fresh
  unfold drainSlot
  cases hp : s.point? i with
  | none => simpa [State.marked, kept, hp] using d
  | some pt =>
    have summary : t.pointSummary i pt = s.summaryOf (some i) := by
      rw [State.summaryOf, hp, State.pointSummary, State.handle, d.generation, d.clock]
      rfl
    rw [kept, hp]
    dsimp only
    rw [Bool.and_comm, State.marked, hp, Option.any_some]
    split
    · next room =>
      rw [summary, d.pushed]
      refine ⟨?_, ?_, fun j => ?_, fun j => ?_, d.rest⟩
      · rw [State.setPoint_read_notifyOf, State.setNotify_read_notifyOf, if_pos rfl, d.queue]
        simp
      · rw [State.setPoint_read_notifyOf, State.setNotify_read_notifyOf, if_neg (Port.ne_other p), d.other]
      · rw [State.setPoint_read_point, State.setNotify_read_point]
        by_cases same : i = j
        · subst same
          simp [hp, Point.setMark]
        · rw [if_neg same, d.point]
          simp [Ne.symm same]
      · rw [State.setPoint_read_generation, State.setNotify_read_generation, d.generation]
    · simpa using d

theorem Drained.system (h : (s.notifyOf p).queue.length ≤ 64) : Drained p s
    ((if (s.notifyOf p).systemMark then [none] else []).take (64 - (s.notifyOf p).queue.length)) (drainSystem p s) := by
  have d := Drained.refl p s
  unfold drainSystem
  dsimp only
  cases mark : (s.notifyOf p).systemMark with
  | false => simpa using d
  | true =>
    by_cases room : (s.notifyOf p).queue.length < 64
    · have one : 64 - (s.notifyOf p).queue.length = (63 - (s.notifyOf p).queue.length) + 1 := by omega
      rw [if_pos rfl, hasRoom_eq_true room, Bool.and_true, if_pos rfl, one, List.take_succ_cons, List.take_nil,
        show s.systemSummary = s.summaryOf none from rfl, d.pushed]
      refine ⟨?_, ?_, fun j => ?_, fun j => ?_, rfl⟩
      · rw [State.setNotify_read_notifyOf, if_pos rfl]
        simp
      · rw [State.setNotify_read_notifyOf, if_neg (Port.ne_other p)]
      · simp
      · simp
    · have none : 64 - (s.notifyOf p).queue.length = 0 := by omega
      rw [hasRoom_eq_false (Nat.not_lt.mp room), none]
      exact d

/-- The slots of a list drained one after the other, while the queue has room. -/
theorem Drained.slots {l : List SlotNo} (distinct : l.Nodup) (d : Drained p s taken t) (fresh : ∀ i ∈ l, some i ∉ taken)
    (h : (s.notifyOf p).queue.length + taken.length ≤ 64) : Drained p s
      (taken ++ ((l.filter (s.marked p ·)).map some).take (64 - (s.notifyOf p).queue.length - taken.length))
      (l.foldl (drainSlot p) t) := by
  induction l generalizing taken t with
  | nil => simpa using d
  | cons i l ih =>
    obtain ⟨apart, distinct⟩ := List.nodup_cons.mp distinct
    have step := d.slot (fresh i List.mem_cons_self)
    have later : ∀ j ∈ l, some j ∉ taken := fun j hj => fresh j (List.mem_cons_of_mem i hj)
    have room : (t.notifyOf p).hasRoom = decide ((s.notifyOf p).queue.length + taken.length < 64) := by
      rw [Notify.hasRoom, d.length]; rfl
    rw [List.foldl_cons]
    cases marked : s.marked p i with
    | false =>
      rw [marked, Bool.false_and, if_neg (by simp), List.append_nil] at step
      rw [List.filter_cons_of_neg (by simp [marked])]
      exact ih distinct step later h
    | true =>
      rw [marked, Bool.true_and, room] at step
      rw [List.filter_cons_of_pos marked, List.map_cons]
      by_cases some_room : (s.notifyOf p).queue.length + taken.length < 64
      · rw [if_pos (by simpa using some_room)] at step
        have one : 64 - (s.notifyOf p).queue.length - taken.length =
            (64 - (s.notifyOf p).queue.length - (taken ++ [some i]).length) + 1 := by
          rw [List.length_append, List.length_singleton]; omega
        rw [one, List.take_succ_cons, ← List.singleton_append, ← List.append_assoc]
        refine ih distinct step (fun j hj => ?_) (by rw [List.length_append, List.length_singleton]; omega)
        rw [List.mem_append, List.mem_singleton, not_or]
        exact ⟨later j hj, fun e => apart (Option.some.inj e ▸ hj)⟩
      · rw [if_neg (by simpa using some_room), List.append_nil] at step
        have none : 64 - (s.notifyOf p).queue.length - taken.length = 0 := by omega
        have rest := ih distinct step later h
        rw [none] at rest ⊢
        exact rest

/-- The drain of a port whose queue is within its capacity: the system mark first, then the marked slots in order. -/
theorem drained_drain (h : (s.notifyOf p).queue.length ≤ 64) : Drained p s
    (((if (s.notifyOf p).systemMark then [none] else []) ++ (allSlots.filter (s.marked p ·)).map some).take
      (64 - (s.notifyOf p).queue.length)) (drain p s) := by
  have system := Drained.system h
  have short : ((if (s.notifyOf p).systemMark then [none] else []).take (64 - (s.notifyOf p).queue.length) :
      List (Option SlotNo)).length ≤ 64 - (s.notifyOf p).queue.length := List.length_take_le _ _
  have fresh : ∀ i : SlotNo, some i ∉ ((if (s.notifyOf p).systemMark then [none] else []).take
      (64 - (s.notifyOf p).queue.length) : List (Option SlotNo)) := by
    intro i hi
    have := List.mem_of_mem_take hi
    split at this <;> simp at this
  have all := system.slots (List.nodup_finRange 256) (fun i _ => fresh i) (by omega)
  have left : ∀ n k : Nat, n - min n k = n - k := fun n k => by omega
  rw [List.length_take, left] at all
  rw [List.take_append]
  exact all

theorem afterSeq_of_split {seq : SeqNo} {older newer : List Entry} {e : Entry} (h : e.seq = seq)
    (first : ∀ x ∈ older, x.seq ≠ seq) : afterSeq seq (older ++ e :: newer) = some newer := by
  induction older with
  | nil => simp [afterSeq, h]
  | cons x older ih =>
    have other : (x.seq == seq) = false := by simpa using first x List.mem_cons_self
    rw [List.cons_append, afterSeq, other]
    exact ih fun y hy => first y (List.mem_cons_of_mem x hy)

theorem afterSeq_eq_none {seq : SeqNo} {l : List Entry} (h : ∀ x ∈ l, x.seq ≠ seq) : afterSeq seq l = none := by
  cases found : afterSeq seq l with
  | none => rfl
  | some rest =>
    obtain ⟨m, e, split, same⟩ := afterSeq_suffix found
    exact absurd same (h e (by rw [split]; simp))

end Drain

theorem lostCount_eq (s : State) : s.lostCount = s.directory.countP fun e => e.presence = .lost :=
  congrArg (s.directory.countP ·) (funext fun e => by rw [beq_eq_decide])

/-- Settles O28. -/
theorem ackRemovesEntriesAndDrainsTheMarks : Obligations.AckRemovesEntriesAndDrainsTheMarks := by
  unfold Obligations.AckRemovesEntriesAndDrainsTheMarks
  refine ⟨fun p tag seq s ready => ⟨fun older e newer split same first u uEq => ?_, fun absent => ?_⟩, ?_⟩
  · have removed : (older ++ e :: newer).length - newer.length = older.length + 1 := by
      rw [List.length_append, List.length_cons]; omega
    have carried : carryOut p (.ack seq) (s.served p) =
        (u, ⟨.ok, [BitVec.ofNat 8 (older.length + 1), BitVec.ofNat 8 (u.notifyOf p).queue.length]⟩) := by
      change carryAck p seq (s.served p) = _
      have queue : ((s.served p).notifyOf p).queue = older ++ e :: newer := split
      rw [carryAck, queue, afterSeq_of_split same first]
      dsimp only
      rw [removed, uEq]
      rfl
    exact exec_carried (c := .ack p tag seq) ready rfl (by simp) (by simp) carried
  · have carried : carryOut p (.ack seq) (s.served p) = refuse .badField (s.served p) := by
      change carryAck p seq (s.served p) = _
      have queue : ((s.served p).notifyOf p).queue = (s.notifyOf p).queue := rfl
      rw [carryAck, queue, afterSeq_eq_none absent]
    exact exec_carried (c := .ack p tag seq) ready rfl (by simp) (by simp) carried
  · intro p s within system systemEq summary summaryEq due dueEq taken takenEq
    have same : system = s.systemSummary := by rw [systemEq, State.systemSummary, lostCount_eq]
    have points : ∀ i pt, summary i pt = s.pointSummary i pt := by
      intro i pt
      rw [summaryEq]
      rfl
    have d := drained_drain within
    rw [← dueEq, ← takenEq] at d
    refine ⟨?_, d.other, d.point, d.rest⟩
    rw [d.queue, State.summaries]
    dsimp only
    congr 2
    refine List.map_congr_left fun x _ => ?_
    congr 1
    rw [same, show summary = s.pointSummary from funext fun i => funext (points i)]
    cases x.1 <;> rfl

/-! ### PORT_SET (R158, R176) -/

/-- What an action makes of a flag. -/
def Action.applied (a : Action) (b : Bool) : Bool :=
  match a with
  | .keep => b
  | .set => true
  | .remove => false

theorem Action.applied_byte (a : Action) (b : Bool) : a.applied b = if a.byte = 0 then b else a.byte == 1 := by
  cases a <;> simp [Action.applied, Action.byte]

section PortSet
variable (p : Port) (a b : Action) (s : State)

/-- The notifications enable of a port set as it stands, or turned on, changes nothing but the enable. -/
theorem setNotifications_kept (h : (s.notifyOf p).enabled = true → a.applied (s.notifyOf p).enabled = true) :
    setNotifications p a s = s.setNotify p { s.notifyOf p with enabled := a.applied (s.notifyOf p).enabled } := by
  cases a with
  | keep => exact (setNotify_self s p).symm
  | set => rfl
  | remove =>
    have off : (s.notifyOf p).enabled = false := Bool.eq_false_iff.mpr fun on => Bool.noConfusion (show false = true from h on)
    have same : ({ s.notifyOf p with enabled := false } : Notify) = s.notifyOf p := by rw [← off]
    rw [setNotifications, off, Action.applied, same, setNotify_self]
    rfl

theorem setNotifications_off (on : (s.notifyOf p).enabled = true) (h : a.applied (s.notifyOf p).enabled = false) :
    setNotifications p a s = clearPointMarks p
      (s.setNotify p { s.notifyOf p with queue := [], systemMark := false, enabled := false }) := by
  cases a with
  | keep => rw [Action.applied, on] at h; cases h
  | set => cases h
  | remove => rw [setNotifications, if_pos on, notificationsOff]

theorem setNodeEvents_eq : setNodeEvents p b s =
    s.setNotify p { s.notifyOf p with nodeEvents := b.applied (s.notifyOf p).nodeEvents } := by
  cases b with
  | keep => exact (setNotify_self s p).symm
  | set | remove => rfl

end PortSet

/-- Settles O29. -/
theorem portSetActsOnItsOwnPort : Obligations.PortSetActsOnItsOwnPort := by
  unfold Obligations.PortSetActsOnItsOwnPort
  intro p tag a b s ready
  refine ⟨fun aSmall bSmall u ⟨on, events, onEq, eventsEq, uEq⟩ => ?_, fun big => ?_⟩
  · obtain ⟨x, aByte, aOf⟩ := actionOf_of_lt aSmall
    obtain ⟨y, bByte, bOf⟩ := actionOf_of_lt bSmall
    rw [aByte, ← Action.applied_byte] at onEq
    rw [bByte, ← Action.applied_byte] at eventsEq
    have set : setNodeEvents p y (setNotifications p x (s.served p)) = u := by
      rw [uEq, setNodeEvents_eq, eventsEq]
      by_cases off : (s.notifyOf p).enabled = true ∧ on = false
      · rw [if_pos off, setNotifications_off p x (s.served p) off.1 (onEq.symm.trans off.2)]
        cases p <;> rfl
      · rw [if_neg off, setNotifications_kept p x (s.served p) fun enabled =>
          onEq.symm.trans (Bool.not_eq_false on ▸ fun no => off ⟨enabled, no⟩), onEq]
        cases p <;> rfl
    have carried : carryOut p (.portSet a b) (s.served p) = answer (portSetBody p u) u := by
      change carryPortSet p a b (s.served p) = _
      rw [carryPortSet, aOf, bOf]
      dsimp only
      rw [set]
    exact exec_carried (c := .portSet p tag a b) ready rfl (by simp) (by simp) carried
  · have carried : carryOut p (.portSet a b) (s.served p) = refuse .badField (s.served p) := by
      change carryPortSet p a b (s.served p) = _
      unfold carryPortSet
      rcases big with big | big <;> rw [actionOf_of_gt big]
      cases actionOf a <;> rfl
    exact exec_carried (c := .portSet p tag a b) ready rfl (by simp) (by simp) carried

/-! ### CLEAR (R28, R29, R174) -/

theorem clearRecords_segment (s : State) (g : SegId) : (clearRecords s).segment g = (s.segment g).clearedNow := by
  cases g <;> rfl

theorem clearRecords_notifyOf (s : State) (p : Port) : (clearRecords s).notifyOf p = (s.notifyOf p).cleared := by
  cases p <;> rfl

/-- Settles O30. -/
theorem clearEmptiesTheRecords : Obligations.ClearEmptiesTheRecords := by
  unfold Obligations.ClearEmptiesTheRecords
  intro tag s
  refine ⟨fun ready => ⟨clearRecords (s.served .host), ?_, fun i => ⟨clearRecords_point _ i, ?_⟩, rfl, fun g => ?_, fun p => ?_, rfl⟩,
    fun ready => ?_⟩
  · exact exec_carried (c := .clear .host tag) ready rfl (by simp) (by simp) rfl
  · rw [clearRecords_generation]
    change (if (s.point? i).isSome then s.generation i + 1 else s.generation i) = _
    cases s.point? i <;> rfl
  · rw [clearRecords_segment]
    change (s.segment g).clearedNow = _
    rw [Segment.clearedNow]
    cases (s.segment g).transaction with
    | none => rfl
    | some t =>
      obtain ⟨work, phase, cleared⟩ := t
      cases phase <;> rfl
  · exact clearRecords_notifyOf (s.served .host) p
  · exact exec_carried (c := .clear .console tag) ready rfl (by simp) (by simp) rfl

end Sys2Proof.Machine

/-! ENABLE, DISABLE, RESTART, SET_SPEED and SCAN by the segment state, and the recovery attempts (R128 to R132, R137 to R140, R142,
R143). -/
namespace Sys2Proof.Machine

set_option Elab.async false

/-! ### A segment request of a ready port -/

theorem State.served_segment (s : State) (p : Port) (g : SegId) : (s.served p).segment g = s.segment g := rfl

theorem speedOf_eq_none {b : Byte} (h : 2 ≤ b.toNat) : speedOf b = none := by revert b; decide

theorem segmentActionOf_eq_none {b : Byte} (h : 4 ≤ b.toNat) : segmentActionOf b = none := by revert b; decide

theorem setSegment_modSegment (s : State) (g : SegId) (x : Segment) (f : Segment → Segment) :
    (s.setSegment g x).modSegment g f = s.setSegment g (f x) := by simp [State.modSegment]

section Control
variable {p : Port} {tag b : Byte} {g : SegId} {s : State}

/-- ENABLE carried out on the segment with the levels it brings. -/
theorem exec_enable_ready (ready : s.ready p = true) (named : segmentOf b = some g) (fc fd : Bool) {t : State} {reply : Reply}
    (carried : carryEnable g ((s.served p).setSegment g
      { s.segment g with lines := { (s.segment g).lines with fc := fc, fd := fd } }) = (t, reply)) :
    exec (.enable p tag b fc fd) s = .next (responded p tag reply t) := by
  have looked : (lookAt b fc fd s).served p = (s.served p).setSegment g
      { s.segment g with lines := { (s.segment g).lines with fc := fc, fd := fd } } := by
    rw [lookAt, named]; rfl
  have control : ∀ t, carryOut p (.segmentControl b 0 0) t = carryEnable g t := fun t => by
    change carrySegmentControl b 0 0 t = _
    rw [carrySegmentControl, named]; rfl
  rw [exec_enable, submit_of_ready tag _ ready (Nat.le_of_ble_eq_true rfl), looked, control, carried]

theorem exec_disable_ready (ready : s.ready p = true) (named : segmentOf b = some g) {t : State} {reply : Reply}
    (carried : carryDisable g (s.served p) = (t, reply)) : exec (.disable p tag b) s = .next (responded p tag reply t) := by
  refine exec_carried (c := .disable p tag b) (x := (t, reply)) ready rfl (by simp) (by simp) ?_
  change carrySegmentControl b 1 0 (s.served p) = _
  rw [carrySegmentControl, named]
  exact carried

theorem exec_restart_ready (ready : s.ready p = true) (named : segmentOf b = some g) {t : State} {reply : Reply}
    (carried : carryRestart g (s.served p) = (t, reply)) : exec (.segmentRestart p tag b) s = .next (responded p tag reply t) := by
  refine exec_carried (c := .segmentRestart p tag b) (x := (t, reply)) ready rfl (by simp) (by simp) ?_
  change carrySegmentControl b 2 0 (s.served p) = _
  rw [carrySegmentControl, named]
  exact carried

theorem exec_setSpeed_ready (ready : s.ready p = true) (named : segmentOf b = some g) (v : Byte) {t : State} {reply : Reply}
    (carried : (speedOf v).elim (refuse .badField (s.served p)) (carrySetSpeed g · (s.served p)) = (t, reply)) :
    exec (.setSpeed p tag b v) s = .next (responded p tag reply t) := by
  refine exec_carried (c := .setSpeed p tag b v) (x := (t, reply)) ready rfl (by simp) (by simp) ?_
  change carrySegmentControl b 3 v (s.served p) = _
  rw [← carried, carrySegmentControl, named]
  cases speedOf v <;> rfl

end Control

theorem carrySegmentControl_badField {b action v : Byte} (h : 2 ≤ b.toNat ∨ 4 ≤ action.toNat) (s : State) :
    carrySegmentControl b action v s = refuse .badField s := by
  unfold carrySegmentControl
  rcases h with h | h
  · rw [segmentOf_eq_none h]
  · rw [segmentActionOf_eq_none h]
    cases segmentOf b <;> rfl

/-! ### ENABLE and SET_SPEED (R129, R131) -/

theorem carryEnable_kept {g : SegId} {s : State} (h : (s.segment g).state ≠ .off) :
    carryEnable g s = answer (segmentBody g s) s := by
  unfold carryEnable
  cases state : (s.segment g).state with
  | off => exact absurd state h
  | up | recovering | down => rfl

theorem carrySetSpeed_refused {g : SegId} {s : State} (v : Speed) (h : (s.segment g).state ≠ .off) :
    carrySetSpeed g v s = refuse .wrongState s := by
  unfold carrySetSpeed
  cases state : (s.segment g).state with
  | off => exact absurd state h
  | up | recovering | down => rfl

/-- ENABLE of an OFF segment whose lines both read high. -/
theorem carryEnable_up {g : SegId} (s : State) {x : Segment} (off : x.state = .off) (fc : x.lines.fc = true)
    (fd : x.lines.fd = true) : carryEnable g (s.setSegment g x) =
      answer [1, x.speed.code] (s.setSegment g { x with state := .up, fairness := 0 }) := by
  have enabled : enableSegment g (s.setSegment g x) = s.setSegment g { x with state := .up, fairness := 0 } := by
    rw [enableSegment, State.setSegment_read_segment, if_pos rfl, fc, fd, Bool.and_self, if_pos rfl]
    exact setSegment_modSegment _ _ _ _
  rw [carryEnable, State.setSegment_read_segment, if_pos rfl, off]
  dsimp only
  rw [enabled, segmentBody, State.setSegment_read_segment, if_pos rfl]
  rfl

/-- ENABLE of an OFF segment with a line that reads low. -/
theorem carryEnable_low {g : SegId} (s : State) {x : Segment} (off : x.state = .off)
    (low : x.lines.fc = false ∨ x.lines.fd = false) : carryEnable g (s.setSegment g x) =
      answer [2, x.speed.code] (s.setSegment g
        { x with state := .recovering, cause := some .enable, attempts := 0, retryTime := none, fairness := 0 }) := by
  have enabled : enableSegment g (s.setSegment g x) = s.setSegment g
      { x with state := .recovering, cause := some .enable, attempts := 0, retryTime := none, fairness := 0 } := by
    rw [enableSegment, State.setSegment_read_segment, if_pos rfl, if_neg (by rcases low with h | h <;> simp [h])]
    exact setSegment_modSegment _ _ _ _
  rw [carryEnable, State.setSegment_read_segment, if_pos rfl, off]
  dsimp only
  rw [enabled, segmentBody, State.setSegment_read_segment, if_pos rfl]
  rfl

/-- Settles O31. -/
theorem enableAndSetSpeedFollowTheSegmentState : Obligations.EnableAndSetSpeedFollowTheSegmentState := by
  unfold Obligations.EnableAndSetSpeedFollowTheSegmentState
  refine ⟨fun p tag b g s ready named => ⟨fun fc fd x xEq => ⟨fun off high high' => ?_, fun off low => ?_, fun on => ?_⟩,
    fun v speed speedEq => ⟨fun off => ?_, fun on => ?_⟩, fun v big => ?_⟩, fun p tag b v fc fd s ready big => ?_,
    fun p b action v s big => carrySegmentControl_badField big s, ?_⟩
  · refine exec_enable_ready ready named fc fd ?_
    rw [← xEq]
    exact carryEnable_up _ off (by rw [xEq]; exact high) (by rw [xEq]; exact high')
  · refine exec_enable_ready ready named fc fd ?_
    rw [← xEq]
    exact carryEnable_low _ off (by rw [xEq]; exact low)
  · refine exec_enable_ready ready named fc fd ?_
    rw [← xEq, carryEnable_kept (by simpa using on), segmentBody, State.setSegment_read_segment, if_pos rfl]
    rfl
  · refine exec_setSpeed_ready ready named v ?_
    rw [speedEq, Option.elim_some, carrySetSpeed, State.served_segment, off]
    dsimp only
    rw [segmentBody, setSegmentSpeed, State.modSegment, State.setSegment_read_segment, if_pos rfl, State.served_segment]
    dsimp only
    rw [off]
    rfl
  · refine exec_setSpeed_ready ready named v ?_
    rw [speedEq, Option.elim_some]
    exact carrySetSpeed_refused speed on
  · refine exec_setSpeed_ready ready named v ?_
    rw [speedOf_eq_none big]
    rfl
  · intro c hc
    have control : ∀ action v t, carryOut p (.segmentControl b action v) t = refuse .badField t := fun action v t =>
      carrySegmentControl_badField (.inl big) t
    simp only [List.mem_cons, List.not_mem_nil, or_false] at hc
    rcases hc with rfl | rfl | rfl | rfl
    · rw [exec_enable, submit_of_ready tag _ ready (Nat.le_of_ble_eq_true rfl), lookAt, segmentOf_eq_none big, control]
      rfl
    · exact exec_carried (c := .disable p tag b) ready rfl (by simp) (by simp) (control _ _ _)
    · exact exec_carried (c := .segmentRestart p tag b) ready rfl (by simp) (by simp) (control _ _ _)
    · exact exec_carried (c := .setSpeed p tag b v) ready rfl (by simp) (by simp) (control _ _ _)
  · intro b
    exact ⟨by rintro rfl; decide, by rintro rfl; decide⟩

/-! ### DISABLE and RESTART (R121, R130, R132, R143) -/

theorem abortScan_running {g : SegId} {s : State} {r : ScanRange} {next : Address} {found : List Address}
    (h : (s.segment g).scan = ⟨.running r next, found⟩) : abortScan g s =
      offerSystem r.requester (.scanDone g false found.length)
        (s.setSegment g { s.segment g with scan := ⟨.aborted r, found⟩ }) := by
  rw [abortScan, h]
  rfl

theorem abortScan_idle {g : SegId} {s : State} (h : ∀ r next, (s.segment g).scan.state ≠ .running r next) :
    abortScan g s = s := by
  unfold abortScan
  dsimp only
  split
  · next e => exact absurd e (h _ _)
  · rfl

theorem GearsKept.speed {s t : State} (h : GearsKept s t) (g : SegId) : (t.segment g).speed = (s.segment g).speed :=
  congrArg (·.speed) (h g)

/-- An abandonment leaves the speed alone, and nothing in flight (R121). -/
theorem abandon_segment (g : SegId) (s : State) :
    ((abandon g s).segment g).transaction = none ∧ ((abandon g s).segment g).speed = (s.segment g).speed := by
  have ended : ((endTransaction g s).segment g).transaction = none ∧
      ((endTransaction g s).segment g).speed = (s.segment g).speed := by simp [endTransaction]
  unfold abandon
  split
  · exact ⟨‹_›, rfl⟩
  · next t _ =>
    dsimp only
    split
    · exact ended
    · rcases gears_applyOutcome g t.work .timeout (endTransaction g s) with kept | ⟨d, e⟩
      · exact ⟨(kept.transaction g).trans ended.1, (kept.speed g).trans ended.2⟩
      · rw [e]
        simpa using ended

theorem carryDisable_on {g : SegId} {s : State} (h : (s.segment g).state ≠ .off) :
    carryDisable g s = answer [0, (s.segment g).speed.code] (disableSegment g s) := by
  have off := gearsKept_abortScan g ((abandon g s).modSegment g Segment.switchOff)
  have body : segmentBody g (disableSegment g s) = [0, (s.segment g).speed.code] := by
    rw [segmentBody, disableSegment, off.state g, off.speed g, State.modSegment_read_segment, if_pos rfl,
      Segment.switchOff, (abandon_segment g s).2]
    rfl
  unfold carryDisable
  cases state : (s.segment g).state with
  | off => exact absurd state h
  | up | recovering | down => exact congrArg (answer · _) body

theorem carryRestart_on {g : SegId} {s : State} (h : (s.segment g).state = .up ∨ (s.segment g).state = .down) :
    carryRestart g s = answerAccepted [2, (s.segment g).speed.code] (restartSegment g s) := by
  have body : segmentBody g (restartSegment g s) = [2, (s.segment g).speed.code] := by
    rw [segmentBody, restartSegment, beginRecovery, State.modSegment_read_segment, if_pos rfl, (abandon_segment g s).2]
    rfl
  unfold carryRestart
  rcases h with h | h <;> rw [h] <;> exact congrArg (answerAccepted · _) body

/-- Settles O32. -/
theorem disableAndRestartAbandonTheTransaction : Obligations.DisableAndRestartAbandonTheTransaction := by
  unfold Obligations.DisableAndRestartAbandonTheTransaction
  refine ⟨fun g v => ⟨fun r next found h => abortScan_running h, abortScan_idle⟩, fun p tag b g s ready named w wEq => ?_⟩
  obtain ⟨nothing, speed⟩ := abandon_segment g (s.served p)
  rw [← wEq] at nothing speed
  refine ⟨fun off => ?_, fun on => ⟨nothing, speed, ?_⟩, fun off => ?_, fun recovering => ?_, fun on => ?_⟩
  · refine exec_disable_ready ready named ?_
    rw [carryDisable, State.served_segment, off, segmentBody, State.served_segment, off]
    rfl
  · refine exec_disable_ready ready named ?_
    rw [carryDisable_on (s := s.served p) on, disableSegment, ← wEq]
    rfl
  · refine exec_restart_ready ready named ?_
    rw [carryRestart, State.served_segment, off]
    rfl
  · refine exec_restart_ready ready named ?_
    rw [carryRestart, State.served_segment, recovering]
    rfl
  · refine exec_restart_ready ready named ?_
    rw [carryRestart_on (s := s.served p) on, restartSegment, ← wEq]
    rfl

/-! ### SCAN (R142) -/

theorem toNat_truncate_address {b : Byte} (h : b.toNat ≤ 0x6F) : (b.truncate 7 : Address).toNat = b.toNat := by
  rw [BitVec.truncate_eq_setWidth, BitVec.toNat_setWidth, Nat.mod_eq_of_lt (by omega)]

theorem scan_running_iff (c : ScanContext) : c.running = true ↔ ∃ r x, c.state = .running r x := by
  unfold ScanContext.running ScanContext.nextStep
  cases c.state <;> simp

/-- Settles O33. -/
theorem scanReplacesTheScanContext : Obligations.ScanReplacesTheScanContext := by
  unfold Obligations.ScanReplacesTheScanContext
  intro p tag b low high s ready
  have run : ∀ {t : State} {reply : Reply}, carryScan p b low high (s.served p) = (t, reply) →
      exec (.scan p tag b low high) s = .next (responded p tag reply t) :=
    exec_carried (c := .scan p tag b low high) ready rfl (by simp) (by simp)
  refine ⟨fun big => run ?_, fun g named => ⟨fun out => run ?_, fun fromLow ordered toHigh => ?_⟩⟩
  · rw [carryScan, segmentOf_eq_none big]
    rfl
  · by_cases inside : 0x10 ≤ low.toNat ∧ low.toNat ≤ 0x6F ∧ 0x10 ≤ high.toNat ∧ high.toNat ≤ 0x6F
    · obtain ⟨lowFrom, lowTo, highFrom, highTo⟩ := inside
      have crossed : high.toNat < low.toNat := by omega
      rw [carryScan, named, addressOf_eq_some lowFrom lowTo, addressOf_eq_some highFrom highTo]
      dsimp only
      rw [toNat_truncate_address lowTo, toNat_truncate_address highTo, if_pos crossed]
      rfl
    · have missing : addressOf low = none ∨ addressOf high = none := by
        by_cases lowOut : low.toNat < 0x10 ∨ 0x6F < low.toNat
        · exact .inl (addressOf_eq_none lowOut)
        · exact .inr (addressOf_eq_none (by omega))
      rw [carryScan, named]
      rcases missing with none | none
      · rw [none]
        rfl
      · rw [none]
        cases addressOf low <;> rfl
  · have lowTo : low.toNat ≤ 0x6F := by omega
    have highFrom : 0x10 ≤ high.toNat := by omega
    have judged : carryScan p b low high (s.served p) = carryScanRange p g (low.truncate 7) (high.truncate 7) (s.served p) := by
      rw [carryScan, named, addressOf_eq_some fromLow lowTo, addressOf_eq_some highFrom toHigh]
      dsimp only
      rw [toNat_truncate_address lowTo, toNat_truncate_address toHigh, if_neg (by omega)]
    refine ⟨fun away => run ?_, fun present => ⟨fun r x running => run ?_, fun idle => run ?_⟩⟩
    · rw [judged, carryScanRange, State.served_segment, if_pos (by simpa using away)]
      rfl
    · rw [judged, carryScanRange, State.served_segment, if_neg (by rcases present with h | h <;> simp [h]), if_pos
        ((scan_running_iff _).mpr ⟨r, x, running⟩)]
      rfl
    · rw [judged, carryScanRange, State.served_segment, if_neg (by rcases present with h | h <;> simp [h]), if_neg
        (by rw [scan_running_iff]; rintro ⟨r, x, running⟩; exact idle r x running)]
      rfl

/-! ### Recovery attempts (R137, R138, R140) -/

theorem attemptResult_low {r : RecoveryReads} (h : r.fcRises = false) : attemptResult r = some false := by
  rw [attemptResult, h]; rfl

/-- An attempt whose FD is free reaches its STOP and its last reading. -/
theorem attemptResult_free {r : RecoveryReads} (h : r.fcRises = true)
    (free : (if r.fd then some true else pulse 12 r.pulses) = some true) :
    (attemptResult r = some true ↔ r.stop = some true ∧ r.lastFc = true ∧ r.lastFd = true) ∧ attemptResult r ≠ none := by
  have result : attemptResult r = some (r.stop.any Cycle.stop.sampled && r.lastFc && r.lastFd) := by
    rw [attemptResult, h, free]; rfl
  have stop : r.stop.any Cycle.stop.sampled = true ↔ r.stop = some true := by
    cases r.stop <;> simp
  rw [result]
  exact ⟨by rw [Option.some.injEq, Bool.and_eq_true, Bool.and_eq_true, stop, and_assoc], Option.some_ne_none _⟩

theorem attemptResult_stuck {r : RecoveryReads} (h : r.fcRises = true) (low : r.fd = false)
    (stuck : pulse 12 r.pulses = some false) : attemptResult r = some false := by
  rw [attemptResult, h, low, if_neg (by simp), if_neg (by simp), stuck]

/-- Pulses that do not free FD use up their number. -/
theorem pulse_replicate (n k : Nat) (rest : List (Option Bool)) :
    pulse (n + k) (List.replicate n (some false) ++ rest) = pulse k rest := by
  induction n with
  | zero => simp
  | succ n ih =>
    rw [Nat.succ_add, List.replicate_succ, List.cons_append, pulse]
    exact ih

/-- Within twelve pulses, the one behind `n` that do not free FD decides. -/
theorem pulse_behind {n : Nat} (h : n < 12) (x : Option Bool) (rest : List (Option Bool)) :
    pulse 12 (List.replicate n (some false) ++ x :: rest) = pulse (12 - n - 1 + 1) (x :: rest) := by
  have split : 12 = n + (12 - n - 1 + 1) := by omega
  rw [show pulse 12 = pulse (n + (12 - n - 1 + 1)) from congrArg pulse split, pulse_replicate]

theorem attempting_of {x : Segment} {cause : RecoveryCause} (state : x.state = .recovering) (hc : x.cause = some cause)
    (retry : x.retryTime = none) : x.attempting = some cause := by
  rw [Segment.attempting, state, retry]; exact hc

theorem recoveryEvent_eq (cause : RecoveryCause) :
    recoveryEvent cause = if cause = .enable ∨ cause = .restart then .up else .recovered := by
  cases cause <;> rfl

/-- Settles O34. -/
theorem recoveryAttemptsFollowTheirStepsAndTheirEnds : Obligations.RecoveryAttemptsFollowTheirStepsAndTheirEnds := by
  unfold Obligations.RecoveryAttemptsFollowTheirStepsAndTheirEnds
  refine ⟨fun r => ⟨attemptResult_low, fun rises free => attemptResult_free rises (by rw [free]; rfl),
    fun n rest rises low few pulses => attemptResult_free rises ?_, fun n rest rises low few pulses => attemptResult_stuck rises low ?_,
    fun rest rises low pulses => attemptResult_stuck rises low ?_⟩, fun g r cause s recovering causeEq => ⟨fun retry success => ?_,
    fun retry failure few => ?_, fun retry failure third => ?_, fun due retry reachedAt => ?_⟩⟩
  · rw [low, pulses, pulse_behind few]; rfl
  · rw [pulses, pulse_behind few]; rfl
  · rw [pulses]; exact pulse_replicate 12 0 rest
  · change execRecoveryAttemptEnd g r s = _
    rw [execRecoveryAttemptEnd, attempting_of recovering causeEq retry, success]
    dsimp only
    rw [recoverUp, recoveryEvent_eq]
    rfl
  · change execRecoveryAttemptEnd g r s = _
    rw [execRecoveryAttemptEnd, attempting_of recovering causeEq retry, failure]
    dsimp only
    rw [attemptFailed, if_pos (by omega)]
    rfl
  · change execRecoveryAttemptEnd g r s = _
    rw [execRecoveryAttemptEnd, attempting_of recovering causeEq retry, failure]
    dsimp only
    rw [attemptFailed, if_neg (by omega)]
    rfl
  · change execRecoveryRetryExpiry g s = _
    rw [execRecoveryRetryExpiry, Segment.retryReached, retry, if_pos (by simpa using reachedAt)]
    rfl

end Sys2Proof.Machine

/-! The lines and the four transactions on the wires: which levels bring a transaction to which end (R105 to R115, R119, R123,
R124). -/
namespace Sys2Proof.Machine

set_option Elab.async false

/-! ### The course of a transaction from its START -/

/-- The levels bring the transaction from its START to a position. -/
def Work.leads (w : Work) (l : List Bool) (pos : LinkPos) : Prop := w.afterCycles false (.sending 0 0) l = .going pos

/-- The levels bring the transaction from its START to its end, and the last of them no sooner. -/
def Work.ends (w : Work) (l : List Bool) (o : TxOutcome) : Prop :=
  w.afterCycles false (.sending 0 0) l = .ended o ∧
    ∀ q r, l = q ++ r → r ≠ [] → ∃ pos, w.afterCycles false (.sending 0 0) q = .going pos

section Course
variable {w : Work} {l m : List Bool} {b : Byte} {n : Nat} {pos : LinkPos}

theorem leads_nil (w : Work) : w.leads [] (.sending 0 0) := rfl

theorem leads_append (h : w.leads l pos) (m : List Bool) :
    w.afterCycles false (.sending 0 0) (l ++ m) = w.afterCycles false pos m := by
  rw [afterCycles_append, h]

/-- A byte the engine sends, accepted or refused (R108). -/
theorem leads_answered {refuse : Bool} (h : w.leads l (.sending n 0)) (hb : w.sends.getD n 0 = b) (a : answered b refuse m) :
    w.leads (l ++ m) (w.afterSent false n refuse) :=
  (leads_append h m).trans (afterCycles_answered w false n b refuse m hb a)

/-- A clean RESTART (R107). -/
theorem leads_restart (h : w.leads l .restart) : w.leads (l ++ [true]) (.sending 2 0) := leads_append h [true]

/-- The bytes of the nodes (R108, R113, R124). -/
theorem leads_received {bytes : List Byte} (h : w.leads l (.receiving [] [])) (sent : nodesSend bytes m) (some : bytes ≠ [])
    (all : bytes.length = w.receives) : w.leads (l ++ m) (.stop (w.judge bytes)) :=
  (leads_append h m).trans (afterCycles_nodesSend w bytes [] m sent some (by simpa using all))

/-- The STOP ends the transaction (R107, R119). -/
theorem ends_stop {o : TxOutcome} (h : w.leads l (.stop o)) (stop : Bool) :
    w.ends (l ++ [stop]) (if stop then o else .contest) := afterCycles_ends h (afterCycle_stop w false o stop)

/-- A RESTART that reads FD low ends the transaction (R107, R115). -/
theorem ends_restart (h : w.leads l .restart) : w.ends (l ++ [false]) .contest :=
  afterCycles_ends h (afterCycle_restart w false false)

/-- A 1 of the engine's that a node holds low ends the transaction (R115). -/
theorem ends_fights (h : w.leads l (.sending n 0)) (hb : w.sends.getD n 0 = b) (f : fights b m) :
    w.ends (l ++ m) .contest := by
  obtain ⟨before, rfl, short, free, one⟩ := f
  have reached : w.leads (l ++ before) (.sending n before.length) := by
    rw [Work.leads, leads_append h, afterCycles_unfought w false n before 0 (by omega)
      (fun j hj hw => free j hj (by rwa [Nat.zero_add, hb] at hw)), Nat.zero_add]
  have fought : w.afterCycle false (.sending n before.length) false = .ended .contest := by
    rw [afterCycle_bit _ _ _ _ _ short, getD_bitsOf _ _ short, hb, one]
    rfl
  rw [← List.append_assoc]
  exact afterCycles_ends reached fought

end Course

theorem addressOnWire_eq (x : Address) (read : Bool) :
    addressOnWire x read = x ++ (if read then 1#1 else 0#1) := by
  cases read <;> revert x <;> decide +kernel

/-! ### A read (R113) -/

/-- Settles O39. -/
theorem readEndsByItsTableOnTheWires : Obligations.ReadEndsByItsTableOnTheWires := by
  unfold Obligations.ReadEndsByItsTableOnTheWires
  intro kind i x item w l1 l2 l3 l4 data check stop work workEq wr rd wrEq rdEq width widthEq ends endsEq
  have wide : work.receives = width + 1 := by
    rw [workEq, widthEq]
    cases w <;> rfl
  have first : work.sends.getD 0 0 = wr := by rw [workEq, wrEq]; exact addressOnWire_eq x false
  have second : work.sends.getD 1 0 = item := by rw [workEq]; rfl
  have third : work.sends.getD 2 0 = rd := by rw [workEq, rdEq]; exact addressOnWire_eq x true
  have refused : ∀ n, work.afterSent false n true = .stop (if n = 0 then .noNode else .noAccept) := by rw [workEq]; exact fun _ => rfl
  have next : work.afterSent false 0 false = .sending 1 0 ∧ work.afterSent false 1 false = .restart ∧
      work.afterSent false 2 false = .receiving [] [] := by rw [workEq]; exact ⟨rfl, rfl, rfl⟩
  obtain ⟨toItem, toRestart, toData⟩ := next
  subst endsEq
  have start := leads_nil work
  have judged : work.judge (data ++ [check]) = if check = crc8 (item :: data) then .done data else .checkFail := by
    rw [workEq]
    simp [Work.judge]
  have item_ : answered wr false l1 → work.leads l1 (.sending 1 0) := fun a1 => toItem ▸ leads_answered start first a1
  have restart_ : answered wr false l1 → answered item false l2 → work.leads (l1 ++ l2) .restart := fun a1 a2 =>
    toRestart ▸ leads_answered (item_ a1) second a2
  refine ⟨fun a1 => ?_, ends_fights start first, fun a1 => ⟨fun a2 => ?_, ends_fights (item_ a1) second, fun a2 =>
    ⟨ends_restart (restart_ a1 a2), fun a3 => ?_, ends_fights (leads_restart (restart_ a1 a2)) third, fun a3 sent long => ?_⟩⟩,
    fun got bits full => ?_⟩
  · have h := leads_answered start first a1
    rw [refused] at h
    exact ends_stop h stop
  · have h := leads_answered (item_ a1) second a2
    rw [refused] at h
    exact ends_stop h stop
  · have h := leads_answered (leads_restart (restart_ a1 a2)) third a3
    rw [refused] at h
    exact ends_stop h stop
  · have h := leads_answered (leads_restart (restart_ a1 a2)) third a3
    rw [toData] at h
    have received := leads_received h sent (by simp) (by rw [wide, ← long]; simp)
    rw [judged] at received
    exact ends_stop received stop
  · rw [Work.cycle, if_neg (by omega), wide]
    simp

/-! ### A write (R110, R112) -/

theorem crc8Step_eq (r : Byte) : crc8Step r = if r.getLsbD 7 then (r <<< 1) ^^^ 0x07 else r <<< 1 := by
  rw [crc8Step, BitVec.msb_eq_getLsbD_last]

theorem crc8_append (l : List Byte) (b : Byte) : crc8 (l ++ [b]) =
    Nat.repeat (fun r : Byte => if r.getLsbD 7 then (r <<< 1) ^^^ 0x07 else r <<< 1) 8 (crc8 l ^^^ b) := by
  rw [← funext crc8Step_eq, crc8, List.foldl_append]
  rfl

section Plain
variable {w : Work}

/-- After accepted bytes of a transaction that only sends: the next byte, or the STOP behind the last. -/
theorem leads_accepted (plain : ∀ n, w.restartsAfter n = false) (quiet : w.receives = 0) (bytes before rest : List Byte)
    (sent : w.sends = before ++ bytes ++ rest) {l m : List Bool} (h : w.leads l (.sending before.length 0))
    (some : bytes ≠ []) (a : accepted bytes m) : w.leads (l ++ m)
      (if rest = [] then .stop (.done []) else .sending (before ++ bytes).length 0) := by
  induction bytes generalizing before l m with
  | nil => exact absurd rfl some
  | cons b bytes ih =>
    obtain ⟨m1, m2, rfl, a1, a2⟩ := a
    have byte : w.sends.getD before.length 0 = b := by rw [sent]; simp
    have length : w.sends.length = before.length + 1 + bytes.length + rest.length := by
      rw [sent]; simp; omega
    have after := leads_answered h byte a1
    rw [Work.afterSent, if_neg (by simp), if_neg (by simp), Work.afterAccepted, plain, if_neg (by simp), quiet,
      if_pos (c := 0 = 0) rfl] at after
    rw [← List.append_assoc]
    cases bytes with
    | nil =>
      obtain rfl : m2 = [] := a2
      rw [List.append_nil]
      cases rest with
      | nil =>
        rw [if_neg (by rw [length]; simp)] at after
        exact after
      | cons c rest =>
        rw [if_pos (by rw [length]; simp)] at after
        rw [if_neg (by simp), List.length_append, List.length_singleton]
        exact after
    | cons c bytes =>
      rw [if_pos (by rw [length]; simp; omega)] at after
      have further := ih (before ++ [b]) (by rw [sent]; simp) (l := l ++ m1) (m := m2)
        (by rw [List.length_append, List.length_singleton]; exact after) (by simp) a2
      rw [List.append_assoc before [b]] at further
      exact further

end Plain

/-- Settles O40. -/
theorem writeEndsByItsTableOnTheWires : Obligations.WriteEndsByItsTableOnTheWires := by
  unfold Obligations.WriteEndsByItsTableOnTheWires
  refine ⟨⟨rfl, crc8_append⟩, ?_⟩
  intro i x item w v before rest b l m stop work workEq data bytes dataEq bytesEq ends endsEq
  have sends : work.sends = bytes := by
    have same : dataBytes w v = data := by rw [dataEq]; cases w <;> rfl
    rw [workEq, Work.sends, writeTail, same, addressOnWire_eq, bytesEq]
    rfl
  have plain : ∀ n, work.restartsAfter n = false := by rw [workEq]; exact fun _ => rfl
  have quiet : work.receives = 0 := by rw [workEq]; rfl
  have refused : ∀ n, work.afterSent false n true = .stop (if n = 0 then .noNode else .noAccept) := by rw [workEq]; exact fun _ => rfl
  subst endsEq
  have byte : bytes = before ++ b :: rest → work.sends.getD before.length 0 = b := fun split => by rw [sends, split]; simp
  have here : accepted before l → bytes = before ++ b :: rest → work.leads l (.sending before.length 0) := fun a split => by
    by_cases none : before = []
    · subst none
      obtain rfl : l = [] := a
      exact leads_nil work
    · have h := leads_accepted plain quiet before [] (b :: rest) (by simp [sends, split]) (leads_nil work) none a
      rwa [if_neg (by simp)] at h
  refine ⟨fun a => ?_, fun split a => ⟨fun refusal => ?_, fun fought => ?_⟩⟩
  · have some : bytes ≠ [] := by rw [bytesEq]; simp
    have h := leads_accepted plain quiet bytes [] [] (by simp [sends]) (leads_nil work) some a
    rw [if_pos rfl] at h
    exact ends_stop h stop
  · have h := leads_answered (here a split) (byte split) refusal
    rw [refused, if_congr List.length_eq_zero_iff rfl rfl] at h
    exact ends_stop h stop
  · exact ends_fights (here a split) (byte split) fought

/-! ### A probe (R114) -/

/-- Settles O41. -/
theorem probeEndsByItsTableOnTheWires : Obligations.ProbeEndsByItsTableOnTheWires := by
  unfold Obligations.ProbeEndsByItsTableOnTheWires
  intro x l stop work probe ends endsEq
  subst endsEq
  have byte : work.sends.getD 0 0 = x ++ 0#1 := by
    simp only [List.mem_cons, List.not_mem_nil, or_false] at probe
    rcases probe with rfl | rfl <;> exact addressOnWire_eq x false
  have next : work.afterSent false 0 false = .stop (.done []) ∧ work.afterSent false 0 true = .stop .noNode := by
    simp only [List.mem_cons, List.not_mem_nil, or_false] at probe
    rcases probe with rfl | rfl <;> exact ⟨rfl, rfl⟩
  obtain ⟨taken, refused⟩ := next
  refine ⟨fun a => ?_, fun a => ?_, ends_fights (leads_nil work) byte⟩
  · have h := leads_answered (leads_nil work) byte a
    rw [taken] at h
    exact ends_stop h stop
  · have h := leads_answered (leads_nil work) byte a
    rw [refused] at h
    exact ends_stop h stop

/-! ### An alert roll (R123, R124) -/

theorem judgeRoll_eq (b check : Byte) : judgeRoll b check =
    if b.getLsbD 0 = true ∧ 0x10 ≤ b.toNat / 2 ∧ b.toNat / 2 ≤ 0x6F ∧ check = crc8 [b] then .winner (b.extractLsb' 1 7)
    else .empty := by
  rw [judgeRoll]
  refine if_congr ?_ rfl rfl
  simp only [Bool.and_eq_true, nodeAddressInRange, decide_eq_true_eq, beq_iff_eq, and_assoc, eq_comm (a := check)]

/-- Settles O42. -/
theorem rollEndsByItsTableOnTheWires : Obligations.RollEndsByItsTableOnTheWires := by
  unfold Obligations.RollEndsByItsTableOnTheWires
  intro l m b check stop ends endsEq
  subst endsEq
  generalize workEq : Work.roll = work
  have byte : work.sends.getD 0 0 = 0x11 := by rw [← workEq]; rfl
  have refused : work.afterSent false 0 true = .stop .empty := by rw [← workEq]; rfl
  have taken : work.afterSent false 0 false = .receiving [] [] := by rw [← workEq]; rfl
  have two : work.receives = 2 := by rw [← workEq]; rfl
  have verdict : work.judge [b, check] = judgeRoll b check := by rw [← workEq]; rfl
  have start := leads_nil work
  have judged : answered 0x11 false l → nodesSend [b, check] m → work.leads (l ++ m) (.stop (judgeRoll b check)) := by
    intro a sent
    have h := leads_answered start byte a
    rw [taken] at h
    exact verdict ▸ leads_received h sent (by simp) two.symm
  refine ⟨fun a => ?_, ends_fights start byte, fun a sent =>
    ⟨fun low => ?_, fun high one low16 high6F same => ?_, fun high out => ?_⟩, fun got bits full => ?_⟩
  · have h := leads_answered start byte a
    rw [refused] at h
    exact ends_stop h stop
  · rw [low]
    exact ends_stop (judged a sent) false
  · have h := ends_stop (judged a sent) stop
    rw [high, if_pos rfl, judgeRoll_eq, if_pos ⟨one, low16, high6F, same⟩] at h
    rw [high]
    exact h
  · have h := ends_stop (judged a sent) stop
    have none : ¬(b.getLsbD 0 = true ∧ 0x10 ≤ b.toNat / 2 ∧ b.toNat / 2 ≤ 0x6F ∧ check = crc8 [b]) := by
      rintro ⟨one, low16, high6F, same⟩
      rcases out with zero | low | high | other
      · rw [one] at zero; cases zero
      · omega
      · omega
      · exact other same
    rw [high, if_pos rfl, judgeRoll_eq, if_neg none] at h
    rw [high]
    exact h
  · rw [Work.cycle, if_neg (by omega)]
    simp [two]

/-! ### The lines (R105 to R108, R115) -/

/-- The engine has released FC while it waits in a cycle for FC to read high (log entry 16). -/
theorem waiting_fc (c : Cycle) : c.waiting.fc = true := by cases c <;> rfl

/-- Settles O38. -/
theorem engineDrivesTheLinesCycleByCycle : Obligations.EngineDrivesTheLinesCycleByCycle := by
  unfold Obligations.EngineDrivesTheLinesCycleByCycle
  refine ⟨⟨rfl, fun _ => rfl, rfl, fun _ => rfl, rfl, rfl⟩, fun c nodes => ⟨?_, ?_, ?_⟩, fun s g => ⟨⟨rfl, rfl⟩, fun none => ?_,
    fun t flight => ⟨fun since phase => ?_, fun start released pos phase => ?_⟩⟩⟩
  · rw [fought_sampled]
    cases nodes <;> simp [or_assoc]
  · rintro b rfl
    rfl
  · rintro (rfl | rfl | rfl) <;> rfl
  · rw [Segment.drivers, none]
    rfl
  · rw [Segment.drivers, flight]
    dsimp only
    rw [phase]
    rfl
  · have drivers : (s.segment g).drivers = (t.work.cycle t.cleared pos).waiting := by
      rw [Segment.drivers, flight]
      dsimp only
      rw [phase]
    rw [drivers]
    refine ⟨?_, ?_, ?_, ?_, ?_⟩
    · exact waiting_fc _
    · rintro n k rfl
      rw [Work.cycle]
      split
      · next h => rw [waiting_bit, getD_bitsOf _ _ h]
      · rfl
    · rintro rfl
      rfl
    · rintro outcome rfl
      rfl
    · rintro got bits rfl
      rw [Work.cycle]
      split
      · rfl
      · simp only [waiting_answer, Bool.not_and, Bool.not_not, ← decide_not, Nat.not_lt]

end Sys2Proof.Machine

/-! The arbiter's choice (R97, R134 to R136). -/
namespace Sys2Proof.Machine

set_option Elab.async false

/-! ### The first of a list -/

theorem filter_head_of_split {α : Type} {p : α → Bool} {before after : List α} {x : α} (hx : p x = true)
    (none : ∀ y ∈ before, p y = false) : ((before ++ x :: after).filter p).head? = some x := by
  have empty : before.filter p = [] := List.filter_eq_nil_iff.mpr fun y hy => by simp [none y hy]
  rw [List.filter_append, empty, List.filter_cons_of_pos hx]
  rfl

/-- The lowest-numbered slot that a test holds of. -/
theorem filter_allSlots_head {p : SlotNo → Bool} {i : SlotNo} (hi : p i = true) (lower : ∀ j, j < i → p j = false) :
    (allSlots.filter p).head? = some i := by
  cases found : (allSlots.filter p).head? with
  | none =>
    rw [List.head?_eq_none_iff] at found
    exact absurd (List.mem_filter.mpr ⟨mem_allSlots i, hi⟩) (by simp [found])
  | some j =>
    rw [List.head?_filter] at found
    obtain ⟨hj, before, after, split, none⟩ := List.find?_eq_some_iff_append.mp found
    have order : allSlots.Pairwise (· < ·) := List.pairwise_lt_finRange 256
    rcases List.mem_append.mp (split ▸ mem_allSlots i) with early | late
    · have := none i early
      rw [hi] at this
      cases this
    · rcases List.mem_cons.mp late with rfl | late
      · rfl
      · rw [split, List.pairwise_append] at order
        have less : j < i := (List.pairwise_cons.mp order.2.1).1 i late
        rw [lower j less] at hj
        cases hj

/-! ### Due probes (R97) -/

theorem mem_insertProbe {y : Address × Time} {x : Address} {t : Time} {l : List (Address × Time)} (h : y ∈ insertProbe x t l) :
    y = (x, t) ∨ y ∈ l := by
  induction l with
  | nil => simpa [insertProbe] using h
  | cons z l ih =>
    unfold insertProbe at h
    split at h
    · exact List.mem_cons.mp h
    · rcases List.mem_cons.mp h with e | h
      · exact .inr (e ▸ List.mem_cons_self)
      · exact (ih h).imp id (List.mem_cons_of_mem z)

/-- An entry whose probe, with next probe time `t`, is due (R97). -/
def NodeEntry.probeDueAt (e : NodeEntry) (t : Time) : Prop := e.presence = .lost ∧ e.probe = some ⟨t, true⟩

theorem addProbe_due {e : NodeEntry} {t : Time} (h : e.probeDueAt t) (l : List (Address × Time)) :
    addProbe l e = insertProbe e.address t l := by
  obtain ⟨lost, probe⟩ := h
  simp [addProbe, lost, probe]

theorem addProbe_other {e : NodeEntry} (h : ∀ t, ¬e.probeDueAt t) (l : List (Address × Time)) : addProbe l e = l := by
  unfold addProbe
  cases probe : e.probe with
  | none => rfl
  | some p =>
    obtain ⟨t, due⟩ := p
    refine if_neg fun both => h t ?_
    rw [Bool.and_eq_true, beq_iff_eq] at both
    obtain ⟨rfl, lost⟩ := both
    exact ⟨lost, probe⟩

theorem probeDueAt_or (e : NodeEntry) : (∃ t, e.probeDueAt t) ∨ ∀ t, ¬e.probeDueAt t := by
  by_cases h : ∃ t, e.probeDueAt t
  · exact .inl h
  · exact .inr fun t ht => h ⟨t, ht⟩

/-- The due probes put in their places are those of the entries. -/
theorem mem_foldl_addProbe {y : Address × Time} {l : List NodeEntry} {acc : List (Address × Time)}
    (h : y ∈ l.foldl addProbe acc) : y ∈ acc ∨ ∃ f ∈ l, f.probeDueAt y.2 := by
  induction l generalizing acc with
  | nil => exact .inl h
  | cons f l ih =>
    rcases ih h with early | ⟨f', member, due⟩
    · rcases probeDueAt_or f with ⟨t, due⟩ | no
      · rw [addProbe_due due] at early
        rcases mem_insertProbe early with e | early
        · exact .inr ⟨f, List.mem_cons_self, e ▸ due⟩
        · exact .inl early
      · exact .inl (addProbe_other no acc ▸ early)
    · exact .inr ⟨f', List.mem_cons_of_mem f member, due⟩

/-- A probe stays the first as long as the others are no earlier. -/
theorem foldl_addProbe_head {x : Address} {t : Time} {l : List NodeEntry} {acc : List (Address × Time)}
    (h : acc.head? = some (x, t)) (later : ∀ f ∈ l, ∀ u, f.probeDueAt u → earlierThan u t = false) :
    (l.foldl addProbe acc).head? = some (x, t) := by
  induction l generalizing acc with
  | nil => exact h
  | cons f l ih =>
    refine ih ?_ fun f' member => later f' (List.mem_cons_of_mem f member)
    rcases probeDueAt_or f with ⟨u, due⟩ | no
    · rw [addProbe_due due]
      cases acc with
      | nil => cases h
      | cons y acc =>
        obtain rfl := Option.some.inj h
        rw [insertProbe, later f List.mem_cons_self u due]
        rfl
    · rw [addProbe_other no]
      exact h

theorem insertProbe_first {x : Address} {t : Time} {l : List (Address × Time)} (h : ∀ y ∈ l, earlierThan t y.2 = true) :
    (insertProbe x t l).head? = some (x, t) := by
  cases l with
  | nil => rfl
  | cons y l => rw [insertProbe, if_pos (h y List.mem_cons_self)]; rfl

theorem earlierThan_of_laterThan {t u : Time} (h : laterThan t u = true) : earlierThan u t = true ∧ earlierThan t u = false := by
  rw [laterThan_iff, toNat_time_sub] at h
  simp only [earlierThan, decide_eq_true_eq, decide_eq_false_iff_not, toNat_time_sub]
  have := t.isLt
  have := u.isLt
  omega

theorem earlierThan_self (t : Time) : earlierThan t t = false := by simp [earlierThan]

section Probes
variable {g : SegId} {s : State} {e : NodeEntry} {t : Time}

/-- The earliest due probe is the first, of equal times that of the lowest address. -/
theorem dueProbes_head (ordered : s.directory.Pairwise (fun e f => e.before f = true)) (member : e ∈ s.directory)
    (own : e.segment = g) (due : e.probeDueAt t)
    (first : ∀ f u, f ∈ s.directory → f.segment = g → f.probeDueAt u → f ≠ e →
      laterThan u t = true ∨ (u = t ∧ e.address.toNat < f.address.toNat)) :
    (s.dueProbes g).head? = some e.address := by
  obtain ⟨before, after, split⟩ := List.append_of_mem (List.mem_filter.mpr ⟨member, by simpa using own⟩ :
    e ∈ s.directory.filter (·.segment == g))
  have sorted := ordered.filter (·.segment == g)
  have within : ∀ f, f ∈ before ++ e :: after → f ∈ s.directory ∧ f.segment = g := fun f hf => by
    have := List.mem_filter.mp (split ▸ hf)
    exact ⟨this.1, by simpa using this.2⟩
  rw [split, List.pairwise_append, List.pairwise_cons] at sorted
  obtain ⟨-, ⟨behind, -⟩, ahead⟩ := sorted
  have lower : ∀ {f h : NodeEntry}, f.before h = true → f.segment = g → h.segment = g → f.address.toNat < h.address.toNat := by
    intro f h order fOwn hOwn
    rw [before_iff, fOwn, hOwn] at order
    rcases order with ⟨a, b⟩ | ⟨-, less⟩
    · rw [a] at b; cases b
    · exact less
  have entered : ((before ++ [e]).foldl addProbe []).head? = some (e.address, t) := by
    rw [List.foldl_append, List.foldl_cons, List.foldl_nil, addProbe_due due]
    refine insertProbe_first fun y hy => ?_
    obtain ⟨f, hf, fDue⟩ := (mem_foldl_addProbe hy).resolve_left List.not_mem_nil
    obtain ⟨fMember, fOwn⟩ := within f (List.mem_append_left _ hf)
    have under := lower (ahead f hf e List.mem_cons_self) fOwn own
    rcases first f y.2 fMember fOwn fDue (fun same => by rw [same] at under; omega) with later | ⟨-, higher⟩
    · exact (earlierThan_of_laterThan later).1
    · omega
  have kept := foldl_addProbe_head entered (l := after) fun f hf u fDue => by
    obtain ⟨fMember, fOwn⟩ := within f (List.mem_append_right _ (List.mem_cons_of_mem e hf))
    have higher := lower (behind f hf) own fOwn
    rcases first f u fMember fOwn fDue (fun same => by rw [same] at higher; omega) with later | ⟨rfl, -⟩
    · exact (earlierThan_of_laterThan later).2
    · exact earlierThan_self u
  rw [← List.foldl_append, List.append_assoc, List.singleton_append, ← split] at kept
  rw [State.dueProbes, List.head?_map, kept]
  rfl

theorem dueProbes_eq_nil (none : ∀ e t, e ∈ s.directory → e.segment = g → ¬e.probeDueAt t) : s.dueProbes g = [] := by
  rw [State.dueProbes, List.map_eq_nil_iff, List.eq_nil_iff_forall_not_mem]
  intro y hy
  obtain ⟨f, hf, due⟩ := (mem_foldl_addProbe hy).resolve_left List.not_mem_nil
  obtain ⟨member, own⟩ := List.mem_filter.mp hf
  exact none f y.2 member (by simpa using own) due

end Probes

/-! ### What the arbiter weighs (R134, R135) -/

section Candidates
variable {g : SegId} {s : State} {i : SlotNo}

/-- The verification read of slot `i` is owed on the segment (R77, R134). -/
theorem owed_iff (g : SegId) (s : State) (i : SlotNo) :
    ((s.point? i).any fun pt => pt.segment == g && pt.awaitsVerify) = true ↔
      ∃ pt cmd v next, s.point? i = some pt ∧ pt.segment = g ∧ pt.command = some cmd ∧ cmd.stand = .verifying v next ∧
        ∀ f, pt.inFlight = some f → f.kind ≠ .verify := by
  cases hp : s.point? i with
  | none => simp
  | some pt =>
    rw [Option.any_some, Bool.and_eq_true, beq_iff_eq, awaitsVerify_iff]
    constructor
    · rintro ⟨own, v, next, stand, idle⟩
      cases command : pt.command with
      | none => rw [stand_of_none command] at stand; cases stand
      | some cmd => exact ⟨pt, cmd, v, next, rfl, own, command, (stand_of_some command).symm.trans stand, idle⟩
    · rintro ⟨pt', cmd, v, next, same, own, command, stand, idle⟩
      obtain rfl := Option.some.inj same
      exact ⟨own, v, next, (stand_of_some command).trans stand, idle⟩

theorem eligible_iff (s : State) (i : SlotNo) : ((s.point? i).any fun pt => !s.nodeLost pt.segment pt.address) = true ↔
    ∃ pt, s.point? i = some pt ∧ s.nodeLost pt.segment pt.address = false := by
  cases s.point? i <;> simp

theorem candidates_head_verify (h : (s.owedVerifies g).head? = some i) : (s.candidates g).head? = some (.verify i) := by
  simp [State.candidates, h]

/-- With no verification read owed, the queued work comes first. -/
theorem candidates_head_queued (none : s.owedVerifies g = []) {c : Choice} (h : (s.queuedWork g).head? = some c) :
    (s.candidates g).head? = some c := by
  simp [State.candidates, none, h]

theorem candidates_unqueued (none : s.owedVerifies g = []) (idle : s.queuedWork g = []) : s.candidates g =
    (s.dueProbes g).map Choice.probe ++ (s.segment g).scan.nextStep.toList.map Choice.scanStep := by
  simp [State.candidates, none, idle]

theorem wantsRoll_iff (x : Segment) : x.wantsRoll = true ↔ x.lines.fa = false ∧ x.suppression = none := by
  simp [Segment.wantsRoll]

theorem queuedWork_plain (h : (s.segment g).fairness < 4 ∨ s.eligibleCommands g = []) : s.queuedWork g =
    (s.eligibleCommands g).map Choice.command ++ (if (s.segment g).wantsRoll then [Choice.roll] else []) ++
      (s.segment g).dueSlots.map Choice.poll := by
  rw [State.queuedWork]
  refine if_neg ?_
  rw [Bool.and_eq_true, decide_eq_true_eq]
  rintro ⟨fair, some⟩
  rcases h with less | none
  · exact absurd less (by rw [fairnessLimit] at fair; omega)
  · simp [none] at some

theorem queuedWork_fair (fair : 4 ≤ (s.segment g).fairness) (some : s.eligibleCommands g ≠ []) : s.queuedWork g =
    (s.segment g).dueSlots.map Choice.poll ++ (s.eligibleCommands g).map Choice.command ++
      (if (s.segment g).wantsRoll then [Choice.roll] else []) := by
  rw [State.queuedWork]
  refine if_pos ?_
  rw [Bool.and_eq_true, decide_eq_true_eq]
  exact ⟨fair, by simpa using some⟩

theorem granted_of_split {before after : List Choice} {c : Choice} {w : Work} {t : State}
    (split : s.candidates g = before ++ c :: after) (refused : ∀ d ∈ before, claimStart g d s = none)
    (claim : claimStart g c s = some (w, t)) : s.granted g = some (w, t) := by
  have none : before.findSome? (claimStart g · s) = none := List.findSome?_eq_none_iff.mpr refused
  rw [State.granted, split, List.findSome?_append, none, List.findSome?_cons, claim]
  rfl

end Candidates

/-- Settles O43. -/
theorem arbiterChoosesInItsOrder : Obligations.ArbiterChoosesInItsOrder := by
  unfold Obligations.ArbiterChoosesInItsOrder
  intro g s owed owedEq eligible eligibleEq commandFirst pollFirst commandEq pollEq probeDue probeEq first firstEq
  have owedIff : ∀ i, ((s.point? i).any fun pt => pt.segment == g && pt.awaitsVerify) = true ↔ owed i := fun i => by
    rw [owedEq]; exact owed_iff g s i
  have eligibleIff : ∀ i, i ∈ s.eligibleCommands g ↔ eligible i := fun i => by
    rw [eligibleEq, State.eligibleCommands, List.mem_filter, eligible_iff]
  have commandHead : ∀ i, commandFirst i → (s.eligibleCommands g).head? = some i := fun i h => by
    rw [commandEq] at h
    obtain ⟨before, after, split, own, none⟩ := h
    rw [State.eligibleCommands, split]
    refine filter_head_of_split ?_ fun j hj => ?_
    · exact (List.mem_filter.mp ((eligibleIff i).mpr own)).2
    · refine Bool.eq_false_iff.mpr fun yes => none j hj ((eligibleIff j).mp (List.mem_filter.mpr ⟨?_, yes⟩))
      rw [split]
      exact List.mem_append_left _ hj
  have pollHead : ∀ j, pollFirst j → (s.segment g).dueSlots.head? = some j := fun j h => by
    rw [pollEq] at h
    obtain ⟨before, e, after, split, rfl, marked, none⟩ := h
    rw [Segment.dueSlots, List.head?_map, split, filter_head_of_split marked none]
    rfl
  have unmarked : (∀ e ∈ (s.segment g).schedule, e.marked = false) → (s.segment g).dueSlots = [] := fun h => by
    rw [Segment.dueSlots, List.filter_eq_nil_iff.mpr fun e he => by simp [h e he]]
    rfl
  subst firstEq
  refine ⟨fun i own lower => ?_, fun none => ?_, fun up idle => ?_⟩
  · refine candidates_head_verify (filter_allSlots_head ((owedIff i).mpr own) fun j hj => ?_)
    exact Bool.eq_false_iff.mpr fun yes => lower j hj ((owedIff j).mp yes)
  · have nobody : s.owedVerifies g = [] := List.filter_eq_nil_iff.mpr fun i _ yes => none i ((owedIff i).mp yes)
    refine ⟨fun i h fair => candidates_head_queued nobody ?_, fun i j own fair h => candidates_head_queued nobody ?_, fun noCommand => ?_⟩
    · have command := commandHead i h
      rcases fair with less | allUnmarked
      · rw [queuedWork_plain (.inl less)]
        simp [command]
      · by_cases less : (s.segment g).fairness < 4
        · rw [queuedWork_plain (.inl less)]
          simp [command]
        · rw [queuedWork_fair (by omega) (by rintro none; simp [none] at command), unmarked allUnmarked]
          simp [command]
    · rw [queuedWork_fair fair (List.ne_nil_of_mem ((eligibleIff i).mpr own))]
      simp [pollHead j h]
    · have commands : s.eligibleCommands g = [] := List.eq_nil_iff_forall_not_mem.mpr fun i hi => noCommand i ((eligibleIff i).mp hi)
      have queued := queuedWork_plain (g := g) (s := s) (.inr commands)
      rw [commands, List.map_nil, List.nil_append] at queued
      refine ⟨fun low free => ?_, fun noRoll => ?_⟩
      · rw [if_pos ((wantsRoll_iff _).mpr ⟨low, free⟩)] at queued
        exact candidates_head_queued nobody (by rw [queued]; rfl)
      · have quiet : ¬(s.segment g).wantsRoll = true := by
          rw [wantsRoll_iff]
          rintro ⟨low, free⟩
          rcases noRoll with high | suppressed
          · rw [low] at high; cases high
          · exact suppressed free
        rw [if_neg quiet, List.nil_append] at queued
        refine ⟨fun j h => candidates_head_queued nobody (by rw [queued]; simp [pollHead j h]), fun allUnmarked => ?_⟩
        rw [unmarked allUnmarked, List.map_nil] at queued
        rw [candidates_unqueued nobody queued]
        refine ⟨fun e t ordered due earliest => ?_, fun noProbe => ?_⟩
        · rw [probeEq] at due earliest
          obtain ⟨member, own, due⟩ := due
          have head := dueProbes_head ordered member own due fun f u hf fOwn fDue other => earliest f u ⟨hf, fOwn, fDue⟩ other
          simp [head]
        · have probes : s.dueProbes g = [] := dueProbes_eq_nil fun e t member own due =>
            noProbe e t (by rw [probeEq]; exact ⟨member, own, due⟩)
          rw [probes, List.map_nil, List.nil_append, ScanContext.nextStep]
          refine ⟨fun r x running => by rw [running]; rfl, fun idle => ?_⟩
          cases state : (s.segment g).scan.state with
          | running r x => exact absurd state (idle r x)
          | idle | done | aborted => rfl
  · have choose : exec (.arbiterChoose g (s.segment g).lines) s = .next (chooseWork g s) := by
      change Host.Outcome.next (chooseWork g (s.setLines g (s.segment g).lines)) = _
      rw [setLines_self]
    have ready : (s.segment g).idle = true := (Segment.idle_iff _).mpr ⟨up, idle⟩
    refine ⟨fun before c after work t split refused claim => ?_, fun refused => ?_⟩
    · rw [choose, chooseWork, if_pos ready, granted_of_split split refused claim]
    · have none : s.granted g = none := List.findSome?_eq_none_iff.mpr refused
      rw [choose, chooseWork, if_pos ready, none]

end Sys2Proof.Machine

/-! A granted start takes its point or its probe from its collections (R19, R37, R75, R97, R118, R135, R142). -/
namespace Sys2Proof.Machine

set_option Elab.async false

/-! ### What a candidate stands for -/

section Chosen
variable {g : SegId} {s : State} {i : SlotNo}

theorem mem_of_head {α : Type} {l : List α} {x : α} (h : l.head? = some x) : x ∈ l := by
  cases l with
  | nil => cases h
  | cons y l => obtain rfl := Option.some.inj h; exact List.mem_cons_self

theorem mem_queuedWork {c : Choice} (h : c ∈ s.queuedWork g) :
    c ∈ (s.eligibleCommands g).map Choice.command ∨ c ∈ (s.segment g).dueSlots.map Choice.poll ∨ c = .roll := by
  have roll : ∀ b : Bool, c ∈ (if b then [Choice.roll] else []) → c = .roll := fun b hc => by
    cases b <;> simp at hc
    exact hc
  rw [State.queuedWork] at h
  split at h <;> simp only [List.mem_append] at h <;> rcases h with (h | h) | h
  · exact .inr (.inl h)
  · exact .inl h
  · exact .inr (.inr (roll _ h))
  · exact .inl h
  · exact .inr (.inr (roll _ h))
  · exact .inr (.inl h)

theorem command_of_candidate (h : Choice.command i ∈ s.candidates g) : i ∈ (s.segment g).commandQueue := by
  simp only [State.candidates, List.mem_append, List.mem_map, reduceCtorEq, and_false, exists_false, or_false, false_or] at h
  rcases mem_queuedWork h with h | h | h
  · obtain ⟨j, hj, same⟩ := List.mem_map.mp h
    obtain rfl := Choice.command.inj same
    exact (List.mem_filter.mp hj).1
  · simp at h
  · cases h

theorem verify_of_candidate {pt : Point} (h : Choice.verify i ∈ s.candidates g) (hp : s.point? i = some pt) :
    pt.awaitsVerify = true := by
  simp only [State.candidates, List.mem_append, List.mem_map, reduceCtorEq, and_false, exists_false, or_false] at h
  rcases h with ⟨j, hj, same⟩ | h
  · obtain rfl := Choice.verify.inj same
    have := (List.mem_filter.mp hj).2
    rw [hp, Option.any_some, Bool.and_eq_true] at this
    exact this.2
  · rcases mem_queuedWork h with h | h | h <;> simp at h

theorem scanStep_of_candidate {x : Address} (h : Choice.scanStep x ∈ s.candidates g) :
    (s.segment g).scan.nextStep = some x := by
  simp only [State.candidates, List.mem_append, List.mem_map, reduceCtorEq, and_false, exists_false, or_false, false_or] at h
  rcases h with h | ⟨y, hy, same⟩
  · rcases mem_queuedWork h with h | h | h <;> simp at h
  · obtain rfl := Choice.scanStep.inj same
    simpa using hy

end Chosen

/-! ### The start (R107, R118, R135) -/

/-- The phase in which a transaction begins: on free lines the START is made at once. -/
def startPhase (l : Lines) (now : Time) : TxPhase :=
  if l.fc = true ∧ l.fd = true then .onWires now now (.sending 0 0) else .lineCheck now

section Start
variable {g : SegId} {l : Lines} {s : State} {i : SlotNo} {pt : Point}

theorem beginTransaction_eq (w : Work) (s : State) : beginTransaction g w s = s.modSegment g fun x =>
    { x with
      fairness := fairnessAfter w x.fairness
      transaction := some ⟨w, startPhase x.lines s.clock, false⟩ } := by
  have phase : ∀ x : Segment, (if (x.lines.fc && x.lines.fd) = true then TxPhase.started s.clock else .lineCheck s.clock) =
      startPhase x.lines s.clock := fun x => if_congr (Bool.and_eq_true _ _).to_iff rfl rfl
  simp only [beginTransaction, phase]

/-- An idle engine whose first candidate's claim is granted starts it. -/
theorem exec_choose {c : Choice} {w : Work} {t : State} (up : (s.segment g).state = .up)
    (idle : (s.segment g).transaction = none) (first : ((s.setLines g l).candidates g).head? = some c)
    (claim : claimStart g c (s.setLines g l) = some (w, t)) : exec (.arbiterChoose g l) s = .next (beginTransaction g w t) := by
  have ready : ((s.setLines g l).segment g).idle = true := (Segment.idle_iff _).mpr (by simp [State.setLines, up, idle])
  have granted : (s.setLines g l).granted g = some (w, t) := by
    obtain ⟨rest, split⟩ := List.head?_eq_some_iff.mp first
    exact granted_of_split (before := []) split (by simp) claim
  change Host.Outcome.next (chooseWork g (s.setLines g l)) = _
  rw [chooseWork, if_pos ready, granted]

theorem setLines_eq_put (hp : s.point? i = some pt) :
    s.setLines g l = s.put i pt g { s.segment g with lines := l } := by
  rw [State.put, setPoint_self hp]
  rfl

theorem takeFlight_put (kind : FlightKind) (x : Segment) : takeFlight g i kind (s.put i pt g x) =
    s.put i { pt with inFlight := some ⟨kind, (x.schedule.find? (·.slot == i)).map (·.due)⟩ } g
      { x with schedule := removeEntry i x.schedule } := by
  rw [takeFlight, leaveSchedule_put, State.put_modPoint, State.put_entryOf]

theorem beginTransaction_put (w : Work) (x : Segment) : beginTransaction g w (s.put i pt g x) = s.put i pt g
    { x with
      fairness := fairnessAfter w x.fairness
      transaction := some ⟨w, startPhase x.lines s.clock, false⟩ } := by
  rw [beginTransaction_eq, State.put_modSegment]
  rfl

theorem pollKind_eq (pt : Point) : pt.pollKind =
    if pt.command ≠ none then .guard else if pt.fresh.host = true ∨ pt.fresh.console = true then .refreshPoll else .poll := by
  rw [Point.pollKind, if_congr (isOutput_iff pt) rfl (if_congr (Bool.or_eq_true _ _).to_iff rfl rfl)]

theorem fairnessAfter_poll (pt : Point) (i : SlotNo) (x : Address) (b : Byte) (w : Width) (n : Nat) :
    fairnessAfter (.read pt.pollKind i x b w) n = 0 := by
  have kinds : pt.pollKind = .guard ∨ pt.pollKind = .refreshPoll ∨ pt.pollKind = .poll := by
    rw [pollKind_eq]
    split
    · exact .inl rfl
    · split
      · exact .inr (.inl rfl)
      · exact .inr (.inr rfl)
  rcases kinds with h | h | h <;> rw [h] <;> rfl

/-- A QUEUED command of a startable point is claimed (R19, R75). -/
theorem claimCommand_put {v : Issued} {d : Option Time} {x : Segment} (active : pt.state = .active) (free : pt.inFlight = none)
    (stand : pt.stand = .queued v d) (queued : i ∈ x.commandQueue) : claimCommand g i (s.put i pt g x) =
      some (.write i pt.address pt.item pt.width v.value, s.put i
        (({ pt with inFlight := some ⟨.write, (x.schedule.find? (·.slot == i)).map (·.due)⟩ } : Point).modCommand
          fun c => { c with stand := .writing v none }) g
        { x with schedule := removeEntry i x.schedule, commandQueue := x.commandQueue.filter (· != i) }) := by
  unfold claimCommand
  rw [State.put_point, stand_put, stand, State.put_segment]
  dsimp only
  rw [if_pos (by rw [Bool.and_eq_true, startable_iff]; exact ⟨⟨active, free⟩, by simpa using queued⟩), leaveQueue_put,
    takeFlight_put, setStand_put]

theorem claimPoll_put {e : SchedEntry} {x : Segment} (active : pt.state = .active) (free : pt.inFlight = none)
    (entry : x.schedule.find? (·.slot == i) = some e) : claimPoll g i (s.put i pt g x) =
      some (.read pt.pollKind i pt.address pt.item pt.width, s.put i
        { pt with inFlight := some ⟨pt.pollKind.flight, some e.due⟩ } g { x with schedule := removeEntry i x.schedule }) := by
  unfold claimPoll
  rw [State.put_point]
  dsimp only
  rw [State.put_entryOf, entry, if_pos (by rw [Bool.and_eq_true, startable_iff]; exact ⟨⟨active, free⟩, rfl⟩), takeFlight_put, entry]
  rfl

theorem claimVerify_put {x : Segment} (active : pt.state = .active) (free : pt.inFlight = none) (owed : pt.awaitsVerify = true) :
    claimVerify g i (s.put i pt g x) =
      some (.read .verify i pt.address pt.item pt.width, s.put i
        { pt with inFlight := some ⟨.verify, (x.schedule.find? (·.slot == i)).map (·.due)⟩ } g
        { x with schedule := removeEntry i x.schedule }) := by
  unfold claimVerify
  rw [State.put_point]
  dsimp only
  rw [if_pos (by rw [Bool.and_eq_true, startable_iff]; exact ⟨⟨active, free⟩, owed⟩), takeFlight_put]

end Start

/-- Settles O44. -/
theorem grantedStartTakesThePointFromItsCollection : Obligations.GrantedStartTakesThePointFromItsCollection := by
  unfold Obligations.GrantedStartTakesThePointFromItsCollection
  intro g l s w wEq phase phaseEq chosen chosenEq
  subst wEq chosenEq
  have phaseIs : startPhase l s.clock = phase := phaseEq.symm
  refine ⟨fun busy => ?_, fun up idle => ⟨fun i pt v d first hp active free stand => ?_,
    fun i pt e first hp active free entry kind kindEq => ?_, fun i pt first hp active free => ?_, fun first => ?_,
    fun x e t first found lost due => ?_, fun x first => ?_⟩⟩
  · have notReady : ((s.setLines g l).segment g).idle = false := by
      rw [Bool.eq_false_iff, ne_eq, Segment.idle_iff]
      rintro ⟨up, idle⟩
      simp only [State.setLines, State.modSegment_read_segment, if_true] at up idle
      exact busy.elim (· up) (· idle)
    change Host.Outcome.next (chooseWork g (s.setLines g l)) = _
    rw [chooseWork, notReady]
    rfl
  · have queued := command_of_candidate (mem_of_head first)
    have claim := claimCommand_put (g := g) (s := s) (x := { s.segment g with lines := l }) active free
      ((stand_of_point hp).symm.trans stand) (by simpa [State.setLines] using queued)
    rw [exec_choose up idle first (by rw [setLines_eq_put hp]; exact claim), beginTransaction_put, phaseIs, removeEntry,
      filter_slot_bne, filter_bne]
    rfl
  · have claim := claimPoll_put (g := g) (s := s) (i := i) (x := { s.segment g with lines := l }) active free entry
    rw [exec_choose up idle first (by rw [setLines_eq_put hp]; exact claim), beginTransaction_put, phaseIs, removeEntry,
      filter_slot_bne, fairnessAfter_poll, kindEq, ← pollKind_eq]
    rfl
  · have owed := verify_of_candidate (mem_of_head first) (by simpa [State.setLines] using hp)
    have claim := claimVerify_put (g := g) (s := s) (i := i) (x := { s.segment g with lines := l }) active free owed
    rw [exec_choose up idle first (by rw [setLines_eq_put hp]; exact claim), beginTransaction_put, phaseIs, removeEntry,
      filter_slot_bne]
    rfl
  · rw [exec_choose up idle first (w := .roll) rfl, beginTransaction_eq, State.setLines, modSegment_modSegment, ← phaseIs]
    rfl
  · have claim : claimProbe g x (s.setLines g l) = some (.probe x, (s.setLines g l).modNode g x fun e => { e with probe := none }) := by
      unfold claimProbe
      rw [show (s.setLines g l).nodeEntry? g x = some e from found]
      dsimp only
      rw [if_pos (by simp [lost, due])]
    have keyed : (s.directory.map fun f => if f.hasKey g x then { f with probe := none } else f) =
        s.directory.map fun f => if f.segment = g ∧ f.address = x then { f with probe := none } else f :=
      congrArg s.directory.map (funext fun f => if_congr (hasKey_iff f g x) rfl rfl)
    rw [exec_choose up idle first claim, beginTransaction_eq, State.modNode, State.setLines, ← keyed, ← phaseIs]
    cases g <;> rfl
  · have claim : claimStart g (.scanStep x) (s.setLines g l) = some (.scanStep x, s.setLines g l) := by
      rw [claimStart, if_pos (by simpa using scanStep_of_candidate (mem_of_head first))]
    rw [exec_choose up idle first claim, beginTransaction_eq, State.setLines, modSegment_modSegment, ← phaseIs]
    rfl

end Sys2Proof.Machine

/-! Line events, completions that do not end a transaction, the expiries of the lines, and the end of a cleared transaction (R116 to
R120, R122, R137). -/
namespace Sys2Proof.Machine

set_option Elab.async false

/-! ### Line events and partial completions (R116, R118) -/

section Events
variable {g : SegId} {s : State} {t : Transaction}

/-- A completion of the work in flight whose levels do not reach its end moves it on. -/
theorem completeWith_going {f : Work → Bool} {start released : Time} {pos further : LinkPos} {levels : List Bool}
    (flight : (s.segment g).transaction = some t) (phase : t.phase = .onWires start released pos) (named : t.cleared = false)
    (served : f t.work = true) (some : levels ≠ []) (going : t.work.afterCycles false pos levels = .going further) :
    completeWith g f levels s = s.setSegment g
      { s.segment g with transaction := .some { t with phase := .onWires start s.clock further } } := by
  obtain ⟨work, _, _⟩ := t
  subst phase named
  have serving : (s.segment g).serving f = true := by simpa [Segment.serving, flight] using served
  rw [completeWith, if_pos serving, driveOn_going (f := id) flight going some]
  rfl

theorem startAfterLineCheck_early {since : Time} (flight : (s.segment g).transaction = some t)
    (phase : t.phase = .lineCheck since) (early : laterThan s.clock (since + 2) = false) :
    exec (.startAfterLineCheck g) s = .next (s.setSegment g
      { s.segment g with
        lines := { (s.segment g).lines with fc := true, fd := true }
        transaction := some { t with phase := .onWires s.clock s.clock (.sending 0 0) } }) := by
  have checking : (s.segment g).checking s.clock = true := by
    simp only [Segment.checking, Segment.checkSince, flight, phase, Option.any_some, Bool.not_eq_true']
    exact early
  change execStartAfterLineCheck g s = _
  rw [execStartAfterLineCheck, if_pos checking, State.modSegment, flight]
  rfl

theorem startAfterLineCheck_late {since : Time} (flight : (s.segment g).transaction = some t)
    (phase : t.phase = .lineCheck since) (late : laterThan s.clock (since + 2) = true) :
    exec (.startAfterLineCheck g) s = .next s := by
  have checking : (s.segment g).checking s.clock = false := by
    simp only [Segment.checking, Segment.checkSince, flight, phase, Option.any_some, Bool.not_eq_false']
    exact late
  change execStartAfterLineCheck g s = _
  rw [execStartAfterLineCheck, checking]
  rfl

end Events

/-- Settles O45. -/
theorem lineEventsMoveTheTransactionOn : Obligations.LineEventsMoveTheTransactionOn := by
  unfold Obligations.LineEventsMoveTheTransactionOn
  refine fun g s t => ⟨rfl, fun flight => ⟨fun since phase => ⟨startAfterLineCheck_early flight phase,
    startAfterLineCheck_late flight phase⟩, fun start released pos levels further fa phase named some going moved movedEq => ?_⟩⟩
  have complete : ∀ f : Work → Bool, f t.work = true → completeWith g f levels s = moved (s.segment g).lines := fun f served => by
    rw [movedEq]
    exact completeWith_going flight phase named served some going
  refine ⟨fun i x item w kind c work member => ?_, fun i x item w v work => ?_, fun x work => ?_, fun x work => ?_, fun work => ?_⟩
  · have read : ∀ k : ReadKind, k = kind → Work.isRead k t.work = true := fun k same => by rw [work, same]; simp [Work.isRead]
    simp only [List.mem_cons, Prod.mk.injEq, List.not_mem_nil, or_false] at member
    rcases member with ⟨rfl, same⟩ | ⟨rfl, same⟩ | ⟨rfl, same⟩ | ⟨rfl, same⟩ <;>
      exact congrArg Host.Outcome.next (complete _ (read _ same.symm))
  · exact congrArg Host.Outcome.next (complete _ (by rw [work]; rfl))
  · exact congrArg Host.Outcome.next (complete _ (by rw [work]; rfl))
  · exact congrArg Host.Outcome.next (complete _ (by rw [work]; rfl))
  · have serving : (s.segment g).serving Work.isRoll = true := by simp [Segment.serving, flight, named, work, Work.isRoll]
    have onward := completeWith_going (s := s.setLines g { (s.segment g).lines with fa := fa }) (f := Work.isRoll) (t := t) (g := g)
      (by simpa [State.setLines] using flight) phase named (by rw [work]; rfl) some going
    have serving' : ((s.setLines g { (s.segment g).lines with fa := fa }).segment g).serving Work.isRoll = true := by
      simp [Segment.serving, State.setLines, flight, named, work, Work.isRoll]
    rw [completeWith, if_pos serving'] at onward
    change execRollCompletion g levels fa s = _
    rw [execRollCompletion, if_pos serving, onward, movedEq]
    cases g <;> rfl

/-! ### Segment faults (R116 to R118, R120, R137) -/

section Faults
variable {g : SegId} {s : State} {t : Transaction}

/-- A transaction that ends with an outcome has nothing in flight behind it, whatever its records make of the outcome. -/
theorem ended_transaction (g : SegId) (t : Transaction) (o : TxOutcome) (s : State) :
    ((if t.cleared then endTransaction g s else applyOutcome g t.work o (endTransaction g s)).segment g).transaction = none := by
  split
  · exact endTransaction_transaction g s
  · rcases gears_applyOutcome g t.work o (endTransaction g s) with kept | ⟨d, e⟩
    · rw [kept.transaction g, endTransaction_transaction]
    · rw [e, State.modSegment_read_segment, if_pos rfl]
      exact endTransaction_transaction g s

/-- A cleared transaction that ends reaches no record (R120). -/
theorem takeCompletion_cleared (h : t.cleared = true) (o : TxOutcome) :
    takeCompletion g t o s = faultRecovery g o (endTransaction g s) := by rw [takeCompletion, if_pos h]

theorem takeCompletion_cleared_clean (h : t.cleared = true) {o : TxOutcome} (clean : o.fault? = none) :
    takeCompletion g t o s = s.setSegment g { s.segment g with transaction := none } := by
  rw [takeCompletion_cleared h, faultRecovery, clean]
  rfl

theorem endWith_flight (flight : (s.segment g).transaction = some t) (o : TxOutcome) :
    endWith g o s = takeCompletion g t o s := by rw [endWith, flight]

end Faults

/-- The segment has nothing in flight and is RECOVERING with a cause; of a cleared transaction nothing else has changed. -/
def Faulted (g : SegId) (t : Transaction) (s u : State) (cause : RecoveryCause) : Prop :=
  (u.segment g).transaction = none ∧ (u.segment g).state = .recovering ∧ (u.segment g).cause = some cause ∧
    (u.segment g).attempts = 0 ∧ (u.segment g).fairness = 0 ∧ (u.segment g).retryTime = none ∧
    (t.cleared = true → u = s.setSegment g
      { s.segment g with
        transaction := none, state := .recovering, cause := some cause, attempts := 0, retryTime := none, fairness := 0 })

theorem faulted_takeCompletion (g : SegId) (t : Transaction) (s : State) {o : TxOutcome} {cause : RecoveryCause}
    (fault : o.fault? = some cause) : Faulted g t s (takeCompletion g t o s) cause := by
  have ended := ended_transaction g t o s
  refine ⟨?_, ?_, ?_, ?_, ?_, ?_, fun cleared => ?_⟩
  case refine_7 =>
    rw [takeCompletion_cleared cleared, faultRecovery, fault]
    dsimp only
    rw [beginRecovery, endTransaction, modSegment_modSegment]
    rfl
  all_goals
    rw [takeCompletion, faultRecovery, fault]
    dsimp only
    rw [beginRecovery, State.modSegment_read_segment, if_pos rfl]
  exact ended

/-! ### A cleared transaction driven to its end (R120) -/

section Cleared
variable {w : Work} {n : Nat} {b : Byte} {made levels : List Bool} {got : List Byte}

/-- The levels made so far of a byte that the engine sends let it pass. -/
theorem afterCycles_made {l : List Bool} (hb : w.sends.getD n 0 = b) (free : unfought b l) (start : ∃ rest, l = made ++ rest)
    (short : made.length ≤ 8) : w.afterCycles true (.sending n 0) made = .going (.sending n made.length) := by
  obtain ⟨rest, rfl⟩ := start
  have passes := afterCycles_unfought w true n made 0 (by omega) fun j hj one => by
    rw [Nat.zero_add, hb] at one
    have := free j (by rw [List.length_append]; omega) one
    rwa [List.getElem?_append_left hj] at this
  rwa [Nat.zero_add] at passes

/-- What the whole byte comes to, its remaining levels come to from where it stands. -/
theorem afterCycles_rest (passed : w.afterCycles true (.sending n 0) made = .going (.sending n made.length)) :
    w.afterCycles true (.sending n made.length) levels = w.afterCycles true (.sending n 0) (made ++ levels) := by
  rw [afterCycles_append, passed]

/-- The byte under way is completed, and the STOP follows (R120). -/
theorem cleared_answered {refuse : Bool} (hb : w.sends.getD n 0 = b) (short : made.length ≤ 8)
    (a : answered b refuse (made ++ levels)) :
    w.afterCycles true (.sending n made.length) levels = .going (.stop (.done [])) := by
  have whole := afterCycles_answered w true n b refuse _ hb a
  obtain ⟨l, split, long, free⟩ := a
  have start : ∃ rest, l = made ++ rest := by
    have made_prefix : made <+: l := List.prefix_of_prefix_length_le ⟨levels, rfl⟩ ⟨[refuse], split.symm⟩ (by omega)
    exact ⟨_, made_prefix.choose_spec.symm⟩
  rw [afterCycles_rest (afterCycles_made hb free start short), whole]
  rfl

theorem cleared_fights (hb : w.sends.getD n 0 = b) (some : levels ≠ []) (f : fights b (made ++ levels)) :
    w.afterCycles true (.sending n made.length) levels = .ended .contest := by
  have whole := afterCycles_fights w true n b _ [] hb f
  rw [List.append_nil] at whole
  obtain ⟨l, split, short, free, -⟩ := f
  have lengths := congrArg List.length split
  rw [List.length_append, List.length_append, List.length_singleton] at lengths
  have behind : 0 < levels.length := List.length_pos_iff.mpr some
  have start : ∃ rest, l = made ++ rest := by
    have made_prefix : made <+: l := List.prefix_of_prefix_length_le ⟨levels, rfl⟩ ⟨[false], split.symm⟩ (by omega)
    exact ⟨_, made_prefix.choose_spec.symm⟩
  rw [afterCycles_rest (afterCycles_made hb free start (by omega)), whole]

/-- The byte of a node under way is received to its end, and the STOP follows (R120). -/
theorem cleared_received (short : made.length ≤ 8) (sent : nodesSend [b] (made ++ levels)) :
    w.afterCycles true (.receiving got made) levels = .going (.stop (.done [])) := by
  obtain ⟨a, m, split, rfl⟩ := sent
  have whole := afterCycles_byte w true got b a
  have passed := afterCycles_bits w true got made [] (by simpa using short)
  rw [← split, afterCycles_append, passed] at whole
  exact whole

end Cleared

/-! ### The expiries of the lines -/

section Expiries
variable {g : SegId} {s : State} {t : Transaction} {start released since : Time} {pos : LinkPos}

theorem exec_lineCheckExpiry (flight : (s.segment g).transaction = some t) (phase : t.phase = .lineCheck since) :
    exec (.lineCheckExpiry g) s = .next (if reached (since + 2) s.clock = true then takeCompletion g t .stuck s else s) := by
  have check : (s.segment g).checkReached s.clock = reached (since + 2) s.clock := by
    simp only [Segment.checkReached, Segment.checkSince, flight, phase, Option.any_some]
    rfl
  change execLineCheckExpiry g s = _
  rw [execLineCheckExpiry, check, endWith_flight flight]
  split <;> rfl

theorem exec_holdAllowanceExpiry (flight : (s.segment g).transaction = some t) (phase : t.phase = .onWires start released pos) :
    exec (.holdAllowanceExpiry g) s =
      .next (if reached (released + 2) s.clock = true then takeCompletion g t .timeout s else s) := by
  have hold : (s.segment g).holdReached s.clock = reached (released + 2) s.clock := by
    simp only [Segment.holdReached, Segment.wireTimes, flight, phase, Option.any_some]
    rfl
  change execHoldAllowanceExpiry g s = _
  rw [execHoldAllowanceExpiry, hold, endWith_flight flight]
  split <;> rfl

theorem exec_transactionLimitExpiry (flight : (s.segment g).transaction = some t)
    (phase : t.phase = .onWires start released pos) : exec (.transactionLimitExpiry g) s =
      .next (if reached (start + 20) s.clock = true then takeCompletion g t .timeout s else s) := by
  have limit : (s.segment g).limitReached s.clock = reached (start + 20) s.clock := by
    simp only [Segment.limitReached, Segment.wireTimes, flight, phase, Option.any_some]
    rfl
  change execTransactionLimitExpiry g s = _
  rw [execTransactionLimitExpiry, limit, endWith_flight flight]
  split <;> rfl

/-- A cleared transaction that its levels bring to an outcome ends with it (R120). -/
theorem exec_clearEnd {between : Bool} {l : List Bool} {o : TxOutcome} (flight : (s.segment g).transaction = some t)
    (phase : t.phase = .onWires start released pos) (cleared : t.cleared = true)
    (course : t.work.afterCycles true (pos.cut between) l = .ended o) :
    exec (.clearEndTransaction g between l) s = .next (takeCompletion g t o s) := by
  obtain ⟨work, _, _⟩ := t
  subst phase cleared
  have ending : (s.segment g).endingCleared = true := by simp [Segment.endingCleared, flight]
  change execClearEndTransaction g between l s = _
  rw [execClearEndTransaction, if_pos ending, driveOn_ended flight course]

end Expiries

/-- Before the next cycle of a byte that has begun, or with no cut asked for, the course goes on where it stands. -/
theorem cut_kept {between : Bool} {pos : LinkPos} (h : between = false ∨ pos.betweenBytes = false) : pos.cut between = pos := by
  rw [LinkPos.cut]
  rcases h with h | h <;> rw [h]
  · rfl
  · rw [Bool.and_false]; rfl

/-- Settles O46. -/
theorem segmentFaultsBeginARecovery : Obligations.SegmentFaultsBeginARecovery := by
  unfold Obligations.SegmentFaultsBeginARecovery
  refine ⟨⟨rfl, fun data x => rfl⟩, fun g s t flight faulted faultedEq => ?_⟩
  have faultedBy : ∀ {c : Instr} {o : TxOutcome} {cause : RecoveryCause}, exec c s = .next (takeCompletion g t o s) →
      o.fault? = some cause → faulted c cause := fun run fault => by
    rw [faultedEq]
    exact ⟨_, run, faulted_takeCompletion g t s fault⟩
  refine ⟨fun since phase => ⟨fun due => faultedBy (o := .stuck) ?_ rfl, fun notDue => ?_⟩, fun start released pos phase =>
    ⟨fun due => faultedBy (o := .timeout) ?_ rfl, fun notDue => ?_, fun due => faultedBy (o := .timeout) ?_ rfl, fun notDue => ?_,
    fun cleared between stop levels b ends endsEq => ?_⟩⟩
  · rw [exec_lineCheckExpiry flight phase, if_pos due]
  · rw [exec_lineCheckExpiry flight phase, notDue]; rfl
  · rw [exec_holdAllowanceExpiry flight phase, if_pos due]
  · rw [exec_holdAllowanceExpiry flight phase, notDue]; rfl
  · rw [exec_transactionLimitExpiry flight phase, if_pos due]
  · rw [exec_transactionLimitExpiry flight phase, notDue]; rfl
  · have contest : ∀ {l}, t.work.afterCycles true (pos.cut between) l = .ended .contest →
        faulted (.clearEndTransaction g between l) .contest := fun course =>
      faultedBy (exec_clearEnd flight phase cleared course) rfl
    have stopped : ∀ {l o}, o.fault? = none → t.work.afterCycles true (pos.cut between) l = .going (.stop o) → ends l := by
      intro l o clean course
      have finish := (afterCycles_ends course (afterCycle_stop t.work true o stop)).1
      rw [endsEq]
      refine ⟨fun high => ?_, fun low => ?_⟩
      · rw [high, if_pos rfl] at finish
        rw [high, exec_clearEnd flight phase cleared finish, takeCompletion_cleared_clean cleared clean]
      · rw [low] at finish ⊢
        exact contest finish
    refine ⟨fun n posEq cut => ?_, fun n made posEq short begun => ⟨fun refuse a => ?_, fun some f => ?_⟩,
      fun posEq => ⟨fun cut => ?_, fun whole => ?_, fun whole => ?_⟩, fun got posEq cut => ?_,
      fun got bits posEq short begun sent => ?_, fun got bits full => ?_, fun outcome posEq clean => ?_⟩
    · exact stopped (o := .done []) rfl (by rw [posEq, cut]; rfl)
    · refine stopped (o := .done []) rfl ?_
      rw [posEq, cut_kept (begun.imp id fun some => ?_)]
      · exact cleared_answered rfl short a
      · simpa [LinkPos.betweenBytes] using some
    · refine contest ?_
      rw [posEq, cut_kept (begun.imp id fun some => ?_)]
      · exact cleared_fights rfl some f
      · simpa [LinkPos.betweenBytes] using some
    · exact stopped (o := .done []) rfl (by rw [posEq, cut]; rfl)
    · exact stopped (o := .done []) rfl (by rw [posEq, whole]; rfl)
    · exact contest (by rw [posEq, whole]; rfl)
    · exact stopped (o := .done []) rfl (by rw [posEq, cut]; rfl)
    · refine stopped (o := .done []) rfl ?_
      rw [posEq, cut_kept (begun.imp id fun some => ?_)]
      · exact cleared_received short sent
      · simpa [LinkPos.betweenBytes] using some
    · rw [Work.cycle, if_neg (by omega)]
      rfl
    · refine stopped clean ?_
      rw [posEq, cut_kept (.inr rfl)]
      rfl

end Sys2Proof.Machine

/-! The expiries, each taken when its due time has been reached (R36, R37, R47, R48, R81, R82, R97, R122). -/
namespace Sys2Proof.Machine

set_option Elab.async false

section Expiry
variable {g : SegId} {i : SlotNo} {s : State} {pt : Point}

/-! ### Poll due, alert suppression and probes (R36, R97, R122) -/

theorem exec_pollDueExpiry {before later : List SchedEntry} {e : SchedEntry}
    (split : (s.segment g).schedule = before ++ e :: later) (ahead : ∀ f ∈ before, f.marked = true) (unmarked : e.marked = false)
    (due : e.due.capped = true ∨ reached e.due.time s.clock = true) : exec (.pollDueExpiry g) s = .next (s.setSegment g
      { s.segment g with
        schedule := (s.segment g).schedule.map fun f => if f.slot = e.slot then { f with marked := true } else f }) := by
  have first : (s.segment g).firstUnmarked = some e :=
    List.find?_eq_some_iff_append.mpr ⟨by simp [unmarked], before, later, split, fun f hf => by simp [ahead f hf]⟩
  have taken : (s.segment g).pollDue s.clock = some e := by
    rw [Segment.pollDue, first, Option.filter_some, if_pos (by simpa [Due.reachedAt] using due)]
  have marks : ∀ l, markEntry e.slot l = l.map fun f => if f.slot = e.slot then { f with marked := true } else f := fun l =>
    congrArg (l.map ·) (funext fun f => if_congr beq_iff_eq rfl rfl)
  change execPollDueExpiry g s = _
  rw [execPollDueExpiry, taken]
  dsimp only
  rw [State.modSegment, marks]

theorem exec_alertSuppressionExpiry {due : Time} (suppressed : (s.segment g).suppression = some due)
    (reachedNow : reached due s.clock = true) :
    exec (.alertSuppressionExpiry g) s = .next (s.setSegment g { s.segment g with suppression := none }) := by
  change execAlertSuppressionExpiry g s = _
  rw [execAlertSuppressionExpiry, Segment.suppressionReached, suppressed, if_pos (by simpa using reachedNow)]
  rfl

theorem exec_probeExpiry {x : Address} {e : NodeEntry} {t : Time} (found : s.nodeEntry? g x = some e) (lost : e.presence = .lost)
    (probe : e.probe = some ⟨t, false⟩) (reachedNow : reached t s.clock = true) :
    exec (.probeExpiry g x) s = .next (s.setDirectory (s.directory.map fun f =>
      if f.segment = g ∧ f.address = x then { f with probe := f.probe.map fun p => { p with due := true } } else f)) := by
  have due : e.probeReached s.clock = true := by simp [NodeEntry.probeReached, lost, probe, reachedNow]
  change execProbeExpiry g x s = _
  rw [execProbeExpiry, found, if_pos (by simpa using due), State.modNode]
  exact congrArg (fun l => Host.Outcome.next (s.setDirectory l)) (congrArg s.directory.map
    (funext fun f => if_congr (hasKey_iff f g x) rfl rfl))

/-! ### The stale expiry and the caps (R37, R47, R48) -/

theorem exec_staleExpiry {due : Time} (hp : s.point? i = some pt) (armed : pt.staleDue = some due)
    (reachedNow : reached due s.clock = true) : exec (.staleExpiry i) s = .next (takeStale i s) := by
  change execStaleExpiry i s = _
  rw [execStaleExpiry, State.staleReached, hp, Option.any_some, armed, Option.any_some, if_pos reachedNow]

/-- Without a change of quality none is notified (R45). -/
theorem noteQuality_same {before : Quality} {cause : QualityCause} (hp : s.point? i = some pt) (same : pt.quality = before) :
    noteQuality i before cause s = s := by simp [noteQuality, hp, same]

theorem noteQuality_changed {before : Quality} {cause : QualityCause} (hp : s.point? i = some pt) (other : pt.quality ≠ before) :
    noteQuality i before cause s =
      offerSubscribers (·.quality) i (.quality (s.handle i) before pt.quality pt.failures cause) s := by
  simp [noteQuality, hp, other]

theorem takeStale_good (hp : s.point? i = some pt) (good : pt.quality = .good) : takeStale i s =
    offerSubscribers (·.quality) i (.quality (s.handle i) .good .stale pt.failures .staleLimit)
      (s.setPoint i { pt with staleDue := none, quality := .stale }) := by
  have stale : pt.goStale = { pt with staleDue := none, quality := .stale } := by simp [Point.goStale, good]
  have now : (s.setPoint i pt.goStale).point? i = some pt.goStale := by simp
  have changed : pt.goStale.quality ≠ pt.quality := by rw [stale, good]; exact (by decide : Quality.stale ≠ .good)
  rw [takeStale, hp]
  dsimp only
  rw [noteQuality_changed now changed, State.setPoint_read_handle, stale, good]

theorem takeStale_other (hp : s.point? i = some pt) (bad : pt.quality ≠ .good) :
    takeStale i s = s.setPoint i { pt with staleDue := none } := by
  have stale : pt.goStale = { pt with staleDue := none } := by simp [Point.goStale, bad]
  have now : (s.setPoint i pt.goStale).point? i = some pt.goStale := by simp
  rw [takeStale, hp]
  dsimp only
  rw [noteQuality_same now (by rw [stale]), stale]

theorem exec_ageCapExpiry {v : StoredValue} (hp : s.point? i = some pt) (value : pt.value = some v) (open_ : v.capped = false)
    (reachedNow : reached (v.time + 65535) s.clock = true) :
    exec (.ageCapExpiry i) s = .next (s.setPoint i { pt with value := some { v with capped := true } }) := by
  have due : s.ageCapReached i = true := by
    rw [State.ageCapReached, hp, Option.any_some, value, Option.any_some, capReached, open_]
    exact reachedNow
  change execAgeCapExpiry i s = _
  rw [execAgeCapExpiry, if_pos due, State.modPoint_of_some _ _ _ pt hp, Point.capAge, value]
  rfl

theorem exec_dueCapExpiry {which : CapHolder} {d : Due} (holds : s.cappedDue i which = some d) (open_ : d.capped = false)
    (reachedNow : reached (d.time + 65535) s.clock = true) : exec (.dueCapExpiry i which) s = .next (takeDueCap i which s) := by
  have due : s.dueCapReached i which = true := by
    rw [State.dueCapReached, holds, Option.any_some, capReached, open_]
    exact reachedNow
  change execDueCapExpiry i which s = _
  rw [execDueCapExpiry, if_pos due]

/-! ### The deadlines (R81, R82) -/

theorem exec_deadlineExpiry {due : Time} (armed : (s.stand i).deadline = some due) (reachedNow : reached due s.clock = true) :
    exec (.deadlineExpiry i) s = .next (takeDeadline i s) := by
  change execDeadlineExpiry i s = _
  rw [execDeadlineExpiry, State.deadlineReached, armed, Option.any_some, if_pos reachedNow]

theorem exec_nextValueDeadlineExpiry {due : Time} (armed : (s.stand i).nextDeadline = some due)
    (reachedNow : reached due s.clock = true) :
    exec (.nextValueDeadlineExpiry i) s = .next (setStand i (s.stand i).markExpired s) := by
  change execNextValueDeadlineExpiry i s = _
  rw [execNextValueDeadlineExpiry, State.nextDeadlineReached, armed, Option.any_some, if_pos reachedNow]

theorem setStand_eq {cmd : Command} (hp : s.point? i = some pt) (command : pt.command = some cmd) (x : Stand) :
    setStand i x s = s.setPoint i { pt with command := some { cmd with stand := x } } := by
  rw [setStand, modCommand, State.modPoint_of_some _ _ _ pt hp, Point.modCommand, command]
  rfl

theorem attempts_eq {cmd : Command} (hp : s.point? i = some pt) (command : pt.command = some cmd) :
    s.attempts i = cmd.attempts := by simp [State.attempts, hp, command]

end Expiry

/-- Settles O54. -/
theorem expiriesHaveTheirEffects : Obligations.ExpiriesHaveTheirEffects := by
  unfold Obligations.ExpiriesHaveTheirEffects
  refine fun g i s => ⟨fun before e later => exec_pollDueExpiry, fun due => exec_alertSuppressionExpiry,
    fun x e t => exec_probeExpiry, fun pt hp => ⟨fun due armed now => ⟨fun good => ?_, fun bad => ?_⟩,
    fun v value open_ now => exec_ageCapExpiry hp value open_ now, fun e entry open_ now => ?_, fun k t flight now => ?_,
    fun t rhythm now => ?_, fun cmd command stood stoodEq => ?_⟩⟩
  · rw [exec_staleExpiry hp armed now, takeStale_good hp good]
  · rw [exec_staleExpiry hp armed now, takeStale_other hp bad]
  · have holds : s.cappedDue i .entry = some e.due := by simp [State.cappedDue, State.entry?, hp, entry]
    rw [exec_dueCapExpiry holds open_ now, takeDueCap, hp]
    dsimp only
    rw [State.modSegment]
    exact congrArg (fun l => Host.Outcome.next (s.setSegment pt.segment { s.segment pt.segment with schedule := l }))
      (congrArg (s.segment pt.segment).schedule.map (funext fun f => if_congr beq_iff_eq rfl rfl))
  · have holds : s.cappedDue i .startDue = some ⟨t, false⟩ := by simp [State.cappedDue, hp, flight]
    rw [exec_dueCapExpiry holds rfl now, takeDueCap, State.modPoint_of_some _ _ _ pt hp, Point.capStart, flight]
    rfl
  · have holds : s.cappedDue i .rhythmDue = some ⟨t, false⟩ := by simp [State.cappedDue, hp, rhythm]
    rw [exec_dueCapExpiry holds rfl now, takeDueCap, State.modPoint_of_some _ _ _ pt hp, Point.capRhythm, rhythm]
    rfl
  · have stand : s.stand i = cmd.stand := State.stand_of_command hp command
    subst stoodEq
    refine ⟨fun v due pending now => ?_, fun v due queued now => ?_, fun v n due writing now => ?_, fun v n due verifying now => ?_⟩
    · rw [exec_deadlineExpiry (by rw [stand, pending]; rfl) now, takeDeadline, hp, stand, pending]
      dsimp only
      rw [attempts_eq hp command, setStand_eq hp command]
    · have left : (leaveQueue pt.segment i s).point? i = some pt := hp
      rw [exec_deadlineExpiry (by rw [stand, queued]; rfl) now, takeDeadline, hp, stand, queued]
      dsimp only
      rw [attempts_eq hp command, setStand_eq left command, leaveQueue, State.modSegment, filter_bne, setPoint_setSegment]
    · rw [exec_nextValueDeadlineExpiry (by rw [stand, writing]; rfl) now, stand, writing, setStand_eq hp command]
      rfl
    · rw [exec_nextValueDeadlineExpiry (by rw [stand, verifying]; rfl) now, stand, verifying, setStand_eq hp command]
      rfl

end Sys2Proof.Machine

/-! What a segment fault or an abandonment makes of the record that the transaction serves (R42, R79, R80, R89, R98, R121). -/
namespace Sys2Proof.Machine

set_option Elab.async false

/-! ### Re-entry (R33, R34) -/

/-- The schedule of a point's segment after the point's re-entry with due time `d` (R34). -/
def State.rescheduled (s : State) (i : SlotNo) (pt : Point) (d : Due) : List SchedEntry :=
  if s.wantsEntry pt = true ∧ s.entryOf? pt.segment i = none then
    insertEntry ⟨i, d, d.reachedAt s.clock⟩ (s.segment pt.segment).schedule
  else (s.segment pt.segment).schedule

theorem reenter_eq {s : State} {i : SlotNo} {pt : Point} (hp : s.point? i = some pt) (d : Due) :
    reenter i d s = s.setSegment pt.segment { s.segment pt.segment with schedule := s.rescheduled i pt d } := by
  unfold reenter
  rw [hp]
  dsimp only
  by_cases wants : s.wantsEntry pt = true
  · rw [if_pos wants, enterSchedule]
    cases entry : s.entryOf? pt.segment i with
    | none => simp [State.rescheduled, wants, entry, State.modSegment]
    | some e =>
      rw [Option.isSome_some, if_pos rfl, State.rescheduled, if_neg (by simp [entry])]
      exact (setSegment_self s pt.segment).symm
  · rw [if_neg wants, State.rescheduled, if_neg (fun both => wants both.1)]
    exact (setSegment_self s pt.segment).symm

/-- Where a point re-enters is read off its record but for its marks and its command, the directory, the clock and the schedule. -/
theorem rescheduled_congr {s t : State} {i : SlotNo} {pt pt' : Point} {d : Due} (state : pt'.state = pt.state)
    (period : pt'.period = pt.period) (flight : pt'.inFlight = pt.inFlight) (segment : pt'.segment = pt.segment)
    (address : pt'.address = pt.address) (directory : t.directory = s.directory) (clock : t.clock = s.clock)
    (schedule : (t.segment pt.segment).schedule = (s.segment pt.segment).schedule) :
    t.rescheduled i pt' d = s.rescheduled i pt d := by
  have wants : t.wantsEntry pt' = true ↔ s.wantsEntry pt = true := by
    rw [wantsEntry_iff, wantsEntry_iff, state, period, flight, segment, address, State.nodeLost, State.nodeLost, State.nodeEntry?,
      State.nodeEntry?, directory]
  have entry : t.entryOf? pt.segment i = s.entryOf? pt.segment i := by rw [State.entryOf?, State.entryOf?, schedule]
  unfold State.rescheduled
  rw [segment, entry, schedule, clock]
  exact if_congr (and_congr wants Iff.rfl) rfl rfl

/-! ### A value that waits again (R78 to R80) -/

/-- The stand of a value that goes back to wait: QUEUED on an ACTIVE point, PENDING on a HELD one. -/
def Point.waiting (pt : Point) (v : Issued) (d : Option Time) : Stand :=
  if pt.state = .active then .queued v d else .pending v d

/-- The command queue of a point's segment with the point back at its head, on an ACTIVE point (R70). -/
def State.requeued (s : State) (i : SlotNo) (pt : Point) : List SlotNo :=
  if pt.state = .active then i :: (s.segment pt.segment).commandQueue else (s.segment pt.segment).commandQueue

theorem waitAgain_eq {s : State} {i : SlotNo} {pt : Point} (hp : s.point? i = some pt) (v : Issued) (d : Option Time) :
    waitAgain i v d s = (setStand i (pt.waiting v d) s).setSegment pt.segment
      { s.segment pt.segment with commandQueue := s.requeued i pt } := by
  have kept : (setStand i (pt.waiting v d) s).segment pt.segment = s.segment pt.segment := by simp [setStand, modCommand]
  unfold waitAgain
  rw [hp]
  dsimp only
  by_cases active : pt.state = .active
  · rw [if_pos ((isActive_iff pt).mpr active), queueHead, State.modSegment, State.requeued, if_pos active, Point.waiting,
      if_pos active]
    rw [Point.waiting, if_pos active] at kept
    rw [kept]
  · rw [if_neg (mt (isActive_iff pt).mp active), State.requeued, if_neg active, Point.waiting, if_neg active]
    rw [Point.waiting, if_neg active] at kept
    rw [← kept, setSegment_self]

/-- A next value takes the desired value's place (R80, R82). -/
theorem promote_eq {s : State} {i : SlotNo} {pt : Point} (hp : s.point? i = some pt) (nv : NextValue) :
    promote i nv s = if nv.expired then
      closeCommand i nv.issued (.failed .expired 0)
        (modCommand i (fun c => { c with stand := .failed nv.issued .expired, attempts := 0 }) s)
    else (modCommand i (fun c => { c with stand := pt.waiting nv.issued nv.deadline, attempts := 0 }) s).setSegment pt.segment
      { s.segment pt.segment with commandQueue := s.requeued i pt } := by
  have reset : (modCommand i (fun c => { c with attempts := 0 }) s).point? i =
      some (pt.modCommand fun c => { c with attempts := 0 }) := by simp [modCommand, hp]
  have kept : (modCommand i (fun c => { c with attempts := 0 }) s).segment pt.segment = s.segment pt.segment := by
    simp [modCommand]
  unfold promote
  dsimp only
  rw [waitAgain_eq reset, setStand_modCommand, setStand_modCommand]
  change (if nv.expired = true then _ else State.setSegment _ pt.segment
    { State.segment _ pt.segment with commandQueue := State.requeued _ i (pt.modCommand _) }) = _
  rw [kept]
  have queue : (modCommand i (fun c => { c with attempts := 0 }) s).requeued i (pt.modCommand fun c => { c with attempts := 0 }) =
      s.requeued i pt := by
    rw [State.requeued, State.requeued]
    change (if pt.state = .active then i :: (State.segment _ pt.segment).commandQueue else
      (State.segment _ pt.segment).commandQueue) = _
    rw [kept]
  rw [queue]
  rfl

/-! ### A segment fault reaches the records -/

/-- The node's entry counts nothing of a segment fault (R94). -/
theorem nodeOutcome_fault (g : SegId) (x : Address) (cause : Option SlotNo) {o : TxOutcome} (fault : o.fault? ≠ none) (s : State) :
    nodeOutcome g x cause o s = s := by
  cases o with
  | contest | stuck | timeout => rfl
  | _ => exact absurd rfl fault

/-- The records do not tell one segment fault from another. -/
theorem applyOutcome_fault (g : SegId) (w : Work) {o : TxOutcome} (fault : o.fault? ≠ none) (s : State) :
    applyOutcome g w o s = applyOutcome g w .timeout s := by
  cases o with
  | contest | stuck | timeout => cases w with
    | read kind _ _ _ _ => cases kind <;> rfl
    | _ => rfl
  | _ => exact absurd rfl fault


/-- A transaction of a HELD or ACTIVE point ends, by its effects and its re-entry (R34). -/
theorem finishPoint_eq {s : State} {i : SlotNo} {pt : Point} (hp : s.point? i = some pt) (going : ∀ q, pt.state ≠ .retiring q)
    (effects : Point → State → State) (reentry : Option Due → State → State) :
    finishPoint i effects reentry s =
      reentry (pt.inFlight.bind (·.startDue)) (effects pt (s.setPoint i { pt with inFlight := none })) := by
  unfold finishPoint endFlight
  rw [hp, State.modPoint_of_some _ _ _ _ hp]
  cases state : pt.state with
  | retiring q => exact absurd state (going q)
  | held => simp [state]
  | active => simp [state]

/-- The slot of a RETIRING point is freed as its transaction ends (R25). -/
theorem finishPoint_retiring {s : State} {i : SlotNo} {pt : Point} {requester : Port} (hp : s.point? i = some pt)
    (retiring : pt.state = .retiring requester) (effects : Point → State → State) (reentry : Option Due → State → State) :
    finishPoint i effects reentry s = endRetirement requester i s := by
  simp [finishPoint, hp, retiring]

/-- The work serves a point: its slot is `i`. -/
def Work.servesPoint (w : Work) (i : SlotNo) : Prop :=
  (∃ kind x item d, w = .read kind i x item d) ∨ ∃ x item d value, w = .write i x item d value

section Point
variable {g : SegId} {i : SlotNo} {s : State} {pt : Point} {w : Work}

theorem applyOutcome_fault_retiring {requester : Port} (hp : s.point? i = some pt) (retiring : pt.state = .retiring requester)
    (serves : w.servesPoint i) : applyOutcome g w .timeout s = endRetirement requester i s := by
  rcases serves with ⟨kind, x, item, d, rfl⟩ | ⟨x, item, d, value, rfl⟩
  · cases kind <;> exact finishPoint_retiring hp retiring _ _
  · exact finishPoint_retiring hp retiring _ _

/-- A read taken from the schedule that a segment fault ends leaves the record alone, due now again (R42). -/
theorem applyOutcome_fault_read {kind : ReadKind} {x : Address} {item : Byte} {d : Width} (hp : s.point? i = some pt)
    (going : ∀ q, pt.state ≠ .retiring q) (plain : kind ≠ .verify) :
    applyOutcome g (.read kind i x item d) .timeout s = reenter i s.dueNow (s.setPoint i { pt with inFlight := none }) := by
  cases kind with
  | verify => exact absurd rfl plain
  | _ => exact finishPoint_eq hp going _ _

/-- A WRITE or VERIFY that a segment fault ends is no attempt (R79, R89). -/
theorem applyOutcome_fault_delivery (hp : s.point? i = some pt) (going : ∀ q, pt.state ≠ .retiring q)
    (delivers : (∃ x item d, w = .read .verify i x item d) ∨ ∃ x item d value, w = .write i x item d value) :
    applyOutcome g w .timeout s =
      reenter i (notAnAttempt i (s.setPoint i { pt with inFlight := none })).dueNow
        (notAnAttempt i (s.setPoint i { pt with inFlight := none })) := by
  rcases delivers with ⟨x, item, d, rfl⟩ | ⟨x, item, d, value, rfl⟩
  · exact finishPoint_eq hp going _ _
  · exact finishPoint_eq hp going _ _

end Point


/-! ### Where the point waits again -/

theorem reenter_queued {s : State} {i : SlotNo} {pt : Point} (hp : s.point? i = some pt) (d : Due) (q : List SlotNo) :
    reenter i d (s.setSegment pt.segment { s.segment pt.segment with commandQueue := q }) = s.setSegment pt.segment
      { s.segment pt.segment with schedule := s.rescheduled i pt d, commandQueue := q } := by
  have same : (s.setSegment pt.segment { s.segment pt.segment with commandQueue := q }).rescheduled i pt d = s.rescheduled i pt d :=
    rescheduled_congr rfl rfl rfl rfl rfl rfl rfl (by simp)
  rw [reenter_eq (s := s.setSegment pt.segment { s.segment pt.segment with commandQueue := q }) hp, same, setSegment_setSegment,
    State.setSegment_read_segment, if_pos rfl]

/-- The point of a segment fault or an abandonment, due now again in its schedule if it wants an entry. -/
theorem rescheduled_now {s : State} {i : SlotNo} {pt : Point} (hf : pt.inFlight = none) :
    s.rescheduled i pt s.dueNow = if pt.state = .active ∧ pt.period ≠ none ∧ s.nodeLost pt.segment pt.address = false ∧
      s.entryOf? pt.segment i = none then insertEntry ⟨i, ⟨s.clock, false⟩, true⟩ (s.segment pt.segment).schedule
    else (s.segment pt.segment).schedule := by
  rw [State.rescheduled, State.dueNow, reachedAt_now]
  refine if_congr ?_ rfl rfl
  rw [wantsEntry_iff]
  exact ⟨fun ⟨⟨a, b, _, c⟩, e⟩ => ⟨a, b, c, e⟩, fun ⟨a, b, c, e⟩ => ⟨⟨a, b, hf, c⟩, e⟩⟩

/-- From `v`, whose slot `i` holds `pt`, only the queues, the record's marks and its command have changed. -/
structure Delivers (i : SlotNo) (pt : Point) (v u : State) : Prop where
  point : ∃ m c, u.point? i = some { pt with marks := m, command := c }
  directory : u.directory = v.directory
  clock : u.clock = v.clock
  segment : ∀ g, u.segment g = v.segment g

section Delivers
variable {i : SlotNo} {pt : Point} {v u t : State}

theorem Delivers.refl (hp : v.point? i = some pt) : Delivers i pt v v := ⟨⟨pt.marks, pt.command, hp⟩, rfl, rfl, fun _ => rfl⟩

theorem Delivers.noted (h : Delivers i pt v u) (k : Noted i u t) : Delivers i pt v t := by
  obtain ⟨m, c, hu⟩ := h.point
  obtain ⟨m', ht⟩ := k.point_self hu
  exact ⟨⟨m', c, ht⟩, k.directory.trans h.directory, k.clock.trans h.clock, fun g => (k.segment g).trans (h.segment g)⟩

theorem Delivers.modCommand (h : Delivers i pt v u) (f : Command → Command) : Delivers i pt v (modCommand i f u) := by
  obtain ⟨m, c, hu⟩ := h.point
  refine ⟨⟨m, c.map f, ?_⟩, ?_, ?_, fun g => ?_⟩
  · rw [Machine.modCommand, State.modPoint_read_point, if_pos rfl, hu]; rfl
  · rw [Machine.modCommand, State.modPoint_directory, h.directory]
  · rw [Machine.modCommand, State.modPoint_clock, h.clock]
  · rw [Machine.modCommand, State.modPoint_read_segment, h.segment]

theorem Delivers.rescheduled (h : Delivers i pt v u) {pt' : Point} (hu : u.point? i = some pt') (d : Due) :
    u.rescheduled i pt' d = v.rescheduled i pt d := by
  obtain ⟨m, c, point⟩ := h.point
  obtain rfl := Option.some.inj (hu.symm.trans point)
  exact rescheduled_congr rfl rfl rfl rfl rfl h.directory h.clock (congrArg Segment.schedule (h.segment pt.segment))

/-- The record waits again in its queue and re-enters its schedule. -/
theorem Delivers.reenter_queued (h : Delivers i pt v u) (d : Due) (q : List SlotNo) :
    reenter i d (u.setSegment pt.segment { u.segment pt.segment with commandQueue := q }) = u.setSegment pt.segment
      { v.segment pt.segment with schedule := v.rescheduled i pt d, commandQueue := q } := by
  obtain ⟨m, c, point⟩ := h.point
  have run := Machine.reenter_queued point d q
  rw [h.rescheduled point] at run
  rw [← h.segment pt.segment]
  exact run

theorem Delivers.reenter (h : Delivers i pt v u) (d : Due) :
    reenter i d u = u.setSegment pt.segment { v.segment pt.segment with schedule := v.rescheduled i pt d } := by
  have run := h.reenter_queued d (u.segment pt.segment).commandQueue
  rw [← h.segment pt.segment] at run ⊢
  rw [← run]
  exact congrArg (Machine.reenter i d) (setSegment_self u pt.segment).symm

theorem Delivers.waitAgain (h : Delivers i pt v u) (value : Issued) (d : Option Time) :
    waitAgain i value d u = (setStand i (pt.waiting value d) u).setSegment pt.segment
      { (setStand i (pt.waiting value d) u).segment pt.segment with commandQueue := v.requeued i pt } := by
  obtain ⟨m, c, point⟩ := h.point
  have kept : (setStand i (pt.waiting value d) u).segment pt.segment = u.segment pt.segment := State.modPoint_read_segment _ _ _ _
  rw [kept, waitAgain_eq point, State.requeued, State.requeued, ← h.segment pt.segment]
  rfl

theorem Delivers.promote (h : Delivers i pt v u) (nv : NextValue) (fresh : nv.expired = false) :
    promote i nv u =
      (Machine.modCommand i (fun c => { c with stand := pt.waiting nv.issued nv.deadline, attempts := 0 }) u).setSegment pt.segment
        { (Machine.modCommand i (fun c => { c with stand := pt.waiting nv.issued nv.deadline, attempts := 0 }) u).segment
            pt.segment with commandQueue := v.requeued i pt } := by
  obtain ⟨m, c, point⟩ := h.point
  have kept : ∀ f, (Machine.modCommand i f u).segment pt.segment = u.segment pt.segment :=
    fun f => State.modPoint_read_segment _ _ _ _
  rw [promote_eq point, fresh, if_neg Bool.false_ne_true, kept, State.requeued, State.requeued, ← h.segment pt.segment]
  rfl

theorem promote_expired (hp : u.point? i = some pt) {nv : NextValue} (expired : nv.expired = true) :
    Machine.promote i nv u = closeCommand i nv.issued (.failed .expired 0)
      (Machine.modCommand i (fun c => { c with stand := .failed nv.issued .expired, attempts := 0 }) u) := by
  rw [promote_eq hp, if_pos expired]

end Delivers

theorem notAnAttempt_eq {i : SlotNo} {s : State} {d : Issued} {next : Option NextValue}
    (h : s.stand i = .writing d next ∨ s.stand i = .verifying d next) : notAnAttempt i s = stepUndone i d next s := by
  unfold notAnAttempt
  rcases h with e | e <;> rw [e] <;> rfl

/-- What the end of a fault's or an abandonment's transaction sets as the next probe time of a LOST node (R98). -/
theorem setProbe_clock (g : SegId) (x : Address) (s : State) : setProbe g x s.clock s = s.setDirectory (s.directory.map fun e =>
    if e.segment = g ∧ e.address = x ∧ e.presence = .lost then { e with probe := some ⟨s.clock, true⟩ } else e) := by
  have now : reached s.clock s.clock = true := reachedAt_now s.clock
  rw [setProbe, State.modNode, now]
  refine congrArg (fun f => s.setDirectory (s.directory.map f)) (funext fun e => ?_)
  by_cases key : e.segment = g ∧ e.address = x <;> by_cases lost : e.presence = .lost <;> simp_all [NodeEntry.hasKey]

/-- Settles O47. -/
theorem faultsAndAbandonmentsReachTheRecords : Obligations.FaultsAndAbandonmentsReachTheRecords := by
  unfold Obligations.FaultsAndAbandonmentsReachTheRecords
  intro g t s v flight named vEq becomes becomesEq
  have ended : endTransaction g s = v := vEq.symm
  have become : ∀ r, applyOutcome g t.work .timeout v = r → becomes r := fun r h => by
    rw [becomesEq]
    have taken : ∀ {o cause}, TxOutcome.fault? o = some cause → takeCompletion g t o s = beginRecovery g cause r :=
      fun {o cause} fault => by
        rw [takeCompletion, named, ended, faultRecovery, fault]
        dsimp only
        rw [if_neg Bool.false_ne_true, applyOutcome_fault g t.work (by rw [fault]; exact nofun), h]
    refine ⟨?_, fun c cause which => ?_⟩
    · rw [abandon, flight]
      dsimp only
      rw [ended, named, if_neg Bool.false_ne_true, h]
    · rcases which with ⟨rfl, rfl, since, phase, due⟩ | ⟨rfl, rfl, start, released, pos, phase, due⟩ |
        ⟨rfl, rfl, start, released, pos, phase, due⟩
      · rw [exec_lineCheckExpiry flight phase, if_pos due, taken rfl]; rfl
      · rw [exec_holdAllowanceExpiry flight phase, if_pos due, taken rfl]; rfl
      · rw [exec_transactionLimitExpiry flight phase, if_pos due, taken rfl]; rfl
  have clock : v.clock = s.clock := by rw [vEq]; rfl
  have directory : v.directory = s.directory := by rw [vEq]; rfl
  refine ⟨fun i pt hp segment serves => ?_, fun x work => become _ ?_, fun quiet => become _ ?_⟩
  · have hpv : v.point? i = some pt := by rw [vEq]; exact hp
    subst segment
    refine ⟨fun requester retiring => become _ ?_, fun going dueAgain dueEq => ?_⟩
    · rw [applyOutcome_fault_retiring hpv retiring serves, vEq]
      rfl
    generalize startEq : v.setPoint i { pt with inFlight := none } = start
    have hs : start.point? i = some { pt with inFlight := none } := by rw [← startEq]; simp
    have segment : v.segment pt.segment = { s.segment pt.segment with transaction := none } := by rw [vEq]; simp
    have sSegment : start.segment pt.segment = v.segment pt.segment := by rw [← startEq]; simp
    have sDirectory : start.directory = v.directory := by rw [← startEq]; rfl
    have sClock : start.clock = v.clock := by rw [← startEq]; rfl
    have again : ∀ d, d = start.dueNow → start.rescheduled i { pt with inFlight := none } d = dueAgain := fun d now => by
      rw [now, rescheduled_now rfl, State.nodeLost, State.nodeEntry?, sDirectory, directory, sClock, clock, State.entryOf?, sSegment,
        segment, dueEq]
      rfl
    have begun := Delivers.refl hs
    refine ⟨fun kind x item w work plain => become _ ?_, fun d next stand delivers waiting waitingEq queue queueEq => ?_⟩
    · rw [work, applyOutcome_fault_read hpv going plain, startEq]
      have run := begun.reenter start.dueNow
      rw [again _ rfl, sSegment] at run
      rw [← run, State.dueNow, State.dueNow, sClock]
    · have stand' : start.stand i = .writing d next ∨ start.stand i = .verifying d next := by
        rw [stand_of_point hs]
        rw [stand_of_point hp] at stand
        exact stand
      have run := applyOutcome_fault_delivery (g := pt.segment) hpv going delivers
      rw [startEq, notAnAttempt_eq stand'] at run
      have waits : ({ pt with inFlight := none } : Point).waiting = waiting := by rw [waitingEq]; rfl
      have place : start.requeued i { pt with inFlight := none } = queue := by
        rw [State.requeued, queueEq]
        change (if pt.state = .active then i :: (start.segment pt.segment).commandQueue else _) = _
        rw [sSegment, segment]
      refine ⟨fun none => become _ ?_, fun nv some u uEq => ⟨fun expired => become _ ?_, fun fresh => become _ ?_⟩⟩
      · subst none
        have waiting := begun.modCommand fun c => { c with stand := waiting d none }
        rw [run, stepUndone, begun.waitAgain, waits, place]
        refine (waiting.reenter_queued _ queue).trans ?_
        exact (congrArg₂ (fun l x => State.setSegment _ pt.segment { (x : Segment) with schedule := l, commandQueue := queue })
          (again _ (congrArg (Due.mk · false) waiting.clock)) sSegment).trans <| by
          rw [← startEq]
          exact congrArg (State.setSegment · pt.segment _) (modPoint_setPoint v i _ _)
      · subst some uEq
        have closed := begun.noted (noted_closeCommand i d .superseded start)
        obtain ⟨m, c, hu⟩ := closed.point
        rw [run, stepUndone]
        dsimp only
        rw [promote_expired hu expired]
        refine (((closed.modCommand _).noted (noted_closeCommand i _ _ _)).reenter _).trans ?_
        exact congrArg₂ (fun l x => State.setSegment _ pt.segment { (x : Segment) with schedule := l })
          (again _ (congrArg (Due.mk · false) ((closed.modCommand _).noted (noted_closeCommand i _ _ _)).clock)) sSegment
      · subst some uEq
        have closed := begun.noted (noted_closeCommand i d .superseded start)
        rw [run, stepUndone]
        dsimp only
        rw [closed.promote nv fresh, waits, place]
        refine ((closed.modCommand _).reenter_queued _ queue).trans ?_
        exact congrArg₂ (fun l x => State.setSegment _ pt.segment { (x : Segment) with schedule := l, commandQueue := queue })
          (again _ (congrArg (Due.mk · false) (closed.modCommand _).clock)) sSegment
  · rw [work]
    change setProbe g x v.clock v = _
    rw [setProbe_clock, directory, clock]
  · rcases quiet with ⟨x, work⟩ | work <;> rw [work] <;> rfl

end Sys2Proof.Machine

/-!
What a run of operations makes of one port's queue (`Told`: these notifications, in this order, while the queue has room), and what
it makes of one record and its segment (`Becomes`). Each operation at the end of a transaction extends both by one lemma (R34, R46).
-/
namespace Sys2Proof.Machine

set_option Elab.async false

/-! ### A list of notifications made (R147) -/

/-- Notifications placed at the tail one after the other. -/
def Notify.pushes (q : Notify) (t : Time) (l : List Note) : Notify := l.foldl (fun q n => q.push t n) q

section Pushes
variable (q : Notify) (t : Time) (l l' : List Note)

@[simp] theorem Notify.pushes_nil : q.pushes t [] = q := rfl

theorem Notify.pushes_append : q.pushes t (l ++ l') = (q.pushes t l).pushes t l' := List.foldl_append

@[simp] theorem Notify.pushes_enabled : (q.pushes t l).enabled = q.enabled := by
  induction l generalizing q with
  | nil => rfl
  | cons n rest ih => exact ih (q.push t n)

theorem Notify.pushes_nextSeq : (q.pushes t l).nextSeq = q.nextSeq + BitVec.ofNat 16 l.length := by
  induction l generalizing q with
  | nil => simp
  | cons n rest ih =>
    refine (ih (q.push t n)).trans ?_
    simp only [Notify.push, List.length_cons]
    rw [Nat.add_comm rest.length 1, ← BitVec.ofNat_add_ofNat, ← BitVec.add_assoc]
    rfl

theorem Notify.pushes_queue_of {b : SeqNo} {k : Nat} (h : q.nextSeq = b + BitVec.ofNat 16 k) :
    (q.pushes t l).queue = q.queue ++ (l.zipIdx k).map fun n => ⟨b + BitVec.ofNat 16 n.2, t, n.1⟩ := by
  induction l generalizing q k with
  | nil => simp
  | cons n rest ih =>
    have next : (q.push t n).nextSeq = b + BitVec.ofNat 16 (k + 1) := by
      rw [← BitVec.ofNat_add_ofNat, ← BitVec.add_assoc, ← h]; rfl
    refine (ih (q.push t n) next).trans ?_
    simp [Notify.push, h]

/-- The entries of the notifications made carry consecutive sequence numbers (R147). -/
theorem Notify.pushes_queue : (q.pushes t l).queue =
    q.queue ++ l.zipIdx.map fun n => ⟨q.nextSeq + BitVec.ofNat 16 n.2, t, n.1⟩ :=
  Notify.pushes_queue_of q t l (by simp)

@[simp] theorem Notify.pushes_length : (q.pushes t l).queue.length = q.queue.length + l.length := by
  simp [Notify.pushes_queue]

/-- Each notification made stands in the queue, stamped with the reading. -/
theorem Notify.mem_pushes {n : Note} (h : n ∈ l) : ∃ e ∈ (q.pushes t l).queue, e.time = t ∧ e.note = n := by
  obtain ⟨k, hk, rfl⟩ := List.getElem_of_mem h
  refine ⟨⟨q.nextSeq + BitVec.ofNat 16 k, t, l[k]⟩, ?_, rfl, rfl⟩
  rw [Notify.pushes_queue]
  refine List.mem_append_right _ (List.mem_map.mpr ⟨(l[k], k), ?_, rfl⟩)
  simp [List.mk_mem_zipIdx_iff_getElem?]

/-- The last notification made is the last entry. -/
theorem Notify.getLast_pushes_concat (n : Note) : ∃ e, (q.pushes t (l ++ [n])).queue.getLast? = some e ∧ e.time = t ∧ e.note = n := by
  refine ⟨⟨(q.pushes t l).nextSeq, t, n⟩, ?_, rfl, rfl⟩
  rw [Notify.pushes_append]
  simp [Notify.pushes, Notify.push]

end Pushes

/-- From `s` to `t` the clock stands, and port `p` has been told the notifications `l`, if it takes them and its queue has room. -/
structure Told (p : Port) (l : List Note) (s t : State) : Prop where
  clock : t.clock = s.clock
  told : (s.notifyOf p).enabled = true → (s.notifyOf p).queue.length + l.length ≤ 64 →
    t.notifyOf p = (s.notifyOf p).pushes s.clock l

section Told
variable {p : Port} {l l' : List Note} {s t u : State}

theorem Told.trans (h : Told p l s t) (k : Told p l' t u) : Told p (l ++ l') s u where
  clock := k.clock.trans h.clock
  told on room := by
    rw [List.length_append] at room
    have first := h.told on (by omega)
    have second := k.told (by rw [first, Notify.pushes_enabled, on]) (by rw [first, Notify.pushes_length]; omega)
    rw [second, first, h.clock, Notify.pushes_append]

theorem Told.of_eq (hc : t.clock = s.clock) (hq : t.notifyOf p = s.notifyOf p) : Told p [] s t := ⟨hc, fun _ _ => hq⟩

theorem Told.refl (p : Port) (s : State) : Told p [] s s := .of_eq rfl rfl

theorem Told.quiet (h : Told p l s t) (hc : u.clock = t.clock) (hq : u.notifyOf p = t.notifyOf p) : Told p l s u :=
  ⟨hc.trans h.clock, fun on room => hq.trans (h.told on room)⟩

theorem Told.from (h : Told p l t u) (hc : t.clock = s.clock) (hq : t.notifyOf p = s.notifyOf p) : Told p l s u :=
  ⟨h.clock.trans hc, fun on room => by
    rw [← hq] at on room
    rw [h.told on room, hc, hq]⟩

theorem told_offerPoint (p : Port) (i : SlotNo) (n : Note) (s : State) : Told p [n] s (offerPoint p i n s) where
  clock := (noted_offerPoint p i n s).clock
  told on room := by
    rw [List.length_singleton] at room
    rw [offerPoint_room on (by omega)]
    exact State.setNotify_read_notifyOf _ _ _ _ |>.trans (if_pos rfl)

theorem told_offerSystem (p : Port) (n : Note) (s : State) : Told p [n] s (offerSystem p n s) where
  clock := (noted_offerSystem 0 p n s).clock
  told on room := by
    rw [List.length_singleton] at room
    rw [offerSystem_room on (by omega)]
    exact State.setNotify_read_notifyOf _ _ _ _ |>.trans (if_pos rfl)

theorem told_offerPoint_other {p q : Port} (h : p ≠ q) (i : SlotNo) (n : Note) (s : State) : Told q [] s (offerPoint p i n s) :=
  .of_eq (noted_offerPoint p i n s).clock (offerPoint_notifyOf_other q h)

theorem told_offerSystem_other {p q : Port} (h : p ≠ q) (n : Note) (s : State) : Told q [] s (offerSystem p n s) :=
  .of_eq (noted_offerSystem 0 p n s).clock (offerSystem_notifyOf_other q h)

/-- The ports that a note is offered to are told it, the others nothing (R149). -/
theorem told_offerPorts (named : Port → Bool) (i : SlotNo) (n : Note) (s : State) (p : Port) :
    Told p (if named p then [n] else []) s (offerPorts named i n s) := by
  have clock := (noted_offerPorts named i n s).clock
  have queue := offerPorts_notifyOf (named := named) (i := i) (n := n) (s := s) p
  split
  · next yes =>
    rw [if_pos yes] at queue
    exact ⟨clock, fun on room => queue.trans ((told_offerPoint p i n s).told on room)⟩
  · next no =>
    rw [if_neg no] at queue
    exact .of_eq clock queue

theorem told_offerNodeEvents (n : Note) (s : State) (p : Port) :
    Told p (if (s.notifyOf p).nodeEvents then [n] else []) s (offerNodeEvents n s) := by
  have clock := (noted_offerNodeEvents 0 n s).clock
  have queue := offerSystems_notifyOf (named := fun p => (s.notifyOf p).nodeEvents) (n := n) (s := s) p
  rw [← offerNodeEvents_eq_offerSystems] at queue
  split
  · next yes =>
    rw [if_pos yes] at queue
    exact ⟨clock, fun on room => queue.trans ((told_offerSystem p n s).told on room)⟩
  · next no =>
    rw [if_neg no] at queue
    exact .of_eq clock queue

end Told

/-! ### One record and its segment, and what the ports are told -/

/-- From `s` the record of slot `i` has become `pt` but for its marks, segment `g` has become `x`, and each port has been told its
notifications; nothing else has changed. -/
structure Becomes (i : SlotNo) (g : SegId) (s : State) (pt : Point) (x : Segment) (notes : Port → List Note) (t : State) : Prop where
  form : ∃ m n, t = { s.put i { pt with marks := m } g x with notify := n }
  told : ∀ p, Told p (notes p) s t

section Becomes
variable {i : SlotNo} {g : SegId} {s t u : State} {pt : Point} {x : Segment} {notes : Port → List Note}

theorem Becomes.start (hp : s.point? i = some pt) (g : SegId) : Becomes i g s pt (s.segment g) (fun _ => []) s :=
  ⟨⟨pt.marks, s.notify, (State.put_self hp g).symm⟩, fun p => Told.refl p s⟩

theorem Becomes.point (h : Becomes i g s pt x notes t) : ∃ m, t.point? i = some { pt with marks := m } := by
  obtain ⟨m, n, rfl⟩ := h.form
  exact ⟨m, State.put_point s i _ g x⟩

theorem Becomes.segment (h : Becomes i g s pt x notes t) : t.segment g = x := by
  obtain ⟨m, n, rfl⟩ := h.form
  exact State.put_segment s i _ g x

theorem Becomes.segment_of_ne (h : Becomes i g s pt x notes t) {k : SegId} (hk : k ≠ g) : t.segment k = s.segment k := by
  obtain ⟨m, n, rfl⟩ := h.form
  exact (State.setSegment_read_segment _ _ _ _).trans (if_neg hk.symm)

theorem Becomes.directory (h : Becomes i g s pt x notes t) : t.directory = s.directory := by
  obtain ⟨m, n, rfl⟩ := h.form
  rfl

theorem Becomes.clock (h : Becomes i g s pt x notes t) : t.clock = s.clock := by
  obtain ⟨m, n, rfl⟩ := h.form
  rfl

theorem Becomes.handle (h : Becomes i g s pt x notes t) (j : SlotNo) : t.handle j = s.handle j := by
  obtain ⟨m, n, rfl⟩ := h.form
  exact State.put_handle s i _ g x j

theorem Becomes.wantsEntry (h : Becomes i g s pt x notes t) (q : Point) : t.wantsEntry q = s.wantsEntry q := by
  obtain ⟨m, n, rfl⟩ := h.form
  rfl

theorem Becomes.stand (h : Becomes i g s pt x notes t) : t.stand i = pt.stand := by
  obtain ⟨m, hm⟩ := h.point
  have stand := stand_of_point hm
  exact stand

/-- Notifications about the record are offered. -/
theorem Becomes.noted {notes' : Port → List Note} (h : Becomes i g s pt x notes t) (k : Noted i t u)
    (told : ∀ p, Told p (notes' p) t u) : Becomes i g s pt x (fun p => notes p ++ notes' p) u := by
  refine ⟨?_, fun p => (h.told p).trans (told p)⟩
  obtain ⟨m, n, rfl⟩ := h.form
  obtain ⟨m', n', rfl⟩ := k.form (pt := { pt with marks := m }) (State.put_point s i _ g x)
  exact ⟨m', n', congrArg (fun v : State => { v with notify := n' }) (State.put_setPoint s i _ g x _)⟩

theorem Becomes.offered (h : Becomes i g s pt x notes t) (named : Port → Bool) (note : Note) :
    Becomes i g s pt x (fun p => notes p ++ if named p then [note] else []) (offerPorts named i note t) :=
  h.noted (noted_offerPorts named i note t) (told_offerPorts named i note t)

/-- The record is changed, by a change that does not look at its marks. -/
theorem Becomes.modPoint (h : Becomes i g s pt x notes t) {f : Point → Point}
    (hf : ∀ q m, f { q with marks := m } = { f q with marks := m }) : Becomes i g s (f pt) x notes (t.modPoint i f) := by
  refine ⟨?_, fun p => (h.told p).quiet (State.modPoint_clock t i f) (State.modPoint_read_notifyOf t i f p)⟩
  obtain ⟨m, n, rfl⟩ := h.form
  refine ⟨m, n, (modPoint_withNotify _ i f n).trans ?_⟩
  rw [State.put_modPoint, hf]

/-- The record is replaced by a change of itself. -/
theorem Becomes.setPoint (h : Becomes i g s pt x notes t) {f : Point → Point}
    (hf : ∀ q m, f { q with marks := m } = { f q with marks := m }) {q : Point} (hq : t.point? i = some q) :
    Becomes i g s (f pt) x notes (t.setPoint i (f q)) := by
  rw [← State.modPoint_of_some t i f q hq]
  exact h.modPoint hf

/-- The segment is changed. -/
theorem Becomes.modSegment (h : Becomes i g s pt x notes t) (f : Segment → Segment) :
    Becomes i g s pt (f x) notes (t.modSegment g f) := by
  refine ⟨?_, fun p => (h.told p).quiet rfl rfl⟩
  obtain ⟨m, n, rfl⟩ := h.form
  exact ⟨m, n, congrArg (fun v : State => { v with notify := n }) (State.put_modSegment s i _ g x f)⟩

theorem Becomes.modCommand (h : Becomes i g s pt x notes t) (f : Command → Command) :
    Becomes i g s (pt.modCommand f) x notes (modCommand i f t) :=
  Becomes.modPoint (f := (·.modCommand f)) h fun _ _ => rfl

theorem Becomes.cast {pt' : Point} {x' : Segment} {notes' : Port → List Note} (h : Becomes i g s pt x notes t) (hp : pt = pt')
    (hx : x = x') (hn : notes = notes') : Becomes i g s pt' x' notes' t := by
  rw [← hp, ← hx, ← hn]; exact h

end Becomes

end Sys2Proof.Machine

/-! What the end of a POLL, REFRESH-POLL or GUARD makes of its point's record, and the notifications it makes (R40 to R46, R53, R56 to
R62, R87, R88). -/
namespace Sys2Proof.Machine

set_option Elab.async false

/-- A notification made if a condition holds. -/
def noteIf (b : Bool) (n : Note) : List Note := if b then [n] else []

@[simp] theorem noteIf_true (n : Note) : noteIf true n = [n] := rfl

@[simp] theorem noteIf_false (n : Note) : noteIf false n = [] := rfl

theorem noteIf_length (b : Bool) (n : Note) : (noteIf b n).length ≤ 1 := by cases b <;> simp

/-! ### Quality, alarm and deadband (R40, R41, R45, R57, R61) -/

/-- The alarm state after evaluation of `v`, by the point's limits if it has any (R57). -/
def Point.alarmAfter (pt : Point) (v : Value) : Alarm :=
  pt.limits.elim pt.alarm fun l => evaluateAlarm pt.signed l pt.alarm v

/-- `v` passes the point's deadband test; without a deadband none does (R61). -/
def Point.passes (pt : Point) (v : Value) : Bool := pt.deadband.any fun d => deadbandPasses pt.signed d pt.reported v

theorem evaluate_eq {t : State} {i : SlotNo} {pt : Point} (hp : t.point? i = some pt) (v : Value) :
    evaluate i v t = if pt.alarmAfter v = pt.alarm then t
      else offerSubscribers (·.alarm) i (.alarm (t.handle i) v pt.alarm (pt.alarmAfter v) .limit)
        (t.setPoint i { pt with alarm := pt.alarmAfter v }) := by
  unfold evaluate
  rw [hp]
  cases limits : pt.limits with
  | none => simp [Point.alarmAfter, limits]
  | some l => simp [Point.alarmAfter, limits]

theorem testDeadband_eq {t : State} {i : SlotNo} {pt : Point} (hp : t.point? i = some pt) (v : Value) :
    testDeadband i v t = if pt.passes v then
      offerSubscribers (·.value) i (.value (t.handle i) v pt.quality) (t.setPoint i { pt with reported := some v }) else t := by
  unfold testDeadband
  rw [hp]
  cases deadband : pt.deadband with
  | none => simp [Point.passes, deadband]
  | some d => simp [Point.passes, deadband]

section Becomes
variable {i : SlotNo} {g : SegId} {s t : State} {pt : Point} {x : Segment} {notes : Port → List Note}

theorem Becomes.offerSubscribers (h : Becomes i g s pt x notes t) (f : SubSet → Bool) (n : Note) :
    Becomes i g s pt x (fun p => notes p ++ noteIf (f (pt.subscriptions.get p)) n) (offerSubscribers f i n t) := by
  obtain ⟨m, hm⟩ := h.point
  rw [offerSubscribers_eq_offerPorts hm]
  exact h.offered _ n

theorem Becomes.closeCommand (h : Becomes i g s pt x notes t) (v : Issued) (c : Close) :
    Becomes i g s pt x
      (fun p => notes p ++ noteIf (v.issuer == p || (pt.subscriptions.get p).command) (.command (s.handle i) v.value c))
      (closeCommand i v c t) := by
  obtain ⟨m, hm⟩ := h.point
  rw [closeCommand_eq_offerPorts hm, h.handle]
  exact h.offered _ _

/-- A notification about the record, made if a condition on the record holds. -/
theorem Becomes.offerIf (h : Becomes i g s pt x notes t) {b : Bool} (f : SubSet → Bool) (n : Note) {u : State}
    (hu : u = if b then Machine.offerSubscribers f i n t else t) :
    Becomes i g s pt x (fun p => notes p ++ noteIf (b && f (pt.subscriptions.get p)) n) u := by
  subst hu
  cases b with
  | true => exact h.offerSubscribers f n
  | false => exact h.cast rfl rfl (funext fun p => (List.append_nil _).symm)

theorem Becomes.noteQuality (h : Becomes i g s pt x notes t) (before : Quality) (cause : QualityCause) :
    Becomes i g s pt x (fun p => notes p ++
      noteIf (decide (pt.quality ≠ before) && (pt.subscriptions.get p).quality)
        (.quality (s.handle i) before pt.quality pt.failures cause)) (noteQuality i before cause t) := by
  obtain ⟨m, hm⟩ := h.point
  refine h.offerIf _ _ ?_
  unfold Machine.noteQuality
  rw [hm]
  dsimp only
  rw [h.handle]
  by_cases same : pt.quality = before <;> simp [same]

theorem Becomes.goodRead (h : Becomes i g s pt x notes t) (v : Value) :
    Becomes i g s (pt.storeGood v s.clock) x (fun p => notes p ++
      noteIf (decide (pt.quality ≠ .good) && (pt.subscriptions.get p).quality)
        (.quality (s.handle i) pt.quality .good 0 (goodReadCause pt.quality))) (goodRead i v t) := by
  obtain ⟨m, hm⟩ := h.point
  have stored := h.setPoint (f := (·.storeGood v s.clock)) (fun _ _ => rfl) hm
  have noted := stored.noteQuality pt.quality (goodReadCause pt.quality)
  unfold Machine.goodRead
  rw [hm, h.clock]
  refine noted.cast rfl rfl (funext fun p => ?_)
  have swap : decide (Quality.good ≠ pt.quality) = decide (pt.quality ≠ .good) := decide_eq_decide.mpr ne_comm
  change _ ++ noteIf (decide (Quality.good ≠ pt.quality) && _) _ = _
  rw [swap]
  rfl

theorem Becomes.failedRead (h : Becomes i g s pt x notes t) :
    Becomes i g s pt.failRead x (fun p => notes p ++
      noteIf (decide (pt.failRead.quality ≠ pt.quality) && (pt.subscriptions.get p).quality)
        (.quality (s.handle i) pt.quality pt.failRead.quality pt.failRead.failures .failureLimit)) (failedRead i t) := by
  obtain ⟨m, hm⟩ := h.point
  unfold Machine.failedRead
  rw [hm]
  exact (h.setPoint (f := Point.failRead) (fun _ _ => rfl) hm).noteQuality pt.quality .failureLimit

theorem Becomes.evaluate (h : Becomes i g s pt x notes t) (v : Value) :
    Becomes i g s { pt with alarm := pt.alarmAfter v } x (fun p => notes p ++
      noteIf (decide (pt.alarmAfter v ≠ pt.alarm) && (pt.subscriptions.get p).alarm)
        (.alarm (s.handle i) v pt.alarm (pt.alarmAfter v) .limit)) (evaluate i v t) := by
  obtain ⟨m, hm⟩ := h.point
  rw [evaluate_eq hm]
  change Becomes i g s _ x _ (if pt.alarmAfter v = pt.alarm then t else Machine.offerSubscribers _ i
    (.alarm (t.handle i) v pt.alarm (pt.alarmAfter v) .limit) _)
  by_cases same : pt.alarmAfter v = pt.alarm
  · rw [if_pos same]
    refine h.cast (by rw [same]) rfl (funext fun p => ?_)
    rw [same]
    simp
  · rw [if_neg same, h.handle]
    have set := h.setPoint (f := fun q => { q with alarm := pt.alarmAfter v }) (fun _ _ => rfl) hm
    refine (set.offerSubscribers (·.alarm) _).cast rfl rfl (funext fun p => ?_)
    rw [decide_eq_true same, Bool.true_and]

theorem Becomes.testDeadband (h : Becomes i g s pt x notes t) (v : Value) :
    Becomes i g s { pt with reported := if pt.passes v then some v else pt.reported } x (fun p => notes p ++
      noteIf (pt.passes v && (pt.subscriptions.get p).value) (.value (s.handle i) v pt.quality)) (testDeadband i v t) := by
  obtain ⟨m, hm⟩ := h.point
  rw [testDeadband_eq hm]
  change Becomes i g s _ x _ (if pt.passes v then Machine.offerSubscribers _ i (.value (t.handle i) v pt.quality) _ else t)
  cases test : pt.passes v with
  | false => exact h.cast rfl rfl (funext fun p => by simp)
  | true =>
    rw [if_pos rfl, h.handle]
    have set := h.setPoint (f := fun q => { q with reported := some v }) (fun _ _ => rfl) hm
    exact (set.offerSubscribers (·.value) _).cast rfl rfl (funext fun p => by rw [Bool.true_and])

/-! ### Fresh answers (R53) -/

theorem Becomes.answerFresh (h : Becomes i g s pt x notes t) (p : Port) (o : FreshOutcome) :
    Becomes i g s (pt.setFresh p false) x
      (fun q => notes q ++ noteIf (decide (p = q) && pt.fresh.get p) (.fresh (s.handle i) o pt.quality)) (answerFresh p o i t) := by
  obtain ⟨m, hm⟩ := h.point
  unfold Machine.answerFresh
  rw [hm]
  dsimp only
  cases flag : pt.fresh.get p with
  | false =>
    have same : pt.fresh.set p false = pt.fresh := by rw [← flag]; exact PerPort.set_get _ _
    rw [if_neg Bool.false_ne_true]
    refine h.cast ?_ rfl (funext fun q => by simp)
    rw [Point.setFresh, same]
  | true =>
    rw [if_pos rfl, h.handle]
    refine Becomes.modPoint (f := (·.setFresh p false)) ?_ fun _ _ => rfl
    refine h.noted (noted_offerPoint p i _ t) fun q => ?_
    by_cases own : p = q
    · subst own
      simpa using told_offerPoint p i _ t
    · simpa [own] using told_offerPoint_other own i _ t

theorem Becomes.answerFreshBoth (h : Becomes i g s pt x notes t) (o : FreshOutcome) :
    Becomes i g s { pt with fresh := ⟨false, false⟩ } x
      (fun p => notes p ++ noteIf (pt.fresh.get p) (.fresh (s.handle i) o pt.quality)) (answerFreshBoth o i t) := by
  refine ((h.answerFresh .host o).answerFresh .console o).cast rfl rfl (funext fun p => ?_)
  cases p <;> simp [Point.setFresh, PerPort.get, PerPort.set]

theorem Becomes.freshAnswer (h : Becomes i g s pt x notes t) (kind : ReadKind) (o : FreshOutcome) :
    Becomes i g s { pt with fresh := if answersFresh kind then ⟨false, false⟩ else pt.fresh } x
      (fun p => notes p ++ noteIf (pt.fresh.get p && answersFresh kind) (.fresh (s.handle i) o pt.quality))
      (freshAnswer kind o i t) := by
  unfold Machine.freshAnswer
  cases answers : answersFresh kind with
  | false => exact h.cast rfl rfl (funext fun p => by simp)
  | true => exact (h.answerFreshBoth o).cast rfl rfl (funext fun p => by simp)

end Becomes

end Sys2Proof.Machine

/-! A POLL, REFRESH-POLL or GUARD that has ended, as a whole: the guard comparison, its effects in their order, and where its point
re-enters its schedule (R34, R38, R39, R46, R87, R88). -/
namespace Sys2Proof.Machine

set_option Elab.async false

/-! ### The guard comparison (R87, R88) -/

/-- The command state is CONFIRMED. -/
def Stand.isConfirmed : Stand → Bool
  | .confirmed _ => true
  | _ => false

/-- The confirmed value that a good GUARD read of `v` finds to differ (R87). -/
def Point.drift (pt : Point) (v : Value) : Option Value :=
  pt.command.bind fun c => if c.stand.isConfirmed then c.confirmedValue.filter (v != ·) else none

/-- The confirmed value that is restored after a GUARD read of `v` (R88). -/
def Point.restored (pt : Point) (v : Value) : Option Value := if pt.command.any (·.restore) then pt.drift v else none

/-- The restore command for a value (R88). -/
def Point.restoreTo (pt : Point) (cv : Value) : Point :=
  pt.modCommand fun c => { c with stand := pt.waiting ⟨cv, pt.owner.getD .host⟩ none, attempts := 0 }

/-- The record after the guard comparison with `v` (R87, R88). -/
def Point.compared (pt : Point) (v : Value) : Point := (pt.restored v).elim pt pt.restoreTo

/-- The segment after the guard comparison of slot `i` with `v`: a restore command QUEUED at the tail (R70, R88). -/
def Segment.compared (x : Segment) (i : SlotNo) (pt : Point) (v : Value) : Segment :=
  if (pt.restored v).isSome ∧ pt.state = .active then { x with commandQueue := x.commandQueue ++ [i] } else x

theorem compareGuard_eq {t : State} {i : SlotNo} {pt : Point} (hp : t.point? i = some pt) (v : Value) :
    compareGuard i v t = (pt.drift v).elim t fun cv =>
      if pt.command.any (·.restore) then restoreCommand i cv (offerSubscribers (·.command) i (.drift (t.handle i) v cv) t)
      else offerSubscribers (·.command) i (.drift (t.handle i) v cv) t := by
  unfold compareGuard Point.drift
  rw [hp]
  dsimp only
  cases command : pt.command with
  | none => rfl
  | some c =>
    cases stand : c.stand with
    | confirmed d =>
      cases confirmed : c.confirmedValue with
      | none => simp [stand, confirmed, Stand.isConfirmed]
      | some cv => by_cases same : v = cv <;> simp [stand, confirmed, Stand.isConfirmed, same, Option.filter]
    | _ => simp [stand, Stand.isConfirmed]

section Becomes
variable {i : SlotNo} {g : SegId} {s t : State} {pt : Point} {x : Segment} {notes : Port → List Note}

theorem Becomes.restoreCommand (h : Becomes i g s pt x notes t) (hg : pt.segment = g) (cv : Value) :
    Becomes i g s (pt.restoreTo cv) (if pt.state = .active then { x with commandQueue := x.commandQueue ++ [i] } else x) notes
      (restoreCommand i cv t) := by
  obtain ⟨m, hm⟩ := h.point
  subst hg
  have active : ({ pt with marks := m } : Point).isActive = true ↔ pt.state = .active := isActive_iff _
  unfold Machine.restoreCommand
  rw [hm]
  dsimp only
  rw [setStand_modCommand, setStand_modCommand]
  have restored : ∀ y, Becomes i pt.segment s (pt.modCommand fun c => { c with stand := y, attempts := 0 }) x notes
      (Machine.modCommand i (fun c => { c with attempts := 0, stand := y }) t) := fun y => h.modCommand _
  by_cases a : pt.state = .active
  · rw [if_pos (active.mpr a), if_pos a, Point.restoreTo, Point.waiting, if_pos a]
    exact (restored _).modSegment fun y => { y with commandQueue := y.commandQueue ++ [i] }
  · rw [if_neg (mt active.mp a), if_neg a, Point.restoreTo, Point.waiting, if_neg a]
    exact restored _

theorem Becomes.compareGuard (h : Becomes i g s pt x notes t) (hg : pt.segment = g) (v : Value) :
    Becomes i g s (pt.compared v) (x.compared i pt v)
      (fun p => notes p ++ noteIf ((pt.drift v).isSome && (pt.subscriptions.get p).command)
        (.drift (s.handle i) v ((pt.drift v).getD 0))) (compareGuard i v t) := by
  obtain ⟨m, hm⟩ := h.point
  rw [compareGuard_eq hm, h.handle]
  change Becomes i g s _ _ _ ((pt.drift v).elim t fun cv => if pt.command.any (·.restore) then _ else _)
  have offered := fun cv => h.offerSubscribers (·.command) (.drift (s.handle i) v cv)
  unfold Point.compared Segment.compared Point.restored
  cases drift : pt.drift v with
  | none => exact h.cast (by split <;> rfl) (by split <;> simp) (funext fun p => by simp)
  | some cv =>
    rw [Option.elim_some]
    cases restore : pt.command.any (·.restore) with
    | false => exact offered cv
    | true =>
      refine ((offered cv).restoreCommand hg cv).cast rfl ?_ rfl
      simp

/-! ### The effects of a read in their order (R46) -/

/-- The record after steps 1 to 7 of a good read of `v` (R40, R57, R61). -/
def Point.read (pt : Point) (v : Value) (now : Time) : Point :=
  { pt.storeGood v now with alarm := pt.alarmAfter v, reported := if pt.passes v then some v else pt.reported }

/-- The record with its fresh wanted flags answered by a read of a kind (R53). -/
def Point.answered (pt : Point) (kind : ReadKind) : Point :=
  { pt with fresh := if answersFresh kind then ⟨false, false⟩ else pt.fresh }

/-- The record after a good POLL, REFRESH-POLL or GUARD of `v`. -/
def Point.polled (pt : Point) (kind : ReadKind) (v : Value) (now : Time) : Point :=
  (if kind = .guard then (pt.read v now).compared v else pt.read v now).answered kind

/-- The segment after a good POLL, REFRESH-POLL or GUARD of `v`. -/
def Segment.polled (x : Segment) (i : SlotNo) (pt : Point) (kind : ReadKind) (v : Value) : Segment :=
  if kind = .guard then x.compared i pt v else x

/-- The notifications of a good POLL, REFRESH-POLL or GUARD of `v` to port `p` (R46). -/
def Point.polledNotes (pt : Point) (kind : ReadKind) (v : Value) (h : Handle) (p : Port) : List Note :=
  noteIf (decide (pt.quality ≠ .good) && (pt.subscriptions.get p).quality)
      (.quality h pt.quality .good 0 (goodReadCause pt.quality))
    ++ noteIf (decide (pt.alarmAfter v ≠ pt.alarm) && (pt.subscriptions.get p).alarm) (.alarm h v pt.alarm (pt.alarmAfter v) .limit)
    ++ noteIf (pt.passes v && (pt.subscriptions.get p).value) (.value h v .good)
    ++ noteIf (decide (kind = .guard) && (pt.drift v).isSome && (pt.subscriptions.get p).command) (.drift h v ((pt.drift v).getD 0))
    ++ noteIf (pt.fresh.get p && answersFresh kind) (.fresh h (.done v) .good)

theorem Becomes.read (h : Becomes i g s pt x notes t) (v : Value) : Becomes i g s (pt.read v s.clock) x
    (fun p => notes p ++ noteIf (decide (pt.quality ≠ .good) && (pt.subscriptions.get p).quality)
      (.quality (s.handle i) pt.quality .good 0 (goodReadCause pt.quality))
      ++ noteIf (decide (pt.alarmAfter v ≠ pt.alarm) && (pt.subscriptions.get p).alarm)
        (.alarm (s.handle i) v pt.alarm (pt.alarmAfter v) .limit)
      ++ noteIf (pt.passes v && (pt.subscriptions.get p).value) (.value (s.handle i) v .good))
    (Machine.testDeadband i v (Machine.evaluate i v (Machine.goodRead i v t))) :=
  ((h.goodRead v).evaluate v).testDeadband v

theorem Point.polled_fresh (pt : Point) (kind : ReadKind) (v : Value) (now : Time) :
    (if kind = .guard then (pt.read v now).compared v else pt.read v now).fresh = pt.fresh ∧
      (if kind = .guard then (pt.read v now).compared v else pt.read v now).quality = .good := by
  unfold Point.compared
  split
  · cases (pt.read v now).restored v <;> exact ⟨rfl, rfl⟩
  · exact ⟨rfl, rfl⟩

theorem Becomes.pollGood (h : Becomes i g s pt x notes t) (hg : pt.segment = g) (kind : ReadKind) (v : Value) :
    Becomes i g s (pt.polled kind v s.clock) (x.polled i pt kind v)
      (fun p => notes p ++ pt.polledNotes kind v (s.handle i) p) (pollGood kind v i t) := by
  have read := h.read v
  have guarded : Becomes i g s (if kind = .guard then (pt.read v s.clock).compared v else pt.read v s.clock)
      (x.polled i pt kind v) (fun p => notes p ++ noteIf (decide (pt.quality ≠ .good) && (pt.subscriptions.get p).quality)
        (.quality (s.handle i) pt.quality .good 0 (goodReadCause pt.quality))
        ++ noteIf (decide (pt.alarmAfter v ≠ pt.alarm) && (pt.subscriptions.get p).alarm)
          (.alarm (s.handle i) v pt.alarm (pt.alarmAfter v) .limit)
        ++ noteIf (pt.passes v && (pt.subscriptions.get p).value) (.value (s.handle i) v .good)
        ++ noteIf (decide (kind = .guard) && (pt.drift v).isSome && (pt.subscriptions.get p).command)
          (.drift (s.handle i) v ((pt.drift v).getD 0)))
      (if kind == .guard then Machine.compareGuard i v (Machine.testDeadband i v (Machine.evaluate i v (Machine.goodRead i v t)))
        else Machine.testDeadband i v (Machine.evaluate i v (Machine.goodRead i v t))) := by
    unfold Segment.polled
    by_cases guard : kind = .guard
    · subst guard
      exact (read.compareGuard hg v).cast rfl rfl (funext fun p => by rw [decide_eq_true rfl, Bool.true_and]; rfl)
    · rw [if_neg guard, if_neg guard, if_neg (by simpa using guard)]
      exact read.cast rfl rfl (funext fun p => by simp [guard])
  obtain ⟨fresh, quality⟩ := pt.polled_fresh kind v s.clock
  have answered := guarded.freshAnswer kind (.done v)
  refine answered.cast rfl rfl (funext fun p => ?_)
  rw [fresh, quality, Point.polledNotes]
  simp only [List.append_assoc]

/-- The notifications of a failed POLL, REFRESH-POLL or GUARD to port `p` (R46). -/
def Point.failedNotes (pt : Point) (kind : ReadKind) (o : FreshOutcome) (h : Handle) (p : Port) : List Note :=
  noteIf (decide (pt.failRead.quality ≠ pt.quality) && (pt.subscriptions.get p).quality)
      (.quality h pt.quality pt.failRead.quality pt.failRead.failures .failureLimit)
    ++ noteIf (pt.fresh.get p && answersFresh kind) (.fresh h o pt.failRead.quality)

theorem Becomes.pollFailed (h : Becomes i g s pt x notes t) (kind : ReadKind) (o : FreshOutcome) :
    Becomes i g s (pt.failRead.answered kind) x (fun p => notes p ++ pt.failedNotes kind o (s.handle i) p)
      (pollFailed kind o i t) :=
  (h.failedRead.freshAnswer kind o).cast rfl rfl (funext fun p => by rw [Point.failedNotes, List.append_assoc]; rfl)

/-! ### Re-entry (R34, R38, R39) -/

/-- The segment with slot `i` in its schedule with due time `d`, unless it stands there already (R34). -/
def Segment.entered (x : Segment) (i : SlotNo) (d : Due) (now : Time) : Segment :=
  if x.schedule.find? (·.slot == i) = none then { x with schedule := insertEntry ⟨i, d, d.reachedAt now⟩ x.schedule } else x

theorem Becomes.enterSchedule (h : Becomes i g s pt x notes t) (d : Due) :
    Becomes i g s pt (x.entered i d s.clock) notes (enterSchedule g i d t) := by
  unfold Machine.enterSchedule Segment.entered
  rw [State.entryOf?, h.segment, h.clock]
  cases entry : x.schedule.find? (·.slot == i) with
  | none => exact h.modSegment fun y => { y with schedule := insertEntry ⟨i, d, d.reachedAt s.clock⟩ y.schedule }
  | some e => exact h

theorem Becomes.reenter (h : Becomes i g s pt x notes t) (hg : pt.segment = g) (d : Due) :
    Becomes i g s pt (if s.wantsEntry pt then x.entered i d s.clock else x) notes (reenter i d t) := by
  obtain ⟨m, hm⟩ := h.point
  subst hg
  unfold Machine.reenter
  rw [hm]
  dsimp only
  rw [h.wantsEntry]
  change Becomes i pt.segment s pt (if s.wantsEntry pt then _ else x) notes (if s.wantsEntry pt then _ else t)
  cases s.wantsEntry pt with
  | false => exact h
  | true => exact h.enterSchedule d

/-- The next due and the late flag of a point whose read has ended (R38, R39). -/
def Point.rhythm (pt : Point) (kind : FlightKind) (start : Option Due) (period : Interval) (now : Time) : Due × Bool :=
  if kind = .refreshPoll then
    pt.rhythmDue.elim (rhythmicDue (start.getD ⟨now, false⟩) period now) fun d => refreshedDue d period now pt.late
  else rhythmicDue (start.getD ⟨now, false⟩) period now

theorem reenterRead_eq {t : State} {i : SlotNo} {pt : Point} {period : Interval} (hp : t.point? i = some pt)
    (hperiod : pt.period = some period) (kind : FlightKind) (start : Option Due) :
    reenterRead kind start i t = if t.wantsEntry pt then
      enterSchedule pt.segment i (pt.rhythm kind start period t.clock).1
        (t.setPoint i { pt with late := (pt.rhythm kind start period t.clock).2, rhythmDue := none }) else t := by
  unfold reenterRead Point.rhythm State.dueNow
  rw [hp]
  dsimp only
  rw [hperiod]
  cases kind <;> cases due : pt.rhythmDue <;> rfl

theorem Becomes.reenterRead (h : Becomes i g s pt x notes t) (hg : pt.segment = g) {period : Interval}
    (hperiod : pt.period = some period) (kind : FlightKind) (start : Option Due) (wants : s.wantsEntry pt = true) :
    Becomes i g s { pt with late := (pt.rhythm kind start period s.clock).2, rhythmDue := none }
      (x.entered i (pt.rhythm kind start period s.clock).1 s.clock) notes (reenterRead kind start i t) := by
  obtain ⟨m, hm⟩ := h.point
  subst hg
  have same : t.wantsEntry { pt with marks := m } = true := (h.wantsEntry _).trans wants
  rw [reenterRead_eq hm hperiod, if_pos same, h.clock]
  have set := h.setPoint (f := fun q => { q with late := (pt.rhythm kind start period s.clock).2, rhythmDue := none })
    (fun _ _ => rfl) hm
  exact set.enterSchedule _

theorem Becomes.reenterRead_idle (h : Becomes i g s pt x notes t) (kind : FlightKind) (start : Option Due)
    (idle : s.wantsEntry pt = false) : Becomes i g s pt x notes (Machine.reenterRead kind start i t) := by
  obtain ⟨m, hm⟩ := h.point
  cases period : pt.period with
  | none =>
    have same : Machine.reenterRead kind start i t = t := by
      unfold Machine.reenterRead
      rw [hm]
      simp [period]
    rw [same]; exact h
  | some n =>
    have same : t.wantsEntry { pt with marks := m } = false := (h.wantsEntry _).trans idle
    rw [reenterRead_eq hm period, same]
    exact h

end Becomes

end Sys2Proof.Machine

/-! An outcome counted for its node (R94 to R99): the entry, each point of the node and its schedule entry, and what the ports are
told. -/
namespace Sys2Proof.Machine

set_option Elab.async false

/-! ### One operation on each slot of a list -/

/-- A view of each slot after one operation on each slot of a list, that changes its own slot's view by `F` and keeps `Inv`. -/
theorem foldl_each {β : Type} {view : State → SlotNo → β} {Inv : State → Prop} {f : State → SlotNo → State} {F : SlotNo → β → β}
    (idem : ∀ j b, F j (F j b) = F j b)
    (own : ∀ t i j, Inv t → view (f t i) j = if j = i then F j (view t j) else view t j) (keep : ∀ t i, Inv t → Inv (f t i))
    (l : List SlotNo) {s : State} (hs : Inv s) :
    Inv (l.foldl f s) ∧ ∀ j, view (l.foldl f s) j = if j ∈ l then F j (view s j) else view s j := by
  induction l generalizing s with
  | nil => exact ⟨hs, fun j => by simp⟩
  | cons i rest ih =>
    obtain ⟨inv, each⟩ := ih (keep s i hs)
    refine ⟨inv, fun j => ?_⟩
    rw [List.foldl_cons, each j, own s i j hs]
    by_cases e : j = i
    · subst e; by_cases m : j ∈ rest <;> simp [m, idem]
    · simp [e]

/-- A slot's record and its entry in segment `g`'s schedule. -/
def State.seat (s : State) (g : SegId) (j : SlotNo) : Option Point × Option SchedEntry := (s.point? j, s.entryOf? g j)

theorem seat_of_congr {s t : State} (slots : t.slots = s.slots) (segments : t.segments = s.segments) (g : SegId) (j : SlotNo) :
    t.seat g j = s.seat g j := by
  have point : t.point? j = s.point? j := by rw [State.point?, slots, State.point?]
  have segment : t.segment g = s.segment g := by rw [State.segment, segments, State.segment]
  rw [State.seat, State.seat, point, State.entryOf?, State.entryOf?, segment]

theorem find?_insertEntry_self {l : List SchedEntry} {e : SchedEntry} (h : l.find? (·.slot == e.slot) = none) :
    (insertEntry e l).find? (·.slot == e.slot) = some e := by
  induction l with
  | nil => simp [insertEntry]
  | cons f rest ih =>
    rw [List.find?_cons] at h
    cases other : f.slot == e.slot with
    | true => rw [other] at h; cases h
    | false =>
      rw [other] at h
      unfold insertEntry
      split
      · simp
      · rw [List.find?_cons, other]
        exact ih h

/-- The entry of a slot after an entry is put in its place for one that has none. -/
theorem find?_insertEntry_of {l : List SchedEntry} {i : SlotNo} (h : l.find? (·.slot == i) = none) (d : Due) (m : Bool) (j : SlotNo) :
    (insertEntry ⟨i, d, m⟩ l).find? (·.slot == j) = if j = i then some ⟨i, d, m⟩ else l.find? (·.slot == j) := by
  split
  · next e => subst e; exact find?_insertEntry_self (e := ⟨j, d, m⟩) h
  · next e => exact find?_insertEntry ⟨i, d, m⟩ l j (Ne.symm e)

/-! ### The points of a node that returns (R99) -/

/-- What the return of its node makes of a slot: due now, if the point waits for it (R99). -/
def State.returned (s : State) (g : SegId) (j : SlotNo) (seat : Option Point × Option SchedEntry) : Option Point × Option SchedEntry :=
  (seat.1, if seat.1.any (fun pt => s.wantsEntry pt && pt.segment == g) && seat.2.isNone then some ⟨j, ⟨s.clock, false⟩, true⟩ else seat.2)

theorem returned_returned (s : State) (g : SegId) (j : SlotNo) (b : Option Point × Option SchedEntry) :
    s.returned g j (s.returned g j b) = s.returned g j b := by
  obtain ⟨p, e⟩ := b
  unfold State.returned
  dsimp only
  cases e with
  | none => cases p.any fun pt => s.wantsEntry pt && pt.segment == g <;> rfl
  | some e => simp

theorem wantsEntry_of_directory {s t : State} (h : t.directory = s.directory) (pt : Point) : t.wantsEntry pt = s.wantsEntry pt := by
  rw [State.wantsEntry, State.wantsEntry, State.nodeLost, State.nodeLost, State.nodeEntry?, State.nodeEntry?, h]

theorem seat_reenter {s t : State} (h : t.clock = s.clock ∧ t.directory = s.directory) (g : SegId) (i j : SlotNo) :
    (reenter i t.dueNow t).seat g j = if j = i then s.returned g j (t.seat g j) else t.seat g j := by
  cases hp : t.point? i with
  | none =>
    have same : reenter i t.dueNow t = t := by unfold reenter; rw [hp]
    rw [same]
    split
    · next e => subst e; simp [State.seat, State.returned, hp]
    · rfl
  | some pt =>
    rw [reenter_eq hp]
    have point : ∀ x, (t.setSegment pt.segment x).point? j = t.point? j := fun _ => rfl
    unfold State.seat
    rw [point, State.entryOf?, State.setSegment_read_segment]
    have wants := wantsEntry_of_directory h.2 pt
    by_cases hg : pt.segment = g
    · subst hg
      rw [if_pos rfl]
      unfold State.rescheduled
      by_cases enters : t.wantsEntry pt = true ∧ t.entryOf? pt.segment i = none
      · rw [if_pos enters]
        refine (congrArg (Prod.mk _) (find?_insertEntry_of enters.2 _ _ j)).trans ?_
        by_cases e : j = i
        · subst e
          rw [wants] at enters
          rw [if_pos rfl, if_pos rfl, State.returned, hp, State.dueNow, reachedAt_now, h.1]
          simp [enters.1, enters.2]
        · rw [if_neg e, if_neg e]; rfl
      · rw [if_neg enters]
        by_cases e : j = i
        · subst e
          rw [wants] at enters
          rw [if_pos rfl, State.returned, hp]
          have stays : (s.wantsEntry pt && (t.entryOf? pt.segment j).isNone) = false := by
            rw [← Bool.not_eq_true, Bool.and_eq_true, Option.isNone_iff_eq_none]
            exact enters
          have stays' : ((s.wantsEntry pt && pt.segment == pt.segment) && (t.entryOf? pt.segment j).isNone) = false := by
            rw [beq_self_eq_true, Bool.and_true]; exact stays
          simp only [Option.any_some]
          rw [stays']
          rfl
        · rw [if_neg e]; rfl
    · rw [if_neg hg]
      by_cases e : j = i
      · subst e
        rw [if_pos rfl, State.returned, hp]
        simp [hg, State.entryOf?]
      · rw [if_neg e]; rfl

/-! ### The points of a node that is lost (R53, R96) -/

/-- What the loss of its node makes of a slot: out of the schedule, without a rhythm due (R37, R96). -/
def lostSeat (seat : Option Point × Option SchedEntry) : Option Point × Option SchedEntry :=
  (seat.1.map fun pt => { pt with rhythmDue := none }, none)

theorem seat_dropByLoss (g : SegId) (t : State) (i j : SlotNo) :
    (dropByLoss g t i).seat g j = if j = i then lostSeat (t.seat g j) else t.seat g j := by
  have segment : (dropByLoss g t i).segment g = { t.segment g with schedule := removeEntry i (t.segment g).schedule } := by
    simp [dropByLoss, leaveSchedule]
  have point : (dropByLoss g t i).point? j =
      if i = j then (t.point? j).map fun pt => { pt with rhythmDue := none } else t.point? j := by
    by_cases e : i = j <;> simp [dropByLoss, leaveSchedule, e]
  rw [State.seat, State.seat, point, State.entryOf?, segment]
  by_cases e : j = i
  · subst e
    rw [if_pos rfl, if_pos rfl]
    exact congrArg (Prod.mk _) (find?_removeEntry_self j _)
  · rw [if_neg e, if_neg (Ne.symm e)]
    exact congrArg (Prod.mk _) (find?_removeEntry i _ j (Ne.symm e))

/-- A record without its pending marks. -/
def Point.unmarked (pt : Point) : Point := { pt with marks := ⟨false, false⟩ }

/-- The notification with which a slot's fresh wanted flag for port `p` is answered (R53). -/
def State.freshNotes (s : State) (o : FreshOutcome) (p : Port) (i : SlotNo) : List Note :=
  (s.point? i).elim [] fun pt => noteIf (pt.fresh.get p) (.fresh (s.handle i) o pt.quality)

theorem Becomes.point_of_ne {i j : SlotNo} {g : SegId} {s t : State} {pt : Point} {x : Segment} {notes : Port → List Note}
    (h : Becomes i g s pt x notes t) (hj : j ≠ i) : t.point? j = s.point? j := by
  obtain ⟨m, n, rfl⟩ := h.form
  exact (State.setPoint_read_point s i j _).trans (if_neg (Ne.symm hj))

theorem answerFreshBoth_free {s : State} {i : SlotNo} (h : s.point? i = none) (o : FreshOutcome) : answerFreshBoth o i s = s := by
  have one : ∀ p, answerFresh p o i s = s := fun p => by unfold answerFresh; rw [h]
  rw [answerFreshBoth, one, one]

theorem answerFreshBoth_becomes {s : State} {i : SlotNo} {pt : Point} (h : s.point? i = some pt) (o : FreshOutcome) :
    Becomes i .a s { pt with fresh := ⟨false, false⟩ } (s.segment .a)
      (fun p => noteIf (pt.fresh.get p) (.fresh (s.handle i) o pt.quality)) (answerFreshBoth o i s) :=
  ((Becomes.start h .a).answerFreshBoth o).cast rfl rfl (funext fun _ => List.nil_append _)

/-- One answer leaves the segments, the directory and the clock, and every other slot. -/
theorem answerFreshBoth_keeps (o : FreshOutcome) (i : SlotNo) (s : State) : (answerFreshBoth o i s).segments = s.segments ∧
    (answerFreshBoth o i s).directory = s.directory ∧ (answerFreshBoth o i s).clock = s.clock ∧
    (∀ j, (answerFreshBoth o i s).handle j = s.handle j) ∧ ∀ j, j ≠ i → (answerFreshBoth o i s).point? j = s.point? j := by
  cases hp : s.point? i with
  | none => rw [answerFreshBoth_free hp]; exact ⟨rfl, rfl, rfl, fun _ => rfl, fun _ _ => rfl⟩
  | some pt =>
    have h := answerFreshBoth_becomes hp o
    refine ⟨?_, h.directory, h.clock, h.handle, fun j hj => h.point_of_ne hj⟩
    obtain ⟨m, n, form⟩ := h.form
    rw [form]
    rfl

theorem told_answerFreshBoth (o : FreshOutcome) (i : SlotNo) (s : State) (p : Port) :
    Told p (s.freshNotes o p i) s (answerFreshBoth o i s) := by
  unfold State.freshNotes
  cases hp : s.point? i with
  | none => rw [answerFreshBoth_free hp]; exact Told.refl p s
  | some pt => exact (answerFreshBoth_becomes hp o).told p

section Answers
variable {l : List SlotNo} {s : State}

/-- The flags of a list of slots answered: each slot's own notifications, one slot after the other (R53, R96). -/
theorem told_answers (o : FreshOutcome) (nodup : l.Nodup) (p : Port) :
    Told p (l.flatMap (s.freshNotes o p)) s (l.foldl (fun t i => answerFreshBoth o i t) s) := by
  induction l generalizing s with
  | nil => exact Told.refl p s
  | cons i rest ih =>
    obtain ⟨new, nodup'⟩ := List.nodup_cons.mp nodup
    obtain ⟨-, -, -, handle, point⟩ := answerFreshBoth_keeps o i s
    have same : rest.flatMap ((answerFreshBoth o i s).freshNotes o p) = rest.flatMap (s.freshNotes o p) :=
      List.flatMap_congr fun j hj => by
        have other : j ≠ i := fun e => new (e ▸ hj)
        rw [State.freshNotes, State.freshNotes, point j other, handle j]
    have rest' := ih (s := answerFreshBoth o i s) nodup'
    rw [same] at rest'
    exact (told_answerFreshBoth o i s p).trans rest'

theorem freshNotes_length (o : FreshOutcome) (p : Port) (l : List SlotNo) :
    (l.flatMap (s.freshNotes o p)).length ≤ l.length := by
  induction l with
  | nil => exact Nat.le_refl 0
  | cons i rest ih =>
    have one : (s.freshNotes o p i).length ≤ 1 := by
      unfold State.freshNotes
      cases s.point? i with
      | none => exact Nat.zero_le 1
      | some pt => exact noteIf_length _ _
    rw [List.flatMap_cons, List.length_append, List.length_cons]
    omega

theorem answers_keep (o : FreshOutcome) (l : List SlotNo) (s : State) :
    (l.foldl (fun t i => answerFreshBoth o i t) s).segments = s.segments ∧
      (l.foldl (fun t i => answerFreshBoth o i t) s).directory = s.directory ∧
      (l.foldl (fun t i => answerFreshBoth o i t) s).clock = s.clock ∧
      (∀ j, j ∉ l → (l.foldl (fun t i => answerFreshBoth o i t) s).point? j = s.point? j) ∧
      ∀ j, j ∈ l → ((l.foldl (fun t i => answerFreshBoth o i t) s).point? j).map Point.unmarked =
        (s.point? j).map fun pt => { pt.unmarked with fresh := ⟨false, false⟩ } := by
  induction l generalizing s with
  | nil => exact ⟨rfl, rfl, rfl, fun _ _ => rfl, fun j hj => absurd hj List.not_mem_nil⟩
  | cons i rest ih =>
    obtain ⟨segments, directory, clock, -, point⟩ := answerFreshBoth_keeps o i s
    obtain ⟨segments', directory', clock', out, within⟩ := ih (answerFreshBoth o i s)
    have own : ((answerFreshBoth o i s).point? i).map Point.unmarked =
        (s.point? i).map fun pt => { pt.unmarked with fresh := ⟨false, false⟩ } := by
      cases hp : s.point? i with
      | none => rw [answerFreshBoth_free hp, hp]; rfl
      | some pt =>
        obtain ⟨m, hm⟩ := (answerFreshBoth_becomes hp o).point
        rw [hm]
        rfl
    refine ⟨segments'.trans segments, directory'.trans directory, clock'.trans clock, fun j hj => ?_, fun j hj => ?_⟩
    · have ne : j ≠ i := fun e => hj (e ▸ List.mem_cons_self)
      have notin : j ∉ rest := fun m => hj (List.mem_cons_of_mem i m)
      exact (out j notin).trans (point j ne)
    · by_cases again : j ∈ rest
      · refine (within j again).trans ?_
        by_cases e : j = i
        · subst e
          have twice := congrArg (Option.map fun q : Point => { q with fresh := ⟨false, false⟩ }) own
          rw [Option.map_map, Option.map_map] at twice
          exact twice
        · rw [point j e]
      · obtain rfl : j = i := (List.mem_cons.mp hj).resolve_right again
        rw [List.foldl_cons, out j again]
        exact own

end Answers

end Sys2Proof.Machine

/-! The node's part of an outcome as a whole: counted, returned or lost (R94 to R99). -/
namespace Sys2Proof.Machine

set_option Elab.async false

theorem mem_slotsNaming_iff (s : State) (g : SegId) (x : Address) (i : SlotNo) :
    i ∈ s.slotsNaming g x ↔ (s.point? i).any (·.names g x) = true := by
  rw [State.slotsNaming, List.mem_filter]
  exact and_iff_right (mem_allSlots i)

theorem nodup_slotsNaming (s : State) (g : SegId) (x : Address) : (s.slotsNaming g x).Nodup := nodup_allSlots.filter _

theorem slotsNaming_length (s : State) (g : SegId) (x : Address) : (s.slotsNaming g x).length = s.pointsNaming g x := by
  rw [State.slotsNaming, State.pointsNaming, List.countP_eq_length_filter]
  have same : ∀ i, (s.point? i).any (·.names g x) = (s.ident i).any fun a => a.segment == g && a.address == x := fun i => by
    rw [State.ident, Option.any_map]
    rfl
  exact congrArg List.length (List.filter_congr fun i _ => same i)

theorem slotsNaming_congr {s t : State} (h : ∀ j, (t.point? j).map (fun pt => (pt.segment, pt.address)) =
    (s.point? j).map fun pt => (pt.segment, pt.address)) (g : SegId) (x : Address) : t.slotsNaming g x = s.slotsNaming g x := by
  refine List.filter_congr fun j _ => ?_
  have names : ∀ p : Option Point, p.any (·.names g x) = (p.map fun pt => (pt.segment, pt.address)).any fun k => k.1 == g && k.2 == x :=
    fun p => by cases p <;> rfl
  rw [names, names, h j]

/-! ### What the three parts have in common -/

/-- The node's part of an outcome has led from `v` to `n`: the entry of the key has become `e'`, each slot's record and entry what
`seat` makes of them but for the marks, the record of the transaction's own point exactly so, and each port has been told `notes`. -/
structure NodeDone (g : SegId) (x : Address) (cause : Option SlotNo) (v n : State) (entry : NodeEntry → NodeEntry)
    (own near : SlotNo → Option Point × Option SchedEntry → Option Point × Option SchedEntry) (notes : Port → List Note) : Prop where
  directory : n.directory = (v.modNode g x entry).directory
  clock : n.clock = v.clock
  away : ∀ j, (v.point? j).any (·.names g x) = false → n.seat g j = v.seat g j
  own : ∀ j, (v.point? j).any (·.names g x) = true → cause = some j → n.seat g j = own j (v.seat g j)
  near : ∀ j, (v.point? j).any (·.names g x) = true → cause ≠ some j →
    (n.point? j).map Point.unmarked = (near j (v.seat g j)).1.map Point.unmarked ∧ n.entryOf? g j = (near j (v.seat g j)).2
  told : ∀ p, Told p (notes p) v n

section Parts
variable {g : SegId} {x : Address} {cause : Option SlotNo} {v : State} {e : NodeEntry}

/-- The entry of a node that has returned (R99). -/
def NodeEntry.back (e : NodeEntry) : NodeEntry := { e with presence := .present, misses := 0, probe := none }

/-- The entry of a node that is lost at a reading (R96). -/
def NodeEntry.gone (now : Time) (e : NodeEntry) : NodeEntry :=
  { e with presence := .lost, misses := 8, probe := some ⟨after now probeInterval, false⟩ }

/-- A change of the node's entry alone. -/
theorem modNode_done (g : SegId) (x : Address) (cause : Option SlotNo) (v : State) (f : NodeEntry → NodeEntry) :
    NodeDone g x cause v (v.modNode g x f) f (fun _ b => b) (fun _ b => b) (fun _ => []) :=
  ⟨rfl, rfl, fun _ _ => rfl, fun _ _ _ => rfl, fun _ _ _ => ⟨rfl, rfl⟩, fun _ => .of_eq rfl rfl⟩

theorem seat_noted {s t : State} {i : SlotNo} (h : t.slots = s.slots) (k : Noted i s t) (g : SegId) (j : SlotNo) :
    t.seat g j = s.seat g j := seat_of_congr h k.segments g j

theorem offerNodeEvents_slots (n : Note) (s : State) : (offerNodeEvents n s).slots = s.slots := by
  rw [offerNodeEvents_eq_offerSystems, offerSystems_form]

/-- A node that returns: its points that wait for it are due now (R99). -/
theorem returnNode_done (g : SegId) (x : Address) (cause : Option SlotNo) (e : NodeEntry) (v : State) :
    NodeDone g x cause v (returnNode g x e v) NodeEntry.back ((v.modNode g x NodeEntry.back).returned g)
      ((v.modNode g x NodeEntry.back).returned g)
      (fun p => noteIf (v.notifyOf p).nodeEvents (.node (.back e.points) g x)) := by
  unfold returnNode
  change NodeDone g x cause v (((offerNodeEvents _ (v.modNode g x NodeEntry.back)).slotsNaming g x).foldl _
    (offerNodeEvents _ (v.modNode g x NodeEntry.back))) _ _ _ _
  generalize markedEq : v.modNode g x NodeEntry.back = marked
  have mSlots : marked.slots = v.slots := by rw [← markedEq]; rfl
  have mSegments : marked.segments = v.segments := by rw [← markedEq]; rfl
  have mClock : marked.clock = v.clock := by rw [← markedEq]; rfl
  have mNotify : ∀ p, marked.notifyOf p = v.notifyOf p := fun p => by rw [← markedEq]; rfl
  have told := fun p => told_offerNodeEvents (.node (.back e.points) g x) marked p
  have noted := noted_offerNodeEvents 0 (.node (.back e.points) g x) marked
  have slots := offerNodeEvents_slots (.node (.back e.points) g x) marked
  generalize offerNodeEvents (.node (.back e.points) g x) marked = t at told noted slots
  have seat : ∀ j, t.seat g j = v.seat g j := fun j => seat_of_congr (slots.trans mSlots) (noted.segments.trans mSegments) g j
  have point : ∀ j, t.point? j = v.point? j := fun j => congrArg Prod.fst (seat j)
  obtain ⟨⟨clock, directory, notify⟩, each⟩ := foldl_each (view := fun s j => s.seat g j) (f := fun t i => reenter i t.dueNow t)
    (Inv := fun u => u.clock = marked.clock ∧ u.directory = marked.directory ∧ u.notify = t.notify)
    (returned_returned marked g) (fun u i j h => seat_reenter ⟨h.1, h.2.1⟩ g i j)
    (fun u i ⟨hc, hd, hn⟩ => by
      unfold reenter
      split
      · exact ⟨hc, hd, hn⟩
      · split
        · unfold enterSchedule; split <;> exact ⟨hc, hd, hn⟩
        · exact ⟨hc, hd, hn⟩)
    (t.slotsNaming g x) ⟨noted.clock, noted.directory, rfl⟩
  have naming : ∀ j, j ∈ t.slotsNaming g x ↔ (v.point? j).any (·.names g x) = true := fun j => by
    rw [mem_slotsNaming_iff, point]
  refine ⟨directory.trans ?_, clock.trans mClock, fun j away => ?_, fun j near _ => ?_, fun j near _ => ?_, fun p => ?_⟩
  · rw [← markedEq]
  · rw [each j, if_neg (by rw [naming, away]; exact Bool.false_ne_true), seat]
  · rw [each j, if_pos ((naming j).mpr near), seat]
  · have at_ := each j
    rw [if_pos ((naming j).mpr near), seat] at at_
    exact ⟨congrArg (fun b : Option Point × Option SchedEntry => b.1.map Point.unmarked) at_, congrArg Prod.snd at_⟩
  · have run := (told p).from mClock (mNotify p)
    rw [mNotify] at run
    exact run.quiet (clock.trans noted.clock.symm) (congrArg (PerPort.get · p) notify)

/-- What the loss of its node makes of the slot of a point whose flags it answers (R53, R96). -/
def answeredSeat (seat : Option Point × Option SchedEntry) : Option Point × Option SchedEntry :=
  (seat.1.map fun pt => { pt with rhythmDue := none, fresh := ⟨false, false⟩ }, none)

/-- What port `p` is told of the loss of a node: the NODE event, then the answers to the flags of its points but the transaction's own
(R53, R96). -/
def State.lossNotes (v : State) (g : SegId) (x : Address) (cause : Option SlotNo) (e : NodeEntry) (p : Port) : List Note :=
  noteIf (v.notifyOf p).nodeEvents (.node (.lost e.points) g x) ++
    ((v.slotsNaming g x).filter fun i => cause != some i).flatMap (v.freshNotes .noNode p)

/-- A node that is lost: its points out of the schedule, their flags answered but for the transaction's own (R96). -/
theorem loseNode_done (g : SegId) (x : Address) (cause : Option SlotNo) (e : NodeEntry) (v : State) :
    NodeDone g x cause v (loseNode g x cause e v) (NodeEntry.gone v.clock) (fun _ => lostSeat) (fun _ => answeredSeat)
      (v.lossNotes g x cause e) := by
  unfold loseNode
  change NodeDone g x cause v (List.foldl _
    (((offerNodeEvents _ (v.modNode g x (NodeEntry.gone v.clock))).slotsNaming g x).foldl (dropByLoss g)
      (offerNodeEvents _ (v.modNode g x (NodeEntry.gone v.clock))))
    (((((offerNodeEvents _ (v.modNode g x (NodeEntry.gone v.clock))).slotsNaming g x).foldl (dropByLoss g)
      (offerNodeEvents _ (v.modNode g x (NodeEntry.gone v.clock)))).slotsNaming g x).filter _)) _ _ _ _
  generalize markedEq : v.modNode g x (NodeEntry.gone v.clock) = marked
  have mSlots : marked.slots = v.slots := by rw [← markedEq]; rfl
  have mSegments : marked.segments = v.segments := by rw [← markedEq]; rfl
  have mClock : marked.clock = v.clock := by rw [← markedEq]; rfl
  have mNotify : ∀ p, marked.notifyOf p = v.notifyOf p := fun p => by rw [← markedEq]; rfl
  have told := fun p => told_offerNodeEvents (.node (.lost e.points) g x) marked p
  have noted := noted_offerNodeEvents 0 (.node (.lost e.points) g x) marked
  have slots := offerNodeEvents_slots (.node (.lost e.points) g x) marked
  generalize offerNodeEvents (.node (.lost e.points) g x) marked = t at told noted slots
  have seat : ∀ j, t.seat g j = v.seat g j := fun j => seat_of_congr (slots.trans mSlots) (noted.segments.trans mSegments) g j
  have point : ∀ j, t.point? j = v.point? j := fun j => congrArg Prod.fst (seat j)
  have handle : ∀ j, t.handle j = v.handle j := fun j => by
    rw [noted.handle, State.handle, State.handle, State.generation, mSlots, State.generation]
  obtain ⟨⟨clock, directory, notify, handle'⟩, each⟩ := foldl_each (view := fun s j => s.seat g j) (f := dropByLoss g)
    (F := fun _ => lostSeat) (Inv := fun u => u.clock = marked.clock ∧ u.directory = marked.directory ∧ u.notify = t.notify ∧
      ∀ j, u.handle j = t.handle j)
    (fun j b => by obtain ⟨p, e⟩ := b; cases p <;> rfl) (fun u i j _ => seat_dropByLoss g u i j)
    (fun u i ⟨hc, hd, hn, hh⟩ => ⟨(State.modPoint_clock _ _ _).trans hc, (State.modPoint_directory _ _ _).trans hd,
      (State.modPoint_notify _ _ _).trans hn, fun j => (congrArg (Handle.mk j) (State.modPoint_read_generation _ _ _ _)).trans (hh j)⟩)
    (t.slotsNaming g x) ⟨noted.clock, noted.directory, rfl, fun _ => rfl⟩
  have naming : ∀ j, j ∈ t.slotsNaming g x ↔ (v.point? j).any (·.names g x) = true := fun j => by
    rw [mem_slotsNaming_iff, point]
  generalize (t.slotsNaming g x).foldl (dropByLoss g) t = dropped at clock directory notify handle' each
  have dropSeat : ∀ j, dropped.seat g j = if (v.point? j).any (·.names g x) = true then lostSeat (v.seat g j) else v.seat g j :=
    fun j => by rw [each j, if_congr (naming j) rfl rfl, seat]
  have dropPoint : ∀ j, dropped.point? j = if (v.point? j).any (·.names g x) = true then
      (v.point? j).map fun pt => { pt with rhythmDue := none } else v.point? j := fun j => by
    have first := congrArg Prod.fst (dropSeat j)
    rw [apply_ite Prod.fst] at first
    exact first
  have sameNodes : dropped.slotsNaming g x = v.slotsNaming g x := slotsNaming_congr (fun j => by
    rw [dropPoint j]
    split
    · cases v.point? j <;> rfl
    · rfl) g x
  rw [sameNodes]
  generalize listEq : ((v.slotsNaming g x).filter fun i => cause != some i) = l
  have mem : ∀ j, j ∈ l ↔ (v.point? j).any (·.names g x) = true ∧ cause ≠ some j := fun j => by
    rw [← listEq, List.mem_filter, mem_slotsNaming_iff, bne_iff_ne]
  obtain ⟨segments, directory', clock', out, within⟩ := answers_keep .noNode l dropped
  have entry : ∀ j, (l.foldl (fun t i => answerFreshBoth .noNode i t) dropped).entryOf? g j = dropped.entryOf? g j := fun j => by
    rw [State.entryOf?, State.entryOf?, State.segment, segments, State.segment]
  refine ⟨directory'.trans (directory.trans (by rw [← markedEq])), clock'.trans (clock.trans mClock), fun j away => ?_,
    fun j near isCause => ?_, fun j near other => ?_, fun p => ?_⟩
  · have notin : j ∉ l := fun m => by rw [((mem j).mp m).1] at away; cases away
    rw [State.seat, out j notin, entry j]
    exact (dropSeat j).trans (if_neg (by rw [away]; exact Bool.false_ne_true))
  · have notin : j ∉ l := fun m => ((mem j).mp m).2 isCause
    rw [State.seat, out j notin, entry j]
    exact (dropSeat j).trans (if_pos near)
  · have seat' := (dropSeat j).trans (if_pos near)
    refine ⟨?_, (entry j).trans (congrArg Prod.snd seat')⟩
    rw [within j ((mem j).mpr ⟨near, other⟩), dropPoint j, if_pos near]
    unfold answeredSeat State.seat
    cases v.point? j <;> rfl
  · have first := (told p).from mClock (mNotify p)
    rw [mNotify] at first
    have second := (told_answers .noNode (s := dropped) (l := l) (listEq ▸ (nodup_slotsNaming v g x).filter _) p)
    have same : l.flatMap (dropped.freshNotes .noNode p) = l.flatMap (v.freshNotes .noNode p) :=
      List.flatMap_congr fun j hj => by
        rw [State.freshNotes, State.freshNotes, dropPoint j, if_pos ((mem j).mp hj).1, handle' j, handle j]
        cases v.point? j <;> rfl
    rw [same] at second
    rw [State.lossNotes, listEq]
    exact first.trans (second.from (clock.trans noted.clock.symm) (congrArg (PerPort.get · p) notify))

end Parts

end Sys2Proof.Machine

/-! The outcome of a transaction of a point counted for its node, as the point's own record sees it; and a completion taken, read part
by part (R29, R34, R94, R137). -/
namespace Sys2Proof.Machine

set_option Elab.async false

/-! ### The node's part, by the entry and the outcome -/

section Cases
variable {g : SegId} {x : Address} {cause : Option SlotNo} {v : State} {o : TxOutcome} {e : NodeEntry}

/-- The outcome says that the node accepted its address (TABLE 5-3). -/
def TxOutcome.accepts (o : TxOutcome) : Prop := (∃ data, o = .done data) ∨ o = .noAccept ∨ o = .checkFail

theorem TxOutcome.accepts.clean (h : o.accepts) : o ≠ .noNode ∧ o.fault? = none := by
  rcases h with ⟨data, rfl⟩ | rfl | rfl <;> exact ⟨nofun, rfl⟩

theorem nodeOutcome_accepted (h : o.accepts) : nodeOutcome g x cause o v = nodeAccepted g x v := by
  rcases h with ⟨data, rfl⟩ | rfl | rfl <;> rfl

theorem nodeOutcome_unknown (h : v.nodeEntry? g x = none) : nodeOutcome g x cause o v = v := by
  cases o <;> simp [nodeOutcome, nodeAccepted, nodeMissed, h]

theorem nodeOutcome_present (h : v.nodeEntry? g x = some e) (acc : o.accepts) (present : e.presence ≠ .lost) :
    nodeOutcome g x cause o v = v.modNode g x fun e => { e with presence := .present, misses := 0 } := by
  rw [nodeOutcome_accepted acc]
  simp [nodeAccepted, h, present]

theorem nodeOutcome_back (h : v.nodeEntry? g x = some e) (acc : o.accepts) (lost : e.presence = .lost) :
    nodeOutcome g x cause o v = returnNode g x e v := by
  rw [nodeOutcome_accepted acc]
  simp [nodeAccepted, h, lost]

theorem nodeOutcome_still_lost (h : v.nodeEntry? g x = some e) (lost : e.presence = .lost) :
    nodeOutcome g x cause .noNode v = v := by simp [nodeOutcome, nodeMissed, h, lost]

theorem nodeOutcome_missed (h : v.nodeEntry? g x = some e) (present : e.presence ≠ .lost) (few : e.misses < 7) :
    nodeOutcome g x cause .noNode v = v.modNode g x fun e => { e with misses := e.misses + 1 } := by
  simp [nodeOutcome, nodeMissed, h, present, Nat.not_le.mpr few]

theorem nodeOutcome_gone (h : v.nodeEntry? g x = some e) (present : e.presence ≠ .lost) (many : 7 ≤ e.misses) :
    nodeOutcome g x cause .noNode v = loseNode g x cause e v := by
  simp [nodeOutcome, nodeMissed, h, present, many]

/-- An outcome is an acceptance, a miss, a segment fault, or none that a transaction to a node ends with. -/
theorem TxOutcome.kinds (o : TxOutcome) :
    o.accepts ∨ o = .noNode ∨ ∀ (g : SegId) (x : Address) (cause : Option SlotNo) (s : State), nodeOutcome g x cause o s = s := by
  cases o with
  | done data => exact .inl (.inl ⟨data, rfl⟩)
  | noAccept => exact .inl (.inr (.inl rfl))
  | checkFail => exact .inl (.inr (.inr rfl))
  | noNode => exact .inr (.inl rfl)
  | _ => exact .inr (.inr fun _ _ _ _ => rfl)

end Cases

/-! ### The node's part, as the transaction's own point sees it -/

/-- The point in slot `i` after the node's part of its transaction's outcome: its record but for its rhythm due, its entry, the
command queues, and what the ports have been told. -/
structure OwnMet (g : SegId) (x : Address) (i : SlotNo) (pt : Point) (stays : Prop) (v n : State) (notes : Port → List Note) : Prop where
  point : ∃ r, n.point? i = some { pt with rhythmDue := r } ∧ (r = pt.rhythmDue ∨ r = none ∧ n.nodeLost pt.segment pt.address = true ∧ ¬ stays)
  clock : n.clock = v.clock
  handle : ∀ j, n.handle j = v.handle j
  queue : ∀ h, (n.segment h).commandQueue = (v.segment h).commandQueue
  entry : stays → ∀ h, n.entryOf? h i = v.entryOf? h i
  out : pt.inFlight ≠ none → v.entryOf? pt.segment i = none → n.entryOf? pt.segment i = none
  told : ∀ p, Told p (notes p) v n
  few : ∀ p, (notes p).length ≤ v.pointsNaming g x + 1
  silent : stays → ∀ p, notes p = []

section Own
variable {g : SegId} {x : Address} {i : SlotNo} {pt : Point} {v : State} {o : TxOutcome}

theorem ownMet_of_same (hp : v.point? i = some pt) {stays : Prop} {n : State} (slots : n.slots = v.slots)
    (segments : n.segments = v.segments) (clock : n.clock = v.clock) (notify : n.notify = v.notify) :
    OwnMet g x i pt stays v n (fun _ => []) := by
  have segment : ∀ h, n.segment h = v.segment h := fun h => by rw [State.segment, segments, State.segment]
  have entry : ∀ h, n.entryOf? h i = v.entryOf? h i := fun h => by rw [State.entryOf?, segment, State.entryOf?]
  refine ⟨⟨pt.rhythmDue, ?_, .inl rfl⟩, clock, fun j => ?_, fun h => by rw [segment], fun _ => entry,
    fun _ none => (entry _).trans none, fun p => .of_eq clock (congrArg (PerPort.get · p) notify), fun _ => Nat.zero_le _,
    fun _ _ => rfl⟩
  · rw [State.point?, slots]; exact hp
  · rw [State.handle, State.handle, State.generation, slots, State.generation]

/-- The node's part that is no mere count, from what it does to every slot. -/
theorem ownMet_of_done (hp : v.point? i = some pt) {n : State} {entry : NodeEntry → NodeEntry}
    {own near : SlotNo → Option Point × Option SchedEntry → Option Point × Option SchedEntry} {notes : Port → List Note}
    {stays : Prop} (done : NodeDone g x (some i) v n entry own near notes) (beside : Beside none (fun j => (v.point? j).any (·.names g x)
      = true) g x v n) (leaves : ¬ stays)
    (back : pt.names g x = true → (own i (v.seat g i)).1 = some pt ∨
      (own i (v.seat g i)).1 = some { pt with rhythmDue := none } ∧ n.nodeLost pt.segment pt.address = true)
    (out : pt.names g x = true → pt.inFlight ≠ none → v.entryOf? g i = none → (own i (v.seat g i)).2 = none)
    (few : ∀ p, (notes p).length ≤ v.pointsNaming g x + 1) : OwnMet g x i pt stays v n notes := by
  have isNamed : (v.point? i).any (·.names g x) = pt.names g x := by rw [hp]; rfl
  refine ⟨?_, done.clock, fun j => ?_, beside.queue rfl, fun yes => absurd yes leaves, fun flying none => ?_, done.told, few,
    fun yes => absurd yes leaves⟩
  · by_cases named : pt.names g x = true
    · have seat := congrArg Prod.fst (done.own i (isNamed.trans named) rfl)
      rcases back named with same | ⟨cut, lost⟩
      · exact ⟨pt.rhythmDue, seat.trans same, .inl rfl⟩
      · exact ⟨none, seat.trans cut, .inr ⟨rfl, lost, leaves⟩⟩
    · exact ⟨pt.rhythmDue, (beside.point i ⟨nofun, fun near => named (isNamed.symm.trans near)⟩).trans hp, .inl rfl⟩
  · rw [State.handle, beside.generation, State.handle]
  · by_cases named : pt.names g x = true
    · have segment : pt.segment = g := by
        simp only [Point.names, Bool.and_eq_true, beq_iff_eq] at named
        exact named.1
      rw [segment] at none ⊢
      exact (congrArg Prod.snd (done.own i (isNamed.trans named) rfl)).trans (out named flying none)
    · exact (beside.entry i ⟨nofun, fun near => named (isNamed.symm.trans near)⟩ _).trans none

theorem nodeLost_modNode {e : NodeEntry} (found : v.nodeEntry? g x = some e) {f : NodeEntry → NodeEntry}
    (key : ∀ e h y, (f e).hasKey h y = e.hasKey h y) : (v.modNode g x f).nodeLost g x = ((f e).presence == .lost) := by
  rw [State.nodeLost, nodeEntry?_modNode v g x f key, if_pos rfl, found]
  rfl

theorem lossNotes_length (v : State) (g : SegId) (x : Address) (cause : Option SlotNo) (e : NodeEntry) (p : Port) :
    (v.lossNotes g x cause e p).length ≤ v.pointsNaming g x + 1 := by
  have event := noteIf_length (v.notifyOf p).nodeEvents (.node (.lost e.points) g x)
  have answers := freshNotes_length (s := v) .noNode p ((v.slotsNaming g x).filter fun i => cause != some i)
  have fewer : ((v.slotsNaming g x).filter fun i => cause != some i).length ≤ (v.slotsNaming g x).length := List.length_filter_le _ _
  rw [slotsNaming_length] at fewer
  rw [State.lossNotes, List.length_append]
  omega

/-- An outcome counted for the node of a point's transaction. -/
theorem nodeOutcome_own (hp : v.point? i = some pt) (g : SegId) (x : Address) (o : TxOutcome) :
    ∃ notes, OwnMet g x i pt (v.nodeStays g x o) v (nodeOutcome g x (some i) o v) notes := by
  have beside : Beside none (fun j => (v.point? j).any (·.names g x) = true) g x v (nodeOutcome g x (some i) o v) :=
    beside_nodeOutcome (some i) o v (.inr fun j q hq named => by
      change (v.point? j).any (·.names g x) = true
      rw [hq]
      exact named)
  have segment : pt.names g x = true → pt.segment = g ∧ pt.address = x := fun named => by
    simpa [Point.names] using named
  have seat : v.seat g i = (some pt, v.entryOf? g i) := by rw [State.seat, hp]
  cases found : v.nodeEntry? g x with
  | none => rw [nodeOutcome_unknown found]; exact ⟨_, ownMet_of_same hp rfl rfl rfl rfl⟩
  | some e =>
    rcases o.kinds with acc | rfl | quiet
    · by_cases lost : e.presence = .lost
      · rw [nodeOutcome_back found acc lost] at beside ⊢
        have leaves : ¬ v.nodeStays g x o := fun stays => (stays e found).2 acc.clean.1 acc.clean.2 lost
        refine ⟨_, ownMet_of_done hp (returnNode_done g x (some i) e v) beside leaves (fun _ => .inl (by rw [seat]; rfl))
          (fun named flying none => ?_) (fun p => Nat.le_trans (noteIf_length _ _) (Nat.le_add_left 1 _))⟩
        have waits : (v.modNode g x NodeEntry.back).wantsEntry pt = false := by
          rw [← Bool.not_eq_true, wantsEntry_iff]
          exact fun ⟨_, _, idle, _⟩ => flying idle
        rw [seat, State.returned]
        simpa [waits] using none
      · rw [nodeOutcome_present found acc lost]
        exact ⟨_, ownMet_of_same hp rfl rfl rfl rfl⟩
    · by_cases lost : e.presence = .lost
      · rw [nodeOutcome_still_lost found lost]
        exact ⟨_, ownMet_of_same hp rfl rfl rfl rfl⟩
      · by_cases few : e.misses < 7
        · rw [nodeOutcome_missed found lost few]
          exact ⟨_, ownMet_of_same hp rfl rfl rfl rfl⟩
        · rw [nodeOutcome_gone found lost (Nat.not_lt.mp few)] at beside ⊢
          have leaves : ¬ v.nodeStays g x .noNode := fun stays => ((stays e found).1 rfl).elim lost few
          have done := loseNode_done g x (some i) e v
          refine ⟨_, ownMet_of_done hp done beside leaves (fun named => .inr ⟨by rw [seat]; rfl, ?_⟩) (fun _ _ _ => rfl)
            (lossNotes_length v g x (some i) e)⟩
          rw [(segment named).1, (segment named).2, nodeLost_of_directory done.directory,
            nodeLost_modNode found (f := NodeEntry.gone v.clock) (fun _ _ _ => rfl)]
          rfl
    · rw [quiet]
      exact ⟨_, ownMet_of_same hp rfl rfl rfl rfl⟩

end Own

end Sys2Proof.Machine

/-! A completion of a point's transaction taken, as its own record, its segment and the ports see it (R29, R34, R94, R137). -/
namespace Sys2Proof.Machine

set_option Elab.async false

/-! ### Completions -/

/-- The command `c` is the completion, with these levels, of the work `w` on segment `g`. -/
def Completes (g : SegId) (levels : List Bool) (c : Instr) (w : Work) : Prop :=
  ∃ f : Work → Bool, f w = true ∧ ∀ s, exec c s = .next (completeWith g f levels s)

theorem exec_completion {g : SegId} {levels : List Bool} {c : Instr} {w : Work} {s : State} {start released : Time} {pos : LinkPos}
    {o : TxOutcome} (completes : Completes g levels c w)
    (flight : (s.segment g).transaction = some ⟨w, .onWires start released pos, false⟩)
    (course : w.afterCycles false pos levels = .ended o) :
    exec c s = .next (takeCompletion g ⟨w, .onWires start released pos, false⟩ o s) := by
  obtain ⟨f, accepts, run⟩ := completes
  have serving : (s.segment g).serving f = true := by simpa [Segment.serving, flight] using accepts
  rw [run, completeWith, if_pos serving, driveOn_ended (f := id) flight course]

section Which
variable {g : SegId} {levels : List Bool} {c : Instr} {i : SlotNo} {x : Address} {item : Byte} {w : Width} {value : Value}

theorem completes_read {kind : ReadKind} (h : (c, kind) ∈ [(Instr.pollCompletion g levels, ReadKind.poll),
    (.refreshPollCompletion g levels, .refreshPoll), (.guardCompletion g levels, .guard)]) :
    Completes g levels c (.read kind i x item w) ∧ kind ≠ .verify := by
  simp only [List.mem_cons, Prod.mk.injEq, List.not_mem_nil, or_false] at h
  rcases h with ⟨rfl, rfl⟩ | ⟨rfl, rfl⟩ | ⟨rfl, rfl⟩
  · exact ⟨⟨Work.isRead .poll, rfl, fun _ => rfl⟩, nofun⟩
  · exact ⟨⟨Work.isRead .refreshPoll, rfl, fun _ => rfl⟩, nofun⟩
  · exact ⟨⟨Work.isRead .guard, rfl, fun _ => rfl⟩, nofun⟩

theorem completes_verify : Completes g levels (.verifyCompletion g levels) (.read .verify i x item w) :=
  ⟨Work.isRead .verify, rfl, fun _ => rfl⟩

theorem completes_write : Completes g levels (.writeCompletion g levels) (.write i x item w value) :=
  ⟨Work.isWrite, rfl, fun _ => rfl⟩

theorem completes_probe : Completes g levels (.probeCompletion g levels) (.probe x) := ⟨Work.isProbe, rfl, fun _ => rfl⟩

theorem completes_scanStep : Completes g levels (.scanStepCompletion g levels) (.scanStep x) :=
  ⟨Work.isScanStep, rfl, fun _ => rfl⟩

end Which

/-! ### What a fault's recovery leaves alone (R137) -/

section Recovery
variable (g : SegId) (o : TxOutcome) (s : State)

theorem faultRecovery_of_clean {o : TxOutcome} (h : o.fault? = none) : faultRecovery g o s = s := by rw [faultRecovery, h]

theorem faultRecovery_of_fault {o : TxOutcome} {cause : RecoveryCause} (h : o.fault? = some cause) :
    faultRecovery g o s = beginRecovery g cause s := by rw [faultRecovery, h]

theorem faultRecovery_keeps : (faultRecovery g o s).slots = s.slots ∧ (faultRecovery g o s).directory = s.directory ∧
    (faultRecovery g o s).clock = s.clock ∧ (faultRecovery g o s).notify = s.notify ∧
    ∀ h, ((faultRecovery g o s).segment h).schedule = (s.segment h).schedule ∧
      ((faultRecovery g o s).segment h).commandQueue = (s.segment h).commandQueue ∧
      ((faultRecovery g o s).segment h).scan = (s.segment h).scan := by
  cases fault : o.fault? with
  | none => rw [faultRecovery_of_clean g s fault]; exact ⟨rfl, rfl, rfl, rfl, fun _ => ⟨rfl, rfl, rfl⟩⟩
  | some cause =>
    rw [faultRecovery_of_fault g s fault]
    refine ⟨rfl, rfl, rfl, rfl, fun h => ?_⟩
    rw [beginRecovery, State.modSegment_read_segment]
    split
    · next same => subst same; exact ⟨rfl, rfl, rfl⟩
    · exact ⟨rfl, rfl, rfl⟩

theorem faultRecovery_point (j : SlotNo) : (faultRecovery g o s).point? j = s.point? j := by
  rw [State.point?, (faultRecovery_keeps g o s).1, State.point?]

theorem faultRecovery_entryOf (h : SegId) (j : SlotNo) : (faultRecovery g o s).entryOf? h j = s.entryOf? h j := by
  obtain ⟨-, -, -, -, segments⟩ := faultRecovery_keeps g o s
  rw [State.entryOf?, (segments h).1, State.entryOf?]

theorem faultRecovery_notifyOf (p : Port) : (faultRecovery g o s).notifyOf p = s.notifyOf p := by
  obtain ⟨-, -, -, notify, -⟩ := faultRecovery_keeps g o s
  rw [State.notifyOf, notify, State.notifyOf]

theorem faultRecovery_nodeEntry (h : SegId) (y : Address) : (faultRecovery g o s).nodeEntry? h y = s.nodeEntry? h y := by
  rw [State.nodeEntry?, (faultRecovery_keeps g o s).2.1, State.nodeEntry?]

/-- A segment fault leaves its segment RECOVERING from it, whatever the transaction served (R137). -/
theorem takeCompletion_fault {t : Transaction} {cause : RecoveryCause} (h : o.fault? = some cause) :
    ((takeCompletion g t o s).segment g).state = .recovering ∧ ((takeCompletion g t o s).segment g).cause = some cause := by
  obtain ⟨-, state, isCause, -⟩ := faulted_takeCompletion g t s h
  exact ⟨state, isCause⟩

theorem takeCompletion_transaction (t : Transaction) : ((takeCompletion g t o s).segment g).transaction = none := by
  cases fault : o.fault? with
  | none => rw [takeCompletion, faultRecovery_of_clean g _ fault]; exact ended_transaction g t o s
  | some cause => exact (faulted_takeCompletion g t s fault).1

end Recovery

/-! ### The record of the point that the transaction served -/

/-- Once the transaction of the point in slot `i` has ended: the record is `q` but for its marks; segment `seg` has the collections of
`x`; each port has been told `notes`. -/
structure EndsAs (i : SlotNo) (seg : SegId) (s n u : State) (q : Point) (x : Segment) (notes : Port → List Note) : Prop where
  point : ∃ m, u.point? i = some { q with marks := m }
  queue : ∀ h, (u.segment h).commandQueue = if h = seg then x.commandQueue else (s.segment h).commandQueue
  entry : ∀ h, u.entryOf? h i = if h = seg then x.schedule.find? (·.slot == i) else n.entryOf? h i
  nodeLost : ∀ k y, u.nodeLost k y = n.nodeLost k y
  told : ∀ p, Told p (notes p) s u

section Ends
variable {g seg : SegId} {i : SlotNo} {x : Address} {pt : Point} {s : State} {o : TxOutcome} {w : Work} {phase : TxPhase}

theorem endTransaction_segment (g h : SegId) (s : State) : ((endTransaction g s).segment h).schedule = (s.segment h).schedule ∧
    ((endTransaction g s).segment h).commandQueue = (s.segment h).commandQueue ∧
    ((endTransaction g s).segment h).scan = (s.segment h).scan := by
  rw [endTransaction, State.modSegment_read_segment]
  split
  · next same => subst same; exact ⟨rfl, rfl, rfl⟩
  · exact ⟨rfl, rfl, rfl⟩

theorem endTransaction_entryOf (g h : SegId) (s : State) (j : SlotNo) : (endTransaction g s).entryOf? h j = s.entryOf? h j := by
  rw [State.entryOf?, (endTransaction_segment g h s).1, State.entryOf?]

/-- The node's part of the end of a point's transaction. -/
theorem nodePart (hp : s.point? i = some pt) (g : SegId) (x : Address) (o : TxOutcome) :
    ∃ notes, OwnMet g x i pt (s.nodeStays g x o) s (nodeOutcome g x (some i) o (endTransaction g s)) notes := by
  obtain ⟨notes, point, clock, handle, queue, entry, out, told, few, silent⟩ :=
    nodeOutcome_own (v := endTransaction g s) hp g x o
  exact ⟨notes, point, clock, handle, fun h => (queue h).trans (endTransaction_segment g h s).2.1,
    fun stays h => (entry stays h).trans (endTransaction_entryOf g h s i),
    fun flying none => out flying ((endTransaction_entryOf g _ s i).trans none), fun p => (told p).from rfl rfl, few, silent⟩

/-- The node's part, then the point's part, then a fault's recovery. -/
theorem endsAs_of_becomes {n f : State} {stays : Prop} {ofNode notes : Port → List Note} {q : Point} {y : Segment}
    (node : OwnMet g x i pt stays s n ofNode) (own : Becomes i seg n q y notes f) (g : SegId) (o : TxOutcome) :
    EndsAs i seg s n (faultRecovery g o f) q y (fun p => ofNode p ++ notes p) := by
  obtain ⟨slots, directory, clock, notify, segments⟩ := faultRecovery_keeps g o f
  refine ⟨?_, fun h => ?_, fun h => ?_, fun k z => ?_, fun p => ?_⟩
  · obtain ⟨m, hm⟩ := own.point
    exact ⟨m, (faultRecovery_point g o f i).trans hm⟩
  · rw [(segments h).2.1]
    split
    · next same => rw [same, own.segment]
    · next other => rw [own.segment_of_ne other, node.queue]
  · rw [faultRecovery_entryOf]
    split
    · next same => rw [same, State.entryOf?, own.segment]
    · next other => rw [State.entryOf?, own.segment_of_ne other, State.entryOf?]
  · rw [nodeLost_of_directory directory, nodeLost_of_directory own.directory]
  · exact ((node.told p).trans (own.told p)).quiet clock (congrArg (PerPort.get · p) notify)

/-- What stays of every other slot (R34). -/
theorem standingsKept_of_frame {u : State} (flight : w.flight.map (·.1) = some i) (frame : transactionFrame g x w o s u) :
    standingsKept i s u := by
  obtain ⟨-, -, -, -, -, generation, other, -⟩ := frame
  refine fun j hj => ⟨generation j, (other j ?_).1⟩
  rw [flight]
  exact fun e => hj (Option.some.inj e)

end Ends

end Sys2Proof.Machine

/-! A POLL, REFRESH-POLL or GUARD that has ended: its point's record (R40 to R45, R53, R56 to R62, R87, R88), its notifications in
their order (R46), and where the point re-enters its schedule (R33, R36 to R39, R42, R89). -/
namespace Sys2Proof.Machine

set_option Elab.async false

/-! ### Re-entry of the record (R38, R39) -/

/-- The record after its re-entry behind a read (R38, R39). -/
def Point.reentered (pt : Point) (s : State) (kind : FlightKind) (start : Option Due) : Point :=
  if s.wantsEntry pt then
    pt.period.elim pt fun period => { pt with late := (pt.rhythm kind start period s.clock).2, rhythmDue := none }
  else pt

/-- The segment after the point's re-entry behind a read (R38, R39). -/
def Segment.reentered (x : Segment) (s : State) (i : SlotNo) (pt : Point) (kind : FlightKind) (start : Option Due) : Segment :=
  if s.wantsEntry pt then pt.period.elim x fun period => x.entered i (pt.rhythm kind start period s.clock).1 s.clock else x

section Becomes
variable {i : SlotNo} {g : SegId} {s t : State} {pt : Point} {x : Segment} {notes : Port → List Note}

theorem Becomes.reentered (h : Becomes i g s pt x notes t) (hg : pt.segment = g) (kind : FlightKind) (start : Option Due) :
    Becomes i g s (pt.reentered s kind start) (x.reentered s i pt kind start) notes (Machine.reenterRead kind start i t) := by
  unfold Point.reentered Segment.reentered
  cases wants : s.wantsEntry pt with
  | false => exact h.reenterRead_idle kind start wants
  | true =>
    obtain ⟨-, scheduled, -⟩ := (wantsEntry_iff s pt).mp wants
    obtain ⟨n, period⟩ := Option.ne_none_iff_exists'.mp scheduled
    have at_period : ∀ {β : Type} (a : β) (f : Interval → β), f n = pt.period.elim a f := fun a f => by rw [period]; rfl
    exact (h.reenterRead hg period kind start wants).cast
      (at_period pt fun period => { pt with late := (pt.rhythm kind start period s.clock).2, rhythmDue := none })
      (at_period x fun period => x.entered i (pt.rhythm kind start period s.clock).1 s.clock) rfl

end Becomes

theorem Segment.entered_commandQueue (x : Segment) (i : SlotNo) (d : Due) (now : Time) :
    (x.entered i d now).commandQueue = x.commandQueue := by
  unfold Segment.entered
  split <;> rfl

theorem Segment.reentered_commandQueue (x : Segment) (s : State) (i : SlotNo) (pt : Point) (kind : FlightKind) (start : Option Due) :
    (x.reentered s i pt kind start).commandQueue = x.commandQueue := by
  unfold Segment.reentered
  cases pt.period with
  | none => split <;> rfl
  | some n =>
    split
    · exact Segment.entered_commandQueue x i _ _
    · rfl

/-- A point that is HELD or not of scheduled kind does not re-enter (R33). -/
theorem wantsEntry_false {s : State} {pt : Point} (h : pt.state = .held ∨ pt.period = none) : s.wantsEntry pt = false := by
  rw [← Bool.not_eq_true, wantsEntry_iff]
  rintro ⟨active, scheduled, -⟩
  rcases h with held | none
  · rw [held] at active; cases active
  · exact scheduled none

/-! ### The three ways that a read taken from the schedule ends -/

section Finish
variable {i : SlotNo} {n : State} {pt : Point} {kind : ReadKind}

/-- The record as the transaction's end finds it, with nothing in flight. -/
theorem Becomes.landed (hp : n.point? i = some pt) : Becomes i pt.segment n { pt with inFlight := none } (n.segment pt.segment)
    (fun _ => []) (n.setPoint i { pt with inFlight := none }) :=
  (Becomes.start hp pt.segment).setPoint (f := fun q => { q with inFlight := none }) (fun _ _ => rfl) hp

theorem finishPoll_good (hp : n.point? i = some pt) (going : ∀ q, pt.state ≠ .retiring q) (data : List Byte) {v : Value}
    (hv : v = extendValue pt.width pt.signed (assembleBytes data)) :
    Becomes i pt.segment n
      ((({ pt with inFlight := none } : Point).polled kind v n.clock).reentered n kind.flight (pt.inFlight.bind (·.startDue)))
      (((n.segment pt.segment).polled i { pt with inFlight := none } kind v).reentered n i
        (({ pt with inFlight := none } : Point).polled kind v n.clock) kind.flight (pt.inFlight.bind (·.startDue)))
      (({ pt with inFlight := none } : Point).polledNotes kind v (n.handle i)) (finishPoll kind i (.done data) n) := by
  have segment : (({ pt with inFlight := none } : Point).polled kind v n.clock).segment = pt.segment := by
    unfold Point.polled Point.answered Point.compared
    split
    · cases (({ pt with inFlight := none } : Point).read v n.clock).restored v <;> rfl
    · rfl
  have polled := (Becomes.landed hp).pollGood rfl kind v
  have run := polled.reentered segment kind.flight (pt.inFlight.bind (·.startDue))
  rw [finishPoll, finishPoint_eq hp going, hv] at *
  exact run.cast rfl rfl (funext fun p => List.nil_append _)

theorem finishPoll_failed (hp : n.point? i = some pt) (going : ∀ q, pt.state ≠ .retiring q) {o : TxOutcome} {answer : FreshOutcome}
    (h : (o, answer) ∈ [(TxOutcome.noNode, FreshOutcome.noNode), (.noAccept, .noAccept), (.checkFail, .checkFail)]) :
    Becomes i pt.segment n
      ((({ pt with inFlight := none } : Point).failRead.answered kind).reentered n kind.flight (pt.inFlight.bind (·.startDue)))
      ((n.segment pt.segment).reentered n i (({ pt with inFlight := none } : Point).failRead.answered kind) kind.flight
        (pt.inFlight.bind (·.startDue)))
      (({ pt with inFlight := none } : Point).failedNotes kind answer (n.handle i)) (finishPoll kind i o n) := by
  have run := ((Becomes.landed hp).pollFailed kind answer).reentered rfl kind.flight (pt.inFlight.bind (·.startDue))
  have same : finishPoll kind i o n = Machine.reenterRead kind.flight (pt.inFlight.bind (·.startDue)) i
      (pollFailed kind answer i (n.setPoint i { pt with inFlight := none })) := by
    rw [finishPoll, finishPoint_eq hp going]
    simp only [List.mem_cons, Prod.mk.injEq, List.not_mem_nil, or_false] at h
    rcases h with ⟨rfl, rfl⟩ | ⟨rfl, rfl⟩ | ⟨rfl, rfl⟩ <;> rfl
  rw [same]
  exact run.cast rfl rfl (funext fun p => List.nil_append _)

theorem finishPoll_fault (hp : n.point? i = some pt) (going : ∀ q, pt.state ≠ .retiring q) {o : TxOutcome} (fault : o.fault? ≠ none) :
    Becomes i pt.segment n { pt with inFlight := none }
      (if n.wantsEntry { pt with inFlight := none } then (n.segment pt.segment).entered i n.dueNow n.clock else n.segment pt.segment)
      (fun _ => []) (finishPoll kind i o n) := by
  have run := (Becomes.landed hp).reenter rfl n.dueNow
  have same : finishPoll kind i o n = Machine.reenter i n.dueNow (n.setPoint i { pt with inFlight := none }) := by
    rw [finishPoll, finishPoint_eq hp going]
    cases o with
    | contest | timeout | stuck => rfl
    | _ => exact absurd rfl fault
  rw [same]
  exact run

theorem applyOutcome_read (g : SegId) (x : Address) (item : Byte) (w : Width) (o : TxOutcome) (plain : kind ≠ .verify) (s : State) :
    applyOutcome g (.read kind i x item w) o s = finishPoll kind i o (nodeOutcome g x (some i) o s) := by
  cases kind with
  | verify => exact absurd rfl plain
  | _ => rfl

end Finish

/-! ### The record after a good read -/

section Polled
variable (pt : Point) (kind : ReadKind) (v : Value) (now : Time)

/-- A good read keeps what fixes its point, its late flag and its rhythm due. -/
theorem Point.polled_keeps : (pt.polled kind v now).inFlight = pt.inFlight ∧ (pt.polled kind v now).state = pt.state ∧
    (pt.polled kind v now).identity = pt.identity ∧ (pt.polled kind v now).owner = pt.owner ∧
    (pt.polled kind v now).subscriptions = pt.subscriptions ∧ (pt.polled kind v now).limits = pt.limits ∧
    (pt.polled kind v now).deadband = pt.deadband ∧ (pt.polled kind v now).late = pt.late ∧
    (pt.polled kind v now).rhythmDue = pt.rhythmDue ∧ (pt.polled kind v now).period = pt.period ∧
    (pt.polled kind v now).value = some ⟨v, now, false⟩ ∧ (pt.polled kind v now).failures = 0 ∧
    (pt.polled kind v now).quality = .good ∧ (pt.polled kind v now).staleDue = (pt.storeGood v now).staleDue ∧
    (pt.polled kind v now).alarm = pt.alarmAfter v ∧
    (pt.polled kind v now).reported = (if pt.passes v then some v else pt.reported) := by
  have compared : ∀ q : Point, (pt.read v now).compared v = q → (q.identity = pt.identity ∧
      q = { pt.read v now with command := q.command }) := by
    rintro q rfl
    unfold Point.compared
    cases (pt.read v now).restored v with
    | none => exact ⟨rfl, rfl⟩
    | some cv =>
      refine ⟨?_, rfl⟩
      have restore : (pt.command.map fun c => { c with stand := pt.waiting ⟨cv, pt.owner.getD .host⟩ none, attempts := 0 }).map
          (·.restore) = pt.command.map (·.restore) := by cases pt.command <;> rfl
      have output : (pt.command.map fun c => { c with stand := pt.waiting ⟨cv, pt.owner.getD .host⟩ none, attempts := 0 }).isSome =
          pt.command.isSome := by cases pt.command <;> rfl
      exact congrArg₂ (fun r b => { pt.identity with restore := r, isOutput := b }) restore output
  unfold Point.polled
  split
  · obtain ⟨identity, form⟩ := compared _ rfl
    generalize (pt.read v now).compared v = q at identity form
    rw [form] at identity ⊢
    exact ⟨rfl, rfl, identity, rfl, rfl, rfl, rfl, rfl, rfl, rfl, rfl, rfl, rfl, rfl, rfl, rfl⟩
  · exact ⟨rfl, rfl, rfl, rfl, rfl, rfl, rfl, rfl, rfl, rfl, rfl, rfl, rfl, rfl, rfl, rfl⟩

end Polled

end Sys2Proof.Machine

/-! The value that a read's bytes make (R4, R40, R55), and the outcome of a read in its point's record (R40 to R45, R53, R87, R88). -/
namespace Sys2Proof.Machine
set_option Elab.async false

section Bytes
variable (b3 b2 b1 b0 : Byte)

theorem assembleBytes_one : assembleBytes [b0] = b0.zeroExtend 32 := by simp [assembleBytes]

theorem getLsbD_assembleBytes_two (k : Nat) : (assembleBytes [b1, b0]).getLsbD k =
    if k < 8 then b0.getLsbD k else b1.getLsbD (k - 8) := by
  have high0 : 8 ≤ k → b0.getLsbD k = false := b0.getLsbD_of_ge k
  have high1 : 8 ≤ k - 8 → b1.getLsbD (k - 8) = false := b1.getLsbD_of_ge (k - 8)
  simp only [assembleBytes, List.foldl_cons, List.foldl_nil]
  simp
  grind

theorem extendValue_one_unsigned : extendValue .one false (assembleBytes [b0]) = 0#24 ++ b0 := by
  refine BitVec.eq_of_getLsbD_eq fun k hk => Eq.trans ?_ (BitVec.getLsbD_append (x := 0#24) (y := b0)).symm
  have high : 8 ≤ k → b0.getLsbD k = false := b0.getLsbD_of_ge k
  rw [assembleBytes_one]
  simp [extendValue]
  grind

theorem getLsbD_signs (n : Nat) (b : Bool) (k : Nat) : (if b then BitVec.allOnes n else 0#n).getLsbD k = (b && decide (k < n)) := by
  cases b <;> simp

theorem extendValue_one_signed : extendValue .one true (assembleBytes [b0]) =
    (if b0.getLsbD 7 then 0xFFFFFF#24 else 0#24) ++ b0 := by
  have ones : (0xFFFFFF#24 : BitVec 24) = BitVec.allOnes 24 := by decide
  rw [ones]
  refine BitVec.eq_of_getLsbD_eq fun k hk =>
    Eq.trans ?_ (BitVec.getLsbD_append (x := if b0.getLsbD 7 then BitVec.allOnes 24 else 0#24) (y := b0)).symm
  rw [assembleBytes_one, getLsbD_signs]
  change (BitVec.signExtend 32 ((b0.zeroExtend 32).truncate 8)).getLsbD k = _
  rw [BitVec.getLsbD_signExtend, BitVec.msb_eq_getLsbD_last]
  simp
  grind

theorem extendValue_two_unsigned : extendValue .two false (assembleBytes [b1, b0]) = 0#16 ++ b1 ++ b0 := by
  refine BitVec.eq_of_getLsbD_eq fun k hk => Eq.trans ?_ (BitVec.getLsbD_append (x := 0#16 ++ b1) (y := b0)).symm
  have high : 8 ≤ k - 8 → b1.getLsbD (k - 8) = false := b1.getLsbD_of_ge (k - 8)
  rw [BitVec.getLsbD_append]
  change (BitVec.zeroExtend 32 ((assembleBytes [b1, b0]).truncate 16)).getLsbD k = _
  rw [BitVec.getLsbD_setWidth, BitVec.getLsbD_setWidth, getLsbD_assembleBytes_two]
  simp
  grind

theorem extendValue_two_signed : extendValue .two true (assembleBytes [b1, b0]) =
    (if b1.getLsbD 7 then 0xFFFF#16 else 0#16) ++ b1 ++ b0 := by
  have ones : (0xFFFF#16 : BitVec 16) = BitVec.allOnes 16 := by decide
  rw [ones]
  refine BitVec.eq_of_getLsbD_eq fun k hk =>
    Eq.trans ?_ (BitVec.getLsbD_append (x := (if b1.getLsbD 7 then BitVec.allOnes 16 else 0#16) ++ b1) (y := b0)).symm
  rw [BitVec.getLsbD_append, getLsbD_signs]
  change (BitVec.signExtend 32 ((assembleBytes [b1, b0]).truncate 16)).getLsbD k = _
  rw [BitVec.getLsbD_signExtend, BitVec.msb_eq_getLsbD_last, BitVec.getLsbD_setWidth, BitVec.getLsbD_setWidth,
    getLsbD_assembleBytes_two, getLsbD_assembleBytes_two]
  simp
  grind

theorem extendValue_four (signed : Bool) : extendValue .four signed (assembleBytes [b3, b2, b1, b0]) = b3 ++ b2 ++ b1 ++ b0 := by
  refine BitVec.eq_of_getLsbD_eq fun k hk => Eq.trans ?_ (BitVec.getLsbD_append (x := b3 ++ b2 ++ b1) (y := b0)).symm
  have high0 : 8 ≤ k → b0.getLsbD k = false := b0.getLsbD_of_ge k
  have high1 : 8 ≤ k - 8 → b1.getLsbD (k - 8) = false := b1.getLsbD_of_ge (k - 8)
  have high2 : 8 ≤ k - 8 - 8 → b2.getLsbD (k - 8 - 8) = false := b2.getLsbD_of_ge (k - 8 - 8)
  rw [BitVec.getLsbD_append, BitVec.getLsbD_append]
  simp only [extendValue, assembleBytes, List.foldl_cons, List.foldl_nil]
  simp
  grind

end Bytes

/-- The number that a signed comparison reads (R55). -/
theorem asInt_true (v : Value) :
    asInt true v = if v.toNat < 2 ^ 31 then (v.toNat : Int) else (v.toNat : Int) - 2 ^ 32 := by
  rw [asInt, if_pos rfl, BitVec.toInt_eq_toNat_cond]
  split <;> split <;> omega

/-! ### The record behind a read -/

/-- The record `q` of a read's point keeps what the read does not reach; on a HELD point, or one that is not of scheduled kind, its
late flag and its rhythm due among it. -/
structure ReadKeeps (pt q : Point) : Prop where
  inFlight : q.inFlight = none
  state : q.state = pt.state
  identity : q.identity = pt.identity
  owner : q.owner = pt.owner
  subscriptions : q.subscriptions = pt.subscriptions
  limits : q.limits = pt.limits
  deadband : q.deadband = pt.deadband
  late : pt.state = .held ∨ pt.period = none → q.late = pt.late ∧ q.rhythmDue = pt.rhythmDue

theorem Point.reentered_form (pt : Point) (s : State) (kind : FlightKind) (start : Option Due) :
    pt.reentered s kind start =
      { pt with late := (pt.reentered s kind start).late, rhythmDue := (pt.reentered s kind start).rhythmDue } := by
  have form : ∀ (o : Option Interval) (f : Interval → Point),
      (∀ n, f n = { pt with late := (f n).late, rhythmDue := (f n).rhythmDue }) →
      o.elim pt f = { pt with late := (o.elim pt f).late, rhythmDue := (o.elim pt f).rhythmDue } := fun o f hf => by
    cases o with
    | none => rfl
    | some n => exact hf n
  unfold Point.reentered
  split
  · exact form pt.period _ fun _ => rfl
  · rfl

theorem Point.reentered_of_idle {pt : Point} {s : State} (h : pt.state = .held ∨ pt.period = none) (kind : FlightKind)
    (start : Option Due) : pt.reentered s kind start = pt := by
  rw [Point.reentered, wantsEntry_false h, if_neg Bool.false_ne_true]

theorem Segment.reentered_of_idle {x : Segment} {pt : Point} {s : State} (h : pt.state = .held ∨ pt.period = none) (i : SlotNo)
    (kind : FlightKind) (start : Option Due) : x.reentered s i pt kind start = x := by
  rw [Segment.reentered, wantsEntry_false h, if_neg Bool.false_ne_true]

/-- What a read keeps, its re-entry keeps. -/
theorem ReadKeeps.reentered {pt q : Point} (h : ReadKeeps pt q) (s : State) (kind : FlightKind) (start : Option Due) :
    ReadKeeps pt (q.reentered s kind start) := by
  obtain ⟨inFlight, state, identity, owner, subscriptions, limits, deadband, late⟩ := h
  have period : q.period = pt.period := congrArg Identity.period identity
  have idle : pt.state = .held ∨ pt.period = none → q.reentered s kind start = q := fun h =>
    Point.reentered_of_idle (h.imp (state.trans ·) (period.trans ·)) kind start
  have form := q.reentered_form s kind start
  generalize q.reentered s kind start = r at form idle
  refine ⟨?_, ?_, ?_, ?_, ?_, ?_, ?_, fun h => by rw [idle h]; exact late h⟩
  all_goals rw [form]
  exacts [inFlight, state, identity, owner, subscriptions, limits, deadband]

theorem readKeeps_landed (pt : Point) : ReadKeeps pt { pt with inFlight := none } :=
  ⟨rfl, rfl, rfl, rfl, rfl, rfl, rfl, fun _ => ⟨rfl, rfl⟩⟩

theorem readKeeps_polled (pt : Point) (kind : ReadKind) (v : Value) (now : Time) :
    ReadKeeps pt (({ pt with inFlight := none } : Point).polled kind v now) := by
  obtain ⟨inFlight, state, identity, owner, subscriptions, limits, deadband, late, rhythm, -⟩ :=
    ({ pt with inFlight := none } : Point).polled_keeps kind v now
  exact ⟨inFlight, state, identity, owner, subscriptions, limits, deadband, fun _ => ⟨late, rhythm⟩⟩

theorem readKeeps_failed (pt : Point) (kind : ReadKind) :
    ReadKeeps pt (({ pt with inFlight := none } : Point).failRead.answered kind) :=
  ⟨rfl, rfl, rfl, rfl, rfl, rfl, rfl, fun _ => ⟨rfl, rfl⟩⟩

/-! ### The guard comparison's restore command (R88) -/

section Restore
variable {pt : Point} {kind : ReadKind} {v : Value} {now : Time}

theorem restored_of_confirmed {cmd : Command} {d : Issued} {cv : Value} (command : pt.command = some cmd)
    (confirmed : cmd.stand = .confirmed d) (value : cmd.confirmedValue = some cv) (differs : v ≠ cv) (restore : cmd.restore = true) :
    pt.restored v = some cv := by
  simp [Point.restored, Point.drift, command, confirmed, Stand.isConfirmed, value, differs, restore, Option.filter]

theorem restored_none (h : ∀ cmd, pt.command = some cmd → (∀ d, cmd.stand ≠ .confirmed d) ∨ cmd.confirmedValue = none ∨
    cmd.confirmedValue = some v ∨ cmd.restore = false) : pt.restored v = none := by
  unfold Point.restored Point.drift
  cases command : pt.command with
  | none => rfl
  | some cmd =>
    rcases h cmd command with other | none | same | no
    · have unconfirmed : cmd.stand.isConfirmed = false := by
        cases stand : cmd.stand with
        | confirmed d => exact absurd stand (other d)
        | _ => rfl
      simp [unconfirmed]
    · simp [none]
    · simp [same, Option.filter]
    · simp [no]

theorem polled_command_restored {cv : Value} (guard : kind = .guard) (restored : pt.restored v = some cv) :
    (pt.polled kind v now).command = (pt.restoreTo cv).command := by
  have same : (pt.read v now).restored v = some cv := restored
  rw [Point.polled, if_pos guard, Point.compared, same]
  rfl

theorem polled_command_kept (h : kind ≠ .guard ∨ pt.restored v = none) : (pt.polled kind v now).command = pt.command := by
  rw [Point.polled]
  split
  · next guard =>
    have same : (pt.read v now).restored v = none := h.resolve_left (absurd guard)
    rw [Point.compared, same]
    rfl
  · rfl

theorem polled_queue_restored {x : Segment} {i : SlotNo} {cv : Value} (guard : kind = .guard) (restored : pt.restored v = some cv) :
    (x.polled i pt kind v).commandQueue = if pt.state = .active then x.commandQueue ++ [i] else x.commandQueue := by
  rw [Segment.polled, if_pos guard, Segment.compared, restored]
  by_cases active : pt.state = .active <;> simp [active]

theorem polled_queue_kept {x : Segment} {i : SlotNo} (h : kind ≠ .guard ∨ pt.restored v = none) :
    x.polled i pt kind v = x := by
  rw [Segment.polled]
  split
  · next guard =>
    rw [Segment.compared, h.resolve_left (absurd guard)]
    simp
  · rfl

theorem polled_schedule (x : Segment) (i : SlotNo) (pt : Point) (kind : ReadKind) (v : Value) :
    (x.polled i pt kind v).schedule = x.schedule := by
  unfold Segment.polled Segment.compared
  split
  · split <;> rfl
  · rfl

theorem polled_fresh (pt : Point) (kind : ReadKind) (v : Value) (now : Time) (plain : kind ≠ .verify) :
    (pt.polled kind v now).fresh = if kind = .guard then pt.fresh else ⟨false, false⟩ := by
  obtain ⟨fresh, -⟩ := pt.polled_fresh kind v now
  unfold Point.polled Point.answered
  dsimp only
  rw [fresh]
  cases kind with
  | verify => exact absurd rfl plain
  | _ => rfl

end Restore

end Sys2Proof.Machine

/-! The outcome of a read in its point's record, as a whole (R40 to R45, R53, R56, R61, R87, R88). -/
namespace Sys2Proof.Machine

set_option Elab.async false

/-- The outcomes of a failed read with what they answer to a fresh wanted flag (R41, R53). -/
def readFailures : List (TxOutcome × FreshOutcome) := [(.noNode, .noNode), (.noAccept, .noAccept), (.checkFail, .checkFail)]

/-- A POLL, REFRESH-POLL or GUARD that has ended for the point `pt` in slot `i`, from the state `n` that the node's part has left: the
record has become `q`, its segment `x`, and each port has been told `notes`. -/
structure ReadEnd (kind : ReadKind) (i : SlotNo) (n : State) (pt : Point) (o : TxOutcome) (q : Point) (x : Segment)
    (notes : Port → List Note) : Prop where
  own : Becomes i pt.segment n q x notes (finishPoll kind i o n)
  keeps : ReadKeeps pt q
  idle : pt.state = .held ∨ pt.period = none → x.schedule = (n.segment pt.segment).schedule
  clean : o.fault? = none → ∃ (r : Point) (y : Segment), ReadKeeps pt r ∧ r.late = pt.late ∧ r.rhythmDue = pt.rhythmDue ∧
    y.schedule = (n.segment pt.segment).schedule ∧ q = r.reentered n kind.flight (pt.inFlight.bind (·.startDue)) ∧
    x = y.reentered n i r kind.flight (pt.inFlight.bind (·.startDue))
  good : ∀ data v, o = .done data → v = extendValue pt.width pt.signed (assembleBytes data) →
    q = (({ pt with inFlight := none } : Point).polled kind v n.clock).reentered n kind.flight (pt.inFlight.bind (·.startDue)) ∧
    x = ((n.segment pt.segment).polled i { pt with inFlight := none } kind v).reentered n i
      (({ pt with inFlight := none } : Point).polled kind v n.clock) kind.flight (pt.inFlight.bind (·.startDue)) ∧
    notes = ({ pt with inFlight := none } : Point).polledNotes kind v (n.handle i)
  failed : ∀ answer, (o, answer) ∈ readFailures →
    q = (({ pt with inFlight := none } : Point).failRead.answered kind).reentered n kind.flight (pt.inFlight.bind (·.startDue)) ∧
    x = (n.segment pt.segment).reentered n i (({ pt with inFlight := none } : Point).failRead.answered kind) kind.flight
      (pt.inFlight.bind (·.startDue)) ∧
    notes = ({ pt with inFlight := none } : Point).failedNotes kind answer (n.handle i)
  fault : o.fault? ≠ none → q = { pt with inFlight := none } ∧
    x = (if n.wantsEntry { pt with inFlight := none } then (n.segment pt.segment).entered i n.dueNow n.clock else n.segment pt.segment) ∧
    notes = fun _ => []

theorem polled_rhythm (pt : Point) (kind : ReadKind) (v : Value) (now : Time) :
    (pt.polled kind v now).late = pt.late ∧ (pt.polled kind v now).rhythmDue = pt.rhythmDue := by
  obtain ⟨-, -, -, -, -, -, -, late, rhythm, -⟩ := pt.polled_keeps kind v now
  exact ⟨late, rhythm⟩

section Ends
variable {i : SlotNo} {n : State} {pt : Point} {kind : ReadKind}

theorem readEnd_good (hp : n.point? i = some pt) (going : ∀ q, pt.state ≠ .retiring q) (data : List Byte) :
    ∃ q x notes, ReadEnd kind i n pt (.done data) q x notes := by
  refine ⟨_, _, _, finishPoll_good hp going data rfl, (readKeeps_polled pt kind _ n.clock).reentered _ _ _, fun idle => ?_,
    fun _ => ⟨_, _, readKeeps_polled pt kind _ n.clock, (polled_rhythm _ kind _ n.clock).1, (polled_rhythm _ kind _ n.clock).2,
      polled_schedule _ _ _ _ _, rfl, rfl⟩,
    fun data' v same hv => ?_, fun answer no => ?_, fun fault => absurd rfl fault⟩
  · obtain ⟨-, state, identity, -⟩ := readKeeps_polled pt kind (extendValue pt.width pt.signed (assembleBytes data)) n.clock
    rw [Segment.reentered_of_idle (idle.imp (state.trans ·) ((congrArg Identity.period identity).trans ·)), polled_schedule]
  · cases same
    rw [hv]
    exact ⟨rfl, rfl, rfl⟩
  · simp [readFailures] at no

theorem readEnd_failed (hp : n.point? i = some pt) (going : ∀ q, pt.state ≠ .retiring q) {o : TxOutcome} {answer : FreshOutcome}
    (h : (o, answer) ∈ readFailures) : ∃ q x notes, ReadEnd kind i n pt o q x notes := by
  have cases_ : o = .noNode ∧ answer = .noNode ∨ o = .noAccept ∧ answer = .noAccept ∨ o = .checkFail ∧ answer = .checkFail := by
    simpa [readFailures] using h
  refine ⟨_, _, _, finishPoll_failed hp going h, (readKeeps_failed pt kind).reentered _ _ _, fun idle => ?_,
    fun _ => ⟨_, _, readKeeps_failed pt kind, rfl, rfl, rfl, rfl, rfl⟩, fun data v same => ?_,
    fun answer' h' => ?_, fun fault => ?_⟩
  · rw [Segment.reentered_of_idle (pt := ({ pt with inFlight := none } : Point).failRead.answered kind) idle]
  · rcases cases_ with ⟨rfl, -⟩ | ⟨rfl, -⟩ | ⟨rfl, -⟩ <;> cases same
  · have same : answer' = answer := by
      rcases cases_ with ⟨rfl, rfl⟩ | ⟨rfl, rfl⟩ | ⟨rfl, rfl⟩ <;> simpa [readFailures] using h'
    rw [same]
    exact ⟨rfl, rfl, rfl⟩
  · rcases cases_ with ⟨rfl, -⟩ | ⟨rfl, -⟩ | ⟨rfl, -⟩ <;> exact absurd rfl fault

theorem readEnd_fault (hp : n.point? i = some pt) (going : ∀ q, pt.state ≠ .retiring q) {o : TxOutcome} (fault : o.fault? ≠ none) :
    ∃ q x notes, ReadEnd kind i n pt o q x notes := by
  refine ⟨_, _, _, finishPoll_fault hp going fault, readKeeps_landed pt, fun idle => ?_, fun clean => absurd clean fault, fun data v same => ?_, fun answer h => ?_,
    fun _ => ⟨rfl, rfl, rfl⟩⟩
  · rw [wantsEntry_false (pt := { pt with inFlight := none }) idle, if_neg Bool.false_ne_true]
  · subst same
    exact absurd rfl fault
  · have cases_ : o = .noNode ∧ answer = .noNode ∨ o = .noAccept ∧ answer = .noAccept ∨ o = .checkFail ∧ answer = .checkFail := by
      simpa [readFailures] using h
    rcases cases_ with ⟨rfl, -⟩ | ⟨rfl, -⟩ | ⟨rfl, -⟩ <;> exact absurd rfl fault

/-- An outcome of another kind of transaction reaches a read's point by its re-entry alone. -/
theorem readEnd_other (hp : n.point? i = some pt) (going : ∀ q, pt.state ≠ .retiring q) {o : TxOutcome}
    (h : o = .empty ∨ ∃ y, o = .winner y) : ∃ q x notes, ReadEnd kind i n pt o q x notes := by
  have same : finishPoll kind i o n =
      Machine.reenterRead kind.flight (pt.inFlight.bind (·.startDue)) i (n.setPoint i { pt with inFlight := none }) := by
    rw [finishPoll, finishPoint_eq hp going]
    rcases h with rfl | ⟨y, rfl⟩ <;> rfl
  have run := (Becomes.landed hp).reentered rfl kind.flight (pt.inFlight.bind (·.startDue))
  rw [← same] at run
  refine ⟨_, _, _, run, (readKeeps_landed pt).reentered _ _ _, fun idle => ?_,
    fun _ => ⟨_, _, readKeeps_landed pt, rfl, rfl, rfl, rfl, rfl⟩, fun data v done => ?_, fun answer fails => ?_,
    fun fault => ?_⟩
  · rw [Segment.reentered_of_idle (pt := { pt with inFlight := none }) idle]
  · rcases h with rfl | ⟨y, rfl⟩ <;> cases done
  · rcases h with rfl | ⟨y, rfl⟩ <;> simp [readFailures] at fails
  · rcases h with rfl | ⟨y, rfl⟩ <;> exact absurd rfl fault

theorem readEnd (hp : n.point? i = some pt) (going : ∀ q, pt.state ≠ .retiring q) (kind : ReadKind) (o : TxOutcome) :
    ∃ q x notes, ReadEnd kind i n pt o q x notes := by
  cases o with
  | done data => exact readEnd_good hp going data
  | noNode => exact readEnd_failed hp going (answer := .noNode) (by simp [readFailures])
  | noAccept => exact readEnd_failed hp going (answer := .noAccept) (by simp [readFailures])
  | checkFail => exact readEnd_failed hp going (answer := .checkFail) (by simp [readFailures])
  | empty => exact readEnd_other hp going (.inl rfl)
  | winner y => exact readEnd_other hp going (.inr ⟨y, rfl⟩)
  | _ => exact readEnd_fault hp going nofun

end Ends

/-- A completion of a POLL, REFRESH-POLL or GUARD of a HELD or ACTIVE point: the node's part, then the point's. -/
theorem read_completion {g : SegId} {kind : ReadKind} {i : SlotNo} {x : Address} {item : Byte} {w : Width} {start released : Time}
    {pos : LinkPos} {levels : List Bool} {o : TxOutcome} {pt : Point} {s : State} {c : Instr}
    (member : (c, kind) ∈ [(Instr.pollCompletion g levels, ReadKind.poll), (.refreshPollCompletion g levels, .refreshPoll),
      (.guardCompletion g levels, .guard)])
    (flight : (s.segment g).transaction = some ⟨.read kind i x item w, .onWires start released pos, false⟩)
    (course : (Work.read kind i x item w).afterCycles false pos levels = .ended o) (hp : s.point? i = some pt)
    (going : ∀ q, pt.state ≠ .retiring q) :
    ∃ u n ofNode r q y notes, exec c s = .next u ∧ (u.segment g).transaction = none ∧
      transactionFrame g x (.read kind i x item w) o s u ∧
      (∀ cause, o.fault? = some cause → (u.segment g).state = .recovering ∧ (u.segment g).cause = some cause) ∧
      OwnMet g x i pt (s.nodeStays g x o) s n ofNode ∧
      (r = pt.rhythmDue ∨ r = none ∧ n.nodeLost pt.segment pt.address = true ∧ ¬ s.nodeStays g x o) ∧
      ReadEnd kind i n { pt with rhythmDue := r } o q y notes ∧
      EndsAs i pt.segment s n u q y (fun p => ofNode p ++ notes p) := by
  obtain ⟨completes, plain⟩ := completes_read (i := i) (x := x) (item := item) (w := w) member
  obtain ⟨ofNode, met⟩ := nodePart hp g x o
  obtain ⟨r, hn, hr⟩ := met.point
  obtain ⟨q, y, notes, ended⟩ := readEnd (pt := { pt with rhythmDue := r }) hn going kind o
  refine ⟨_, _, ofNode, r, q, y, notes, exec_completion completes flight course, takeCompletion_transaction g o s _,
    transactionFrame_takeCompletion (x := x) (.read kind i x item w) rfl _ o s ?_, fun cause fault => takeCompletion_fault g o s fault, met, hr, ended, ?_⟩
  · intro j hj qt p hq
    obtain rfl : i = j := Option.some.inj hj
    obtain rfl := Option.some.inj (hp.symm.trans hq)
    exact going p
  · have ends := endsAs_of_becomes met ended.own g o
    have same : takeCompletion g ⟨.read kind i x item w, .onWires start released pos, false⟩ o s =
        faultRecovery g o (finishPoll kind i o (nodeOutcome g x (some i) o (endTransaction g s))) := by
      rw [takeCompletion, if_neg Bool.false_ne_true, applyOutcome_read g x item w o plain]
    rw [same]
    exact ends


theorem reenter_point (i : SlotNo) (d : Due) (s : State) (j : SlotNo) : (reenter i d s).point? j = s.point? j := by
  cases hp : s.point? i with
  | none => rw [reenter, hp]
  | some pt => rw [reenter_eq hp]; rfl

/-- After a segment fault a read's point has nothing in flight; its record is else as it was (R42). -/
theorem read_fault_point {g : SegId} {kind : ReadKind} {i : SlotNo} {x : Address} {item : Byte} {w : Width} {phase : TxPhase}
    {o : TxOutcome} {pt : Point} {s : State} (hp : s.point? i = some pt) (going : ∀ q, pt.state ≠ .retiring q)
    (plain : kind ≠ .verify) (fault : o.fault? ≠ none) :
    (takeCompletion g ⟨.read kind i x item w, phase, false⟩ o s).point? i = some { pt with inFlight := none } := by
  rw [takeCompletion, if_neg Bool.false_ne_true, faultRecovery_point, applyOutcome_fault g _ fault,
    applyOutcome_fault_read (s := endTransaction g s) hp going plain, reenter_point]
  simp

theorem clean_of_failure {o : TxOutcome} (h : o = .noNode ∨ o = .noAccept ∨ o = .checkFail) : ∃ answer, (o, answer) ∈ readFailures := by
  rcases h with rfl | rfl | rfl
  · exact ⟨.noNode, by simp [readFailures]⟩
  · exact ⟨.noAccept, by simp [readFailures]⟩
  · exact ⟨.checkFail, by simp [readFailures]⟩

theorem failRead_quality (pt : Point) : pt.failRead.quality = if pt.failures = 3 then .fault else pt.quality := by
  unfold Point.failRead
  refine if_congr ?_ rfl rfl
  omega

theorem passes_reported (pt : Point) (v : Value) :
    (pt.deadband = none → (if pt.passes v then some v else pt.reported) = pt.reported) ∧
    ∀ d, pt.deadband = some d →
      (pt.reported = none → (if pt.passes v then some v else pt.reported) = some v) ∧
      ∀ r, pt.reported = some r → (if pt.passes v then some v else pt.reported) =
        if (d.toNat : Int) ≤ ((asInt pt.signed v - asInt pt.signed r).natAbs : Int) then some v else some r := by
  refine ⟨fun none => by simp [Point.passes, none], fun d some => ⟨fun absent => ?_, fun r present => ?_⟩⟩
  · simp [Point.passes, some, deadbandPasses, absent]
  · rw [present]
    refine if_congr ?_ rfl rfl
    rw [Point.passes, some, Option.any_some, present]
    simp only [deadbandPasses, decide_eq_true_eq]
    omega

/-- Settles O48. -/
theorem readOutcomesReachThePointsRecord : Obligations.ReadOutcomesReachThePointsRecord := by
  unfold Obligations.ReadOutcomesReachThePointsRecord
  refine ⟨fun b3 b2 b1 b0 => ⟨extendValue_one_unsigned b0, extendValue_one_signed b0, extendValue_two_unsigned b1 b0,
    extendValue_two_signed b1 b0, extendValue_four b3 b2 b1 b0⟩, fun v => ⟨rfl, asInt_true v⟩, ?_⟩
  intro g kind i x item w start released pos levels outcome pt s c member flight course hp going
  obtain ⟨u, n, ofNode, r, q, y, notes, run, ended, frame, recovering, met, hr, ends, endsAs⟩ :=
    read_completion member flight course hp going
  obtain ⟨-, plain⟩ := completes_read (i := i) (x := x) (item := item) (w := w) member
  obtain ⟨m, hm⟩ := endsAs.point
  obtain ⟨inFlight, state, identity, owner, subscriptions, limits, deadband, late⟩ := ends.keeps
  refine ⟨u, _, run, hm, ended, standingsKept_of_frame rfl frame, frame, inFlight, state, identity, owner, subscriptions, limits,
    deadband, fun idle stays => ?_, ?_⟩
  · obtain ⟨sameLate, sameRhythm⟩ := late idle
    have rhythm : r = pt.rhythmDue := hr.resolve_right fun both => both.2.2 stays
    refine ⟨sameLate, sameRhythm.trans rhythm, fun h => ?_⟩
    rw [endsAs.entry h, ← met.entry stays h]
    split
    · next same => rw [ends.idle idle, same, State.entryOf?]
    · rfl
  · intro queues queuesEq before beforeEq
    have unqueued : y.commandQueue = (n.segment pt.segment).commandQueue → queues before := fun same => by
      rw [queuesEq, beforeEq]
      intro h
      rw [endsAs.queue h]
      split
      · next here => rw [same, here]; exact met.queue pt.segment
      · rfl
    refine ⟨fun data v done hv => ?_, fun fails => ?_, fun cause fault => ?_⟩
    · obtain ⟨qEq, yEq, -⟩ := ends.good data v done hv
      generalize landedEq : ({ pt with rhythmDue := r, inFlight := none } : Point) = landed at qEq yEq
      rw [met.clock] at qEq yEq
      obtain ⟨-, -, -, -, -, -, -, -, -, -, value, failures, quality, stale, alarm, reported⟩ := landed.polled_keeps kind v s.clock
      have fresh := polled_fresh landed kind v s.clock plain
      have kept := polled_command_kept (pt := landed) (kind := kind) (v := v) (now := s.clock)
      have restoredTo := fun cv => polled_command_restored (pt := landed) (kind := kind) (v := v) (now := s.clock) (cv := cv)
      generalize landed.polled kind v s.clock = read at qEq yEq value failures quality stale alarm reported fresh kept restoredTo
      have form := read.reentered_form n kind.flight (pt.inFlight.bind (·.startDue))
      rw [← qEq] at form
      have queue : y.commandQueue = ((n.segment pt.segment).polled i landed kind v).commandQueue := by
        rw [yEq, Segment.reentered_commandQueue]
      have command : q.command = read.command := (congrArg Point.command form).trans rfl
      have same : landed.restored v = pt.restored v := by rw [← landedEq]; rfl
      refine ⟨(congrArg Point.value form).trans value, (congrArg Point.failures form).trans failures,
        (congrArg Point.quality form).trans quality, ((congrArg Point.fresh form).trans fresh).trans (by rw [← landedEq]),
        fun active none => ?_, fun idle => ?_, fun none => ?_, fun l some => ?_, fun none => ?_, fun d some => ?_,
        fun cmd d cv guard some confirmed isValue differs restore => ?_, fun others => ?_⟩
      · refine ((congrArg Point.staleDue form).trans stale).trans ?_
        rw [← landedEq]
        simp [Point.storeGood, Point.isActive, Point.isOutput, active, none]
        rfl
      · refine ((congrArg Point.staleDue form).trans stale).trans ?_
        rw [← landedEq]
        rcases idle with held | output
        · simp [Point.storeGood, Point.isActive, held]
        · have isOutput : pt.command.isSome = true := Option.isSome_iff_ne_none.mpr output
          simp [Point.storeGood, Point.isOutput, isOutput]
      · refine ((congrArg Point.alarm form).trans alarm).trans ?_
        rw [← landedEq]
        simp [Point.alarmAfter, none]
      · refine ((congrArg Point.alarm form).trans alarm).trans ?_
        rw [← landedEq]
        simp [Point.alarmAfter, some]
      · refine ((congrArg Point.reported form).trans reported).trans ?_
        rw [← landedEq]
        exact (passes_reported pt v).1 none
      · have tested := (passes_reported pt v).2 d some
        have isReported := (congrArg Point.reported form).trans reported
        rw [← landedEq] at isReported
        exact ⟨fun absent => isReported.trans (tested.1 absent), fun r' present => isReported.trans (tested.2 r' present)⟩
      · have restored := same.trans (restored_of_confirmed some confirmed isValue differs restore)
        refine ⟨?_, ?_⟩
        · refine (command.trans (restoredTo cv guard restored)).trans ?_
          rw [← landedEq]
          exact congrArg (Option.map _) some
        · rw [queuesEq, beforeEq]
          intro h
          have landedState : landed.state = pt.state := by rw [← landedEq]
          rw [endsAs.queue h, queue, polled_queue_restored guard restored, landedState, met.queue]
          by_cases here : h = pt.segment
          · subst here; simp
          · simp [here]
      · have none : kind ≠ .guard ∨ landed.restored v = none := others.imp id fun o => same.trans (restored_none o)
        refine ⟨(command.trans (kept none)).trans (by rw [← landedEq]), unqueued ?_⟩
        rw [queue, polled_queue_kept none]
    · obtain ⟨answer, listed⟩ := clean_of_failure fails
      obtain ⟨qEq, yEq, -⟩ := ends.failed answer listed
      have form := (({ pt with rhythmDue := r, inFlight := none } : Point).failRead.answered kind).reentered_form n kind.flight
        (pt.inFlight.bind (·.startDue))
      rw [← qEq] at form
      refine ⟨(congrArg Point.failures form).trans rfl, (congrArg Point.quality form).trans (failRead_quality _),
        (congrArg Point.value form).trans rfl, (congrArg Point.staleDue form).trans rfl, (congrArg Point.alarm form).trans rfl,
        (congrArg Point.reported form).trans rfl, (congrArg Point.fresh form).trans ?_, (congrArg Point.command form).trans rfl,
        unqueued (by rw [yEq, Segment.reentered_commandQueue])⟩
      cases kind with
      | verify => exact absurd rfl plain
      | _ => rfl
    · have faulty : outcome.fault? ≠ none := by rw [fault]; exact nofun
      obtain ⟨-, yEq, -⟩ := ends.fault faulty
      obtain ⟨completes, -⟩ := completes_read (i := i) (x := x) (item := item) (w := w) member
      have taken := Host.Outcome.next.inj (run.symm.trans (exec_completion completes flight course))
      have point := read_fault_point (x := x) (item := item) (w := w) (phase := .onWires start released pos) hp going plain faulty
        (g := g)
      rw [← taken] at point
      refine ⟨Option.some.inj (hm.symm.trans point), unqueued ?_, recovering cause fault⟩
      rw [yEq]
      split
      · exact Segment.entered_commandQueue _ _ _ _
      · rfl

end Sys2Proof.Machine

/-! The notifications of a read in their order, and the re-entry of its point (R36 to R39, R42, R46, R89). -/
namespace Sys2Proof.Machine

set_option Elab.async false

/-! ### The notifications in their order (R46) -/

theorem answersFresh_eq {kind : ReadKind} (plain : kind ≠ .verify) : answersFresh kind = decide (kind ≠ .guard) := by
  cases kind with
  | verify => exact absurd rfl plain
  | _ => rfl

theorem goodReadCause_eq (q : Quality) : goodReadCause q = if q = .empty then .firstValue else .recovered := by
  cases q <;> rfl

theorem alarmAfter_eq (pt : Point) (v : Value) (alarm : Alarm)
    (h : (pt.limits = none → alarm = pt.alarm) ∧ ∀ l, pt.limits = some l → alarm = evaluateAlarm pt.signed l pt.alarm v) :
    pt.alarmAfter v = alarm := by
  cases limits : pt.limits with
  | none => rw [h.1 limits, Point.alarmAfter, limits]; rfl
  | some l => rw [h.2 l limits, Point.alarmAfter, limits]; rfl

theorem passes_eq (pt : Point) (v : Value) (passes : Bool) (h : (pt.deadband = none → passes = false) ∧
    (∀ d, pt.deadband = some d → pt.reported = none → passes = true) ∧
    ∀ d r, pt.deadband = some d → pt.reported = some r →
      passes = decide ((d.toNat : Int) ≤ ((asInt pt.signed v - asInt pt.signed r).natAbs : Int))) : pt.passes v = passes := by
  obtain ⟨absent, first, further⟩ := h
  cases deadband : pt.deadband with
  | none => rw [absent deadband, Point.passes, deadband]; rfl
  | some d =>
    rw [Point.passes, deadband, Option.any_some]
    cases reported : pt.reported with
    | none => rw [first d deadband reported]; rfl
    | some r =>
      rw [further d r deadband reported]
      exact decide_eq_decide.mpr (by omega)

/-- The difference that a GUARD finds, from the command state and the confirmed value (R87). -/
theorem drift_eq (pt : Point) (v : Value) (drift : Option Value)
    (h : (∀ d cv, pt.stand = .confirmed d → pt.command.bind (·.confirmedValue) = some cv → drift = if v = cv then none else some cv) ∧
      ((∀ d, pt.stand ≠ .confirmed d) ∨ pt.command.bind (·.confirmedValue) = none → drift = none)) : pt.drift v = drift := by
  obtain ⟨differs, else_⟩ := h
  unfold Point.drift
  cases command : pt.command with
  | none =>
    rw [else_ (.inr (by rw [command]; rfl))]
    rfl
  | some c =>
    rw [stand_of_some command, command, Option.bind_some] at differs else_
    rw [Option.bind_some]
    cases stand : c.stand with
    | confirmed d =>
      cases value : c.confirmedValue with
      | none => rw [else_ (.inr value)]; rfl
      | some cv =>
        rw [differs d cv stand value]
        by_cases same : v = cv <;> simp [Stand.isConfirmed, Option.filter, same]
    | _ => rw [else_ (.inl fun d e => nomatch stand.symm.trans e)]; simp [Stand.isConfirmed]

/-- What a port with room in its queue has been told stands there, numbered on and stamped with the reading (R147). -/
theorem Told.queue {p : Port} {l : List Note} {s u : State} (h : Told p l s u) (on : (s.notifyOf p).enabled = true)
    (room : (s.notifyOf p).queue.length + l.length ≤ 64) : (u.notifyOf p).queue = (s.notifyOf p).queue ++
      l.zipIdx.map fun n => ⟨(s.notifyOf p).nextSeq + BitVec.ofNat 16 n.2, s.clock, n.1⟩ := by
  rw [h.told on room, Notify.pushes_queue]

theorem append_noteIf_length {l : List Note} {k : Nat} (h : l.length ≤ k) (b : Bool) (n : Note) : (l ++ noteIf b n).length ≤ k + 1 := by
  rw [List.length_append]
  exact Nat.add_le_add h (noteIf_length b n)

theorem failRead_failures {pt : Point} (h : pt.failRead.quality ≠ pt.quality) : pt.failRead.failures = 4 := by
  rw [failRead_quality] at h
  have three : pt.failures = 3 := by
    by_contra other
    exact h (if_neg other)
  change min 255 (pt.failures + 1) = 4
  omega

theorem failedNotes_eq (pt : Point) {kind : ReadKind} (plain : kind ≠ .verify) (o : FreshOutcome) (h : Handle) (p : Port) :
    pt.failedNotes kind o h p =
      noteIf (decide ((if pt.failures = 3 then .fault else pt.quality) ≠ pt.quality) && (pt.subscriptions.get p).quality)
          (.quality h pt.quality (if pt.failures = 3 then .fault else pt.quality) 4 .failureLimit)
        ++ noteIf (pt.fresh.get p && decide (kind ≠ .guard)) (.fresh h o (if pt.failures = 3 then .fault else pt.quality)) := by
  unfold Point.failedNotes
  rw [answersFresh_eq plain, ← failRead_quality]
  by_cases changed : pt.failRead.quality = pt.quality
  · simp [changed]
  · rw [failRead_failures changed]

theorem polledNotes_eq (pt : Point) {kind : ReadKind} (plain : kind ≠ .verify) (v : Value) (h : Handle) (p : Port) {alarm : Alarm}
    {passes : Bool} {drift : Option Value} (isAlarm : pt.alarmAfter v = alarm) (isPasses : pt.passes v = passes)
    (isDrift : (if kind = .guard then pt.drift v else none) = drift) : pt.polledNotes kind v h p =
      noteIf (decide (pt.quality ≠ .good) && (pt.subscriptions.get p).quality)
          (.quality h pt.quality .good 0 (if pt.quality = .empty then .firstValue else .recovered))
        ++ noteIf (decide (alarm ≠ pt.alarm) && (pt.subscriptions.get p).alarm) (.alarm h v pt.alarm alarm .limit)
        ++ noteIf (passes && (pt.subscriptions.get p).value) (.value h v .good)
        ++ noteIf (drift.isSome && (pt.subscriptions.get p).command) (.drift h v (drift.getD 0))
        ++ noteIf (pt.fresh.get p && decide (kind ≠ .guard)) (.fresh h (.done v) .good) := by
  subst isAlarm isPasses isDrift
  unfold Point.polledNotes
  rw [answersFresh_eq plain, goodReadCause_eq]
  by_cases guard : kind = .guard
  · simp only [guard, decide_true, Bool.true_and, if_true]
  · simp [guard]

/-- Settles O49. -/
theorem readCompletionNotifiesInOrder : Obligations.ReadCompletionNotifiesInOrder := by
  unfold Obligations.ReadCompletionNotifiesInOrder
  intro g kind i x item w start released pos levels outcome pt p s c member flight course hp going stays on room makes makesEq only
    onlyEq sub subEq fresh freshEq
  obtain ⟨u, n, ofNode, r, q, y, notes, run, -, -, -, met, hr, ends, endsAs⟩ := read_completion member flight course hp going
  obtain ⟨-, plain⟩ := completes_read (i := i) (x := x) (item := item) (w := w) member
  have rhythm : r = pt.rhythmDue := hr.resolve_right fun both => both.2.2 stays
  have handle : n.handle i = s.handle i := met.handle i
  have told := endsAs.told p
  rw [met.silent stays p, List.nil_append] at told
  have make : ∀ l, notes p = l → (s.notifyOf p).queue.length + l.length ≤ 64 → makes l := fun l e fits => by
    rw [makesEq]
    rw [e] at told
    exact ⟨u, run, told.queue on fits⟩
  have only' : only = noteIf := onlyEq
  subst rhythm subEq freshEq
  rw [only']
  refine ⟨fun data v done hv alarm alarmEq passes passesEq drift driftEq => make _ ?_ ?_,
    fun answer listed after afterEq => make _ ?_ ?_, fun fault => make _ ?_ (by simpa using Nat.le_trans room (by omega))⟩
  · obtain ⟨-, -, notesEq⟩ := ends.good data v done hv
    rw [notesEq, handle]
    refine polledNotes_eq _ plain v _ p (alarmAfter_eq _ v _ ?_) (passes_eq _ v _ ?_) ?_
    · exact ⟨fun (h : pt.limits = none) => by simp [alarmEq, h], fun l (h : pt.limits = some l) => by simp [alarmEq, h]⟩
    · exact ⟨fun (h : pt.deadband = none) => by simp [passesEq, h],
        fun d (h : pt.deadband = some d) (h' : pt.reported = none) => by simp [passesEq, h, h'],
        fun d r (h : pt.deadband = some d) (h' : pt.reported = some r) => by simp [passesEq, h, h']⟩
    · have unguarded : kind ≠ .guard → drift = none := fun other => by
        rw [driftEq]
        cases kind with
        | guard => exact absurd rfl other
        | _ => rfl
      split
      · next guard =>
        subst guard
        rw [stand_of_point hp] at driftEq
        refine drift_eq _ v _ ⟨fun d cv (stand : pt.stand = _) (value : pt.command.bind _ = _) => ?_,
          fun (other : (∀ d, pt.stand ≠ _) ∨ pt.command.bind _ = _) => ?_⟩
        · simp [driftEq, stand, value]
        · rw [driftEq]
          rcases other with unconfirmed | none
          · cases stand : pt.stand with
            | confirmed d => exact absurd stand (unconfirmed d)
            | _ => rfl
          · rw [none]
            cases pt.stand <;> rfl
      · next other => exact (unguarded other).symm
  · exact Nat.le_trans (Nat.add_le_add_left (append_noteIf_length (append_noteIf_length (append_noteIf_length
      (append_noteIf_length (noteIf_length _ _) _ _) _ _) _ _) _ _) _) (Nat.add_le_add_right room 5)
  · obtain ⟨-, -, notesEq⟩ := ends.failed answer listed
    rw [notesEq, failedNotes_eq _ plain, handle, afterEq]
  · exact Nat.le_trans (Nat.add_le_add_left (append_noteIf_length (noteIf_length _ _) _ _) _)
      (Nat.le_trans (Nat.add_le_add_right room 2) (by omega))
  · obtain ⟨-, -, notesEq⟩ := ends.fault fault
    rw [notesEq]


/-! ### Re-entry by the rhythm (R36 to R39, R42, R89) -/

/-- A point enters its schedule, in which it has no entry yet. -/
theorem entered_find {x : Segment} {i : SlotNo} (h : x.schedule.find? (·.slot == i) = none) (d : Due) (now : Time) :
    (x.entered i d now).schedule.find? (·.slot == i) = some ⟨i, d, d.reachedAt now⟩ := by
  rw [Segment.entered, if_pos h]
  exact find?_insertEntry_self (e := ⟨i, d, d.reachedAt now⟩) h

/-- What a due time, its mark and a late flag are one period after a start due, or after the completion (R38). -/
def byRhythm (period : Interval) (now : Time) (b due : Due) (marked late : Bool) : Prop :=
  (b.capped = false ∧ laterThan (b.time + period.zeroExtend 32) now = true →
    due = ⟨b.time + period.zeroExtend 32, false⟩ ∧ marked = false ∧ late = false) ∧
  (b.capped = true ∨ laterThan (b.time + period.zeroExtend 32) now = false →
    due = ⟨now + period.zeroExtend 32, false⟩ ∧ (period ≠ 0 → marked = false) ∧ late = true)

theorem reachedAt_of_laterThan {t now : Time} (h : laterThan t now = true) : (⟨t, false⟩ : Due).reachedAt now = false :=
  not_reached_of_laterThan h

theorem rhythmicDue_byRhythm (period : Interval) (now : Time) (b : Due) :
    byRhythm period now b (rhythmicDue b period now).1 ((rhythmicDue b period now).1.reachedAt now) (rhythmicDue b period now).2 := by
  unfold byRhythm rhythmicDue
  refine ⟨fun ⟨capped, later⟩ => ?_, fun else_ => ?_⟩
  · have cond : (!b.capped && laterThan (after b.time period) now) = true := by rw [capped]; exact later
    rw [if_pos cond]
    exact ⟨rfl, reachedAt_of_laterThan later, rfl⟩
  · have cond : ¬ (!b.capped && laterThan (after b.time period) now) = true := by
      rcases else_ with capped | early
      · simp [capped]
      · exact fun both => Bool.false_ne_true (early.symm.trans (Bool.and_eq_true_iff.mp both).2)
    rw [if_neg cond]
    exact ⟨rfl, fun some => reachedAt_of_laterThan (laterThan_after now some), rfl⟩

theorem refreshedDue_byRhythm (period : Interval) (now : Time) (b : Due) (late : Bool) :
    (b.capped = false ∧ laterThan b.time now = true →
      (refreshedDue b period now late).1 = b ∧ (refreshedDue b period now late).1.reachedAt now = false ∧
        (refreshedDue b period now late).2 = late) ∧
    (b.capped = true ∨ laterThan b.time now = false →
      byRhythm period now b (refreshedDue b period now late).1 ((refreshedDue b period now late).1.reachedAt now)
        (refreshedDue b period now late).2) := by
  unfold refreshedDue
  refine ⟨fun ⟨capped, later⟩ => ?_, fun else_ => ?_⟩
  · have cond : (!b.capped && laterThan b.time now) = true := by rw [capped]; exact later
    rw [if_pos cond]
    refine ⟨rfl, ?_, rfl⟩
    rw [Due.reachedAt, capped]
    exact not_reached_of_laterThan later
  · have cond : ¬ (!b.capped && laterThan b.time now) = true := by
      rcases else_ with capped | early
      · simp [capped]
      · exact fun both => Bool.false_ne_true (early.symm.trans (Bool.and_eq_true_iff.mp both).2)
    rw [if_neg cond]
    exact rhythmicDue_byRhythm period now b

theorem elim_of_some {α β : Type} {o : Option α} {a : α} (h : o = some a) (b : β) (f : α → β) : o.elim b f = f a := by
  rw [h]; rfl

theorem flight_refreshPoll {kind : ReadKind} (h : kind.flight = .refreshPoll) : kind = .refreshPoll := by
  cases kind with
  | refreshPoll => rfl
  | _ => cases h

section Wants
variable {pt : Point} {n : State} {period : Interval} (wants : n.wantsEntry pt = true) (hp : pt.period = some period)
include wants hp

theorem Point.reentered_of_wants (kind : FlightKind) (start : Option Due) : pt.reentered n kind start =
    { pt with late := (pt.rhythm kind start period n.clock).2, rhythmDue := none } := by
  rw [Point.reentered, if_pos wants]
  exact elim_of_some hp pt fun period => { pt with late := (pt.rhythm kind start period n.clock).2, rhythmDue := none }

theorem Segment.reentered_of_wants (x : Segment) (i : SlotNo) (kind : FlightKind) (start : Option Due) :
    x.reentered n i pt kind start = x.entered i (pt.rhythm kind start period n.clock).1 n.clock := by
  rw [Segment.reentered, if_pos wants]
  exact elim_of_some hp x fun period => x.entered i (pt.rhythm kind start period n.clock).1 n.clock

end Wants

/-- Settles O50. -/
theorem readsReenterTheScheduleByTheirRhythm : Obligations.ReadsReenterTheScheduleByTheirRhythm := by
  unfold Obligations.ReadsReenterTheScheduleByTheirRhythm
  intro g kind i x item w start released pos levels outcome pt period k d s c member flight course hp active isPeriod inFlight out
  have going : ∀ q, pt.state ≠ .retiring q := fun q e => nomatch active.symm.trans e
  obtain ⟨u, n, ofNode, r, q, y, notes, run, -, -, -, met, hr, ends, endsAs⟩ := read_completion member flight course hp going
  obtain ⟨m, hm⟩ := endsAs.point
  have lost : u.nodeLost pt.segment pt.address = n.nodeLost pt.segment pt.address := endsAs.nodeLost _ _
  have outside : (n.segment pt.segment).schedule.find? (·.slot == i) = none :=
    met.out (by rw [inFlight]; exact nofun) out
  have entry : u.entryOf? pt.segment i = y.schedule.find? (·.slot == i) := (endsAs.entry pt.segment).trans (if_pos rfl)
  have wants : ∀ {p : Point}, p.state = pt.state → p.identity = pt.identity → p.inFlight = none →
      (n.wantsEntry p = !n.nodeLost pt.segment pt.address) := fun {p} state identity idle => by
    have segment : p.segment = pt.segment := congrArg Identity.segment identity
    have address : p.address = pt.address := congrArg Identity.address identity
    have samePeriod : p.period = some period := (congrArg Identity.period identity).trans isPeriod
    simp [State.wantsEntry, Point.isActive, Point.scheduledKind, state, active, samePeriod, idle, segment, address]
  have startDue : (({ pt with rhythmDue := r } : Point).inFlight.bind (·.startDue)) = some d := by rw [inFlight]; rfl
  refine ⟨u, _, run, hm, fun isLost => ?_, fun isHere => ?_⟩
  · rw [lost] at isLost
    by_cases faulty : outcome.fault? ≠ none
    · obtain ⟨qEq, yEq, -⟩ := ends.fault faulty
      have idle := wants (p := { pt with rhythmDue := r, inFlight := none }) rfl rfl rfl
      rw [isLost] at idle
      rw [idle] at yEq
      rw [entry, yEq, qEq]
      exact ⟨outside, rfl⟩
    · obtain ⟨p, z, keeps, late, -, schedule, qEq, yEq⟩ := ends.clean (not_not.mp faulty)
      have idle := wants keeps.state keeps.identity keeps.inFlight
      rw [isLost, Bool.not_true] at idle
      rw [Segment.reentered, idle] at yEq
      rw [Point.reentered, idle] at qEq
      rw [entry, yEq, qEq]
      refine ⟨?_, late⟩
      rw [if_neg Bool.false_ne_true, schedule]
      exact outside
  · rw [lost] at isHere
    have rhythm : r = pt.rhythmDue := hr.resolve_right fun both => Bool.false_ne_true (isHere.symm.trans both.2.1)
    subst rhythm
    by_cases faulty : outcome.fault? ≠ none
    · obtain ⟨qEq, yEq, -⟩ := ends.fault faulty
      have enters := wants (p := { pt with inFlight := none }) rfl rfl rfl
      rw [isHere] at enters
      have found := entered_find (x := n.segment pt.segment) outside n.dueNow n.clock
      have inside : u.entryOf? pt.segment i = some ⟨i, n.dueNow, n.dueNow.reachedAt n.clock⟩ := by
        rw [entry, yEq]
        exact (congrArg (fun z : Segment => z.schedule.find? (·.slot == i)) (if_pos enters)).trans found
      refine ⟨_, inside, fun rhythm rhythmEq => ⟨fun clean => absurd clean faulty, fun _ => ?_⟩⟩
      rw [qEq]
      refine ⟨?_, reachedAt_now n.clock, rfl, rfl, rfl⟩
      rw [← met.clock]
      rfl
    · obtain ⟨p, z, keeps, late, rhythmDue, schedule, qEq, yEq⟩ := ends.clean (not_not.mp faulty)
      have enters : n.wantsEntry p = true := by rw [wants keeps.state keeps.identity keeps.inFlight, isHere]; rfl
      have period' : p.period = some period := (congrArg Identity.period keeps.identity).trans isPeriod
      rw [startDue] at qEq yEq
      rw [Point.reentered_of_wants enters period', met.clock] at qEq
      rw [Segment.reentered_of_wants enters period', met.clock] at yEq
      have inside : u.entryOf? pt.segment i = some ⟨i, (p.rhythm kind.flight (some d) period s.clock).1,
          (p.rhythm kind.flight (some d) period s.clock).1.reachedAt s.clock⟩ := by
        rw [entry, yEq]
        exact entered_find (by rw [schedule]; exact outside) _ _
      refine ⟨_, inside, fun rhythm rhythmEq => ⟨fun _ => ?_, fun fault => absurd fault faulty⟩⟩
      rw [rhythmEq, qEq]
      refine ⟨rfl, fun plain => ?_, fun b refresh due => ?_⟩
      · have rhythmic : p.rhythm kind.flight (some d) period s.clock = rhythmicDue d period s.clock := by
          unfold Point.rhythm
          split
          · next refreshes =>
            have none : pt.rhythmDue = none := plain.resolve_left fun other => other (flight_refreshPoll refreshes)
            rw [rhythmDue, none]
            rfl
          · rfl
        rw [rhythmic]
        exact rhythmicDue_byRhythm period s.clock d
      · have refreshed : p.rhythm kind.flight (some d) period s.clock = refreshedDue b period s.clock pt.late := by
          rw [Point.rhythm, refresh, if_pos (show ReadKind.refreshPoll.flight = .refreshPoll from rfl), rhythmDue, due, late]
          rfl
        rw [refreshed]
        exact refreshedDue_byRhythm period s.clock b pt.late

end Sys2Proof.Machine

/-! A WRITE or VERIFY that has ended: what becomes of the command, its values closed and its next value promoted (R76 to R82). -/
namespace Sys2Proof.Machine

set_option Elab.async false

/-- The record with a command. -/
def Point.commanded (pt : Point) (c : Command) : Point := { pt with command := some c }

theorem Point.commanded_self {pt : Point} {c : Command} (h : pt.command = some c) : pt.commanded c = pt := by
  rw [Point.commanded, ← h]

/-- The segment with slot `i` at the head of its command queue, if its command is QUEUED then (R70). -/
def Segment.requeued (x : Segment) (i : SlotNo) (y : Stand) : Segment :=
  if y.isQueued then { x with commandQueue := i :: x.commandQueue } else x

theorem Segment.requeued_idle {y : Stand} (h : y.isQueued = false) (x : Segment) (i : SlotNo) : x.requeued i y = x := by
  rw [Segment.requeued, h]; rfl

/-! ### What a delivery step ends with: the command state, the attempts, and the close of the desired value -/

/-- The close of a value reaches a port: its issuer's, or one that subscribes to COMMAND (R85). -/
def Point.reaches (pt : Point) (v : Issued) (p : Port) : Bool := v.issuer == p || (pt.subscriptions.get p).command

/-- The command state that a next value's promotion ends with (R80, R82). -/
def Point.promoted (pt : Point) (nv : NextValue) : Stand :=
  if nv.expired then .failed nv.issued .expired else pt.waiting nv.issued nv.deadline

/-- The desired value has been closed: the command rests, or a next value has taken its place (R80). -/
def Point.closedAs (pt : Point) (next : Option NextValue) (y : Stand) (n : Nat) (close : Close) : Stand × Nat × Option Close :=
  next.elim (y, n, some close) fun nv => (pt.promoted nv, 0, some close)

/-- The step ends without confirming and without a third failed attempt (R78, R79, R80). -/
def Point.undoneAs (pt : Point) (d : Issued) (next : Option NextValue) (n : Nat) : Stand × Nat × Option Close :=
  if next = none then (pt.waiting d none, n, none) else pt.closedAs next .noCommand 0 .superseded

/-- A failed attempt (R78). -/
def Point.attemptAs (pt : Point) (cmd : Command) (d : Issued) (next : Option NextValue) (cause : FailCause) :
    Stand × Nat × Option Close :=
  if cmd.attempts < 2 then pt.undoneAs d next (cmd.attempts + 1)
  else pt.closedAs next (.failed d cause) (cmd.attempts + 1) (.failed cause (cmd.attempts + 1))

/-- The closing notifications of a delivery step to port `p` (R46, R85). -/
def Point.closeNotes (pt : Point) (h : Handle) (d : Issued) (next : Option NextValue) (r : Stand × Nat × Option Close) (p : Port) :
    List Note :=
  r.2.2.elim [] fun close => noteIf (pt.reaches d p) (.command h d.value close) ++
    next.elim [] fun nv => noteIf (nv.expired && pt.reaches nv.issued p) (.command h nv.issued.value (.failed .expired 0))

section Becomes
variable {i : SlotNo} {g : SegId} {s t : State} {pt : Point} {c : Command} {x : Segment} {notes : Port → List Note}

theorem Becomes.commandSet (h : Becomes i g s (pt.commanded c) x notes t) (f : Command → Command) :
    Becomes i g s (pt.commanded (f c)) x notes (Machine.modCommand i f t) := h.modCommand f

theorem Becomes.closed (h : Becomes i g s (pt.commanded c) x notes t) (v : Issued) (close : Close) :
    Becomes i g s (pt.commanded c) x (fun p => notes p ++ noteIf (pt.reaches v p) (.command (s.handle i) v.value close))
      (Machine.closeCommand i v close t) := h.closeCommand v close

theorem Becomes.waitAgain (h : Becomes i g s (pt.commanded c) x notes t) (hg : pt.segment = g) (v : Issued) (due : Option Time) :
    Becomes i g s (pt.commanded { c with stand := pt.waiting v due }) (x.requeued i (pt.waiting v due)) notes
      (Machine.waitAgain i v due t) := by
  obtain ⟨m, hm⟩ := h.point
  subst hg
  have active : ({ pt.commanded c with marks := m } : Point).isActive = true ↔ pt.state = .active := isActive_iff _
  unfold Machine.waitAgain Segment.requeued
  rw [hm]
  dsimp only
  by_cases a : pt.state = .active
  · rw [if_pos (active.mpr a), Point.waiting, if_pos a]
    exact (h.commandSet fun c => { c with stand := .queued v due }).modSegment fun y => { y with commandQueue := i :: y.commandQueue }
  · rw [if_neg (mt active.mp a), Point.waiting, if_neg a]
    exact h.commandSet fun c => { c with stand := .pending v due }

theorem Becomes.promote (h : Becomes i g s (pt.commanded c) x notes t) (hg : pt.segment = g) (nv : NextValue) :
    Becomes i g s (pt.commanded { c with stand := pt.promoted nv, attempts := 0 }) (x.requeued i (pt.promoted nv))
      (fun p => notes p ++ noteIf (nv.expired && pt.reaches nv.issued p) (.command (s.handle i) nv.issued.value (.failed .expired 0)))
      (Machine.promote i nv t) := by
  have reset := h.commandSet fun c => { c with attempts := 0 }
  unfold Machine.promote Point.promoted
  dsimp only
  cases expired : nv.expired with
  | false =>
    rw [if_neg Bool.false_ne_true, if_neg Bool.false_ne_true]
    exact (reset.waitAgain hg nv.issued nv.deadline).cast rfl rfl (funext fun p => by simp)
  | true =>
    rw [if_pos rfl, if_pos rfl]
    have failed := (reset.commandSet fun c => { c with stand := .failed nv.issued .expired }).closed nv.issued (.failed .expired 0)
    exact failed.cast rfl rfl (funext fun p => by rw [Bool.true_and])

/-- The desired value is closed, and a next value takes its place. -/
theorem Becomes.closedAs {y : Stand} {n : Nat} (h : Becomes i g s (pt.commanded { c with stand := y, attempts := n }) x notes t)
    (hg : pt.segment = g) (rests : y.isQueued = false) (d : Issued) (next : Option NextValue) (close : Close) :
    Becomes i g s (pt.commanded { c with stand := (pt.closedAs next y n close).1, attempts := (pt.closedAs next y n close).2.1 })
      (x.requeued i (pt.closedAs next y n close).1)
      (fun p => notes p ++ pt.closeNotes (s.handle i) d next (pt.closedAs next y n close) p)
      (promoteIfAny i next (Machine.closeCommand i d close t)) := by
  have closed := h.closed d close
  cases next with
  | none => exact closed.cast rfl (Segment.requeued_idle rests x i).symm (funext fun p => by simp [Point.closeNotes, Point.closedAs])
  | some nv =>
    exact (closed.promote hg nv).cast rfl rfl (funext fun p => by simp [Point.closeNotes, Point.closedAs, List.append_assoc])

theorem Becomes.undone (h : Becomes i g s (pt.commanded c) x notes t) (hg : pt.segment = g) (d : Issued) (next : Option NextValue) :
    Becomes i g s (pt.commanded { c with
        stand := (pt.undoneAs d next c.attempts).1, attempts := (pt.undoneAs d next c.attempts).2.1 })
      (x.requeued i (pt.undoneAs d next c.attempts).1)
      (fun p => notes p ++ pt.closeNotes (s.handle i) d next (pt.undoneAs d next c.attempts) p) (stepUndone i d next t) := by
  cases next with
  | none => exact (h.waitAgain hg d none).cast rfl rfl (funext fun p => by simp [Point.closeNotes, Point.undoneAs])
  | some nv =>
    exact ((h.closed d .superseded).promote hg nv).cast rfl rfl
      (funext fun p => by simp [Point.closeNotes, Point.undoneAs, Point.closedAs, List.append_assoc])

end Becomes

/-- The command is on its way with a desired value and a next value: WRITING or VERIFYING. -/
def Command.delivers (c : Command) (d : Issued) (next : Option NextValue) : Prop :=
  c.stand = .writing d next ∨ c.stand = .verifying d next

section Steps
variable {i : SlotNo} {g : SegId} {s t : State} {pt : Point} {c : Command} {x : Segment} {notes : Port → List Note} {d : Issued}
  {next : Option NextValue}

theorem delivering_of_delivers (h : c.delivers d next) : c.stand.delivering = some (d, next) := by
  rcases h with e | e <;> rw [e] <;> rfl

theorem Becomes.notAnAttempt (h : Becomes i g s (pt.commanded c) x notes t) (hg : pt.segment = g) (hd : c.delivers d next) :
    Becomes i g s (pt.commanded { c with
        stand := (pt.undoneAs d next c.attempts).1, attempts := (pt.undoneAs d next c.attempts).2.1 })
      (x.requeued i (pt.undoneAs d next c.attempts).1)
      (fun p => notes p ++ pt.closeNotes (s.handle i) d next (pt.undoneAs d next c.attempts) p) (Machine.notAnAttempt i t) := by
  have stand : t.stand i = c.stand := h.stand.trans (stand_of_some rfl)
  rw [notAnAttempt_eq (by rw [stand]; exact hd)]
  exact h.undone hg d next

theorem Becomes.attempts (h : Becomes i g s (pt.commanded c) x notes t) : t.attempts i = c.attempts := by
  obtain ⟨m, hm⟩ := h.point
  unfold State.attempts
  rw [hm]
  rfl

theorem Becomes.failedAttempt (h : Becomes i g s (pt.commanded c) x notes t) (hg : pt.segment = g) (hd : c.delivers d next)
    (cause : FailCause) :
    Becomes i g s (pt.commanded { c with
        stand := (pt.attemptAs c d next cause).1, attempts := (pt.attemptAs c d next cause).2.1 })
      (x.requeued i (pt.attemptAs c d next cause).1)
      (fun p => notes p ++ pt.closeNotes (s.handle i) d next (pt.attemptAs c d next cause) p) (Machine.failedAttempt i cause t) := by
  have stand : t.stand i = c.stand := h.stand.trans (stand_of_some rfl)
  have counted := h.commandSet fun c' => { c' with attempts := c.attempts + 1 }
  unfold Machine.failedAttempt Point.attemptAs
  rw [stand, delivering_of_delivers hd]
  dsimp only
  rw [h.attempts]
  by_cases few : c.attempts < 2
  · rw [if_pos few, if_pos (show c.attempts + 1 < 3 by omega)]
    exact counted.undone hg d next
  · rw [if_neg few, if_neg (show ¬ c.attempts + 1 < 3 by omega)]
    exact (counted.commandSet fun c' => { c' with stand := .failed d cause }).closedAs hg rfl d next _

theorem Becomes.confirm (h : Becomes i g s (pt.commanded c) x notes t) (hg : pt.segment = g) (d : Issued) (next : Option NextValue) :
    Becomes i g s (pt.commanded { c with
        stand := (pt.closedAs next (.confirmed d) c.attempts (.confirmed c.attempts)).1
        attempts := (pt.closedAs next (.confirmed d) c.attempts (.confirmed c.attempts)).2.1
        confirmedValue := some d.value })
      (x.requeued i (pt.closedAs next (.confirmed d) c.attempts (.confirmed c.attempts)).1)
      (fun p => notes p ++ pt.closeNotes (s.handle i) d next (pt.closedAs next (.confirmed d) c.attempts (.confirmed c.attempts)) p)
      (Machine.confirm i d next t) := by
  have confirmed := h.commandSet fun c' => { c' with stand := .confirmed d, confirmedValue := some d.value }
  unfold Machine.confirm
  dsimp only
  rw [h.attempts]
  exact Becomes.closedAs (c := { c with confirmedValue := some d.value }) (y := .confirmed d) (n := c.attempts) confirmed hg rfl d
    next _

theorem Becomes.writeAccepted (h : Becomes i g s (pt.commanded c) x notes t) (hg : pt.segment = g) (hd : c.stand = .writing d next)
    {r : Stand × Nat × Option Close}
    (hr : r = if pt.state = .active then (.verifying d next, c.attempts, none) else pt.undoneAs d next c.attempts) {pt' : Point}
    (sameState : pt'.state = pt.state) :
    Becomes i g s (pt.commanded { c with stand := r.1, attempts := r.2.1 }) (x.requeued i r.1)
      (fun p => notes p ++ pt.closeNotes (s.handle i) d next r p) (Machine.writeAccepted i pt' t) := by
  have stand : t.stand i = c.stand := h.stand.trans (stand_of_some rfl)
  unfold Machine.writeAccepted
  rw [stand, hd]
  dsimp only
  rw [hr]
  by_cases active : pt.state = .active
  · rw [if_pos ((isActive_iff pt').mpr (sameState.trans active)), if_pos active]
    exact (h.commandSet fun c => { c with stand := .verifying d next }).cast rfl (Segment.requeued_idle rfl x i).symm
      (funext fun p => by simp [Point.closeNotes])
  · rw [if_neg (mt (isActive_iff pt').mp fun e => active (sameState.symm.trans e)), if_neg active]
    exact h.undone hg d next

end Steps

end Sys2Proof.Machine

/-! The end of a WRITE or VERIFY as a whole: the record, its collections and the notifications (R44 to R46, R70, R76 to R82, R85, R89). -/
namespace Sys2Proof.Machine

set_option Elab.async false

/-- The record after a WRITE or VERIFY: the value that a good VERIFY has read, and the command as the step ends with it. -/
def Point.delivered (pt : Point) (cmd : Command) (value confirmed : Option Value) (r : Stand × Nat × Option Close) (now : Time) :
    Point :=
  (value.elim { pt with inFlight := none } fun v => ({ pt with inFlight := none } : Point).storeGood v now).commanded
    { cmd with stand := r.1, attempts := r.2.1, confirmedValue := confirmed }

/-- The due time with which a WRITE's or VERIFY's point re-enters its schedule (R89). -/
def TxOutcome.dueAgain (o : TxOutcome) (start : Option Due) (now : Time) : Due :=
  if o.fault? = none then start.getD ⟨now, false⟩ else ⟨now, false⟩

/-- The QUALITY notification of a good VERIFY to port `p` (R44, R45). -/
def Point.verifyNotes (pt : Point) (h : Handle) (value : Option Value) (p : Port) : List Note :=
  noteIf (value.isSome && (decide (pt.quality ≠ .good) && (pt.subscriptions.get p).quality))
    (.quality h pt.quality .good 0 (goodReadCause pt.quality))

/-- A WRITE or VERIFY of the point `pt` in slot `i` with the command `cmd` has ended, from `n` to `f`, with the command state, the
attempts and the close `r`. -/
def DeliveryEnd (i : SlotNo) (n : State) (pt : Point) (cmd : Command) (d : Issued) (next : Option NextValue) (o : TxOutcome)
    (value confirmed : Option Value) (r : Stand × Nat × Option Close) (f : State) : Prop :=
  Becomes i pt.segment n (pt.delivered cmd value confirmed r n.clock)
    (if n.wantsEntry (pt.delivered cmd value confirmed r n.clock) then
      ((n.segment pt.segment).requeued i r.1).entered i (o.dueAgain (pt.inFlight.bind (·.startDue)) n.clock) n.clock
    else (n.segment pt.segment).requeued i r.1)
    (fun p => pt.verifyNotes (n.handle i) value p ++ pt.closeNotes (n.handle i) d next r p) f

section Ends
variable {i : SlotNo} {n : State} {pt : Point} {cmd : Command} {d : Issued} {next : Option NextValue} {o : TxOutcome}

theorem Becomes.reenterDelivery {g : SegId} {s t : State} {x : Segment} {notes : Port → List Note} (h : Becomes i g s pt x notes t)
    (hg : pt.segment = g) (o : TxOutcome) (start : Option Due) :
    Becomes i g s pt (if s.wantsEntry pt then x.entered i (o.dueAgain start s.clock) s.clock else x) notes
      (Machine.reenterDelivery o i start t) := by
  have now : t.dueNow = ⟨s.clock, false⟩ := congrArg (Due.mk · false) h.clock
  unfold Machine.reenterDelivery TxOutcome.dueAgain
  cases fault : o.fault? with
  | none => rw [if_pos rfl, now]; exact h.reenter hg _
  | some cause =>
    rw [if_neg (Option.some_ne_none cause), now]
    exact h.reenter hg _

theorem delivered_segment (value confirmed : Option Value) (r : Stand × Nat × Option Close) (now : Time) :
    (pt.delivered cmd value confirmed r now).segment = pt.segment := by cases value <;> rfl

theorem Becomes.landedWith (hp : n.point? i = some pt) (hc : pt.command = some cmd) :
    Becomes i pt.segment n (({ pt with inFlight := none } : Point).commanded cmd) (n.segment pt.segment) (fun _ => [])
      (n.setPoint i { pt with inFlight := none }) := by
  rw [Point.commanded_self (pt := { pt with inFlight := none }) hc]
  exact Becomes.landed hp

/-- The step's effects, then the re-entry. -/
theorem deliveryEnd_of {value confirmed : Option Value} {r : Stand × Nat × Option Close} {t : State}
    (effects : Becomes i pt.segment n (pt.delivered cmd value confirmed r n.clock) ((n.segment pt.segment).requeued i r.1)
      (fun p => pt.verifyNotes (n.handle i) value p ++ pt.closeNotes (n.handle i) d next r p) t) :
    DeliveryEnd i n pt cmd d next o value confirmed r (Machine.reenterDelivery o i (pt.inFlight.bind (·.startDue)) t) :=
  effects.reenterDelivery (delivered_segment value confirmed r n.clock) o _

/-- A step without a good read: its effects have moved the command alone. -/
theorem deliveryEnd_of_command {confirmed : Option Value} (same : cmd.confirmedValue = confirmed) {r : Stand × Nat × Option Close}
    {t : State} {notes : Port → List Note}
    (effects : Becomes i pt.segment n
      (({ pt with inFlight := none } : Point).commanded { cmd with stand := r.1, attempts := r.2.1 })
      ((n.segment pt.segment).requeued i r.1) notes t) (hn : notes = fun p => [] ++ pt.closeNotes (n.handle i) d next r p) :
    DeliveryEnd i n pt cmd d next o none confirmed r (Machine.reenterDelivery o i (pt.inFlight.bind (·.startDue)) t) := by
  refine deliveryEnd_of (effects.cast ?_ rfl ?_)
  · rw [Point.delivered, ← same]
    rfl
  · rw [hn]
    rfl

/-- A failed attempt is one of the answers of the link, as a WRITE's so a VERIFY's (TABLE 4-4). -/
theorem effects_attempt {cause : FailCause}
    (h : (o, cause) ∈ [(TxOutcome.noNode, FailCause.noNode), (.noAccept, .noAccept), (.checkFail, .check)]) (i : SlotNo) (pt : Point) :
    writeEffects i pt o = failedAttempt i cause ∧ verifyEffects i pt o = failedAttempt i cause := by
  simp only [List.mem_cons, Prod.mk.injEq, List.not_mem_nil, or_false] at h
  rcases h with ⟨rfl, rfl⟩ | ⟨rfl, rfl⟩ | ⟨rfl, rfl⟩ <;> exact ⟨rfl, rfl⟩

/-- A segment fault is no attempt, of a WRITE or of a VERIFY (R79). -/
theorem effects_fault (fault : o.fault? ≠ none) (i : SlotNo) (pt : Point) :
    writeEffects i pt o = notAnAttempt i ∧ verifyEffects i pt o = notAnAttempt i := by
  cases o with
  | contest | timeout | stuck => exact ⟨rfl, rfl⟩
  | _ => exact absurd rfl fault

section Write
variable (hp : n.point? i = some pt) (hc : pt.command = some cmd) (going : ∀ q, pt.state ≠ .retiring q)
include hp hc going

theorem finishWrite_done (hd : cmd.stand = .writing d next) (data : List Byte) {r : Stand × Nat × Option Close}
    (hr : r = if pt.state = .active then (.verifying d next, cmd.attempts, none) else pt.undoneAs d next cmd.attempts) :
    DeliveryEnd i n pt cmd d next (.done data) none cmd.confirmedValue r (finishWrite i (.done data) n) := by
  rw [finishWrite, finishPoint_eq hp going]
  exact deliveryEnd_of_command rfl ((Becomes.landedWith hp hc).writeAccepted rfl hd hr rfl) rfl

theorem finishWrite_attempt (hd : cmd.delivers d next) {cause : FailCause}
    (h : (o, cause) ∈ [(TxOutcome.noNode, FailCause.noNode), (.noAccept, .noAccept), (.checkFail, .check)]) :
    DeliveryEnd i n pt cmd d next o none cmd.confirmedValue (pt.attemptAs cmd d next cause) (finishWrite i o n) := by
  rw [finishWrite, finishPoint_eq hp going]
  rw [(effects_attempt h i pt).1]
  exact deliveryEnd_of_command (r := pt.attemptAs cmd d next cause) rfl ((Becomes.landedWith hp hc).failedAttempt rfl hd cause) rfl

theorem finishWrite_fault (hd : cmd.delivers d next) (fault : o.fault? ≠ none) :
    DeliveryEnd i n pt cmd d next o none cmd.confirmedValue (pt.undoneAs d next cmd.attempts) (finishWrite i o n) := by
  rw [finishWrite, finishPoint_eq hp going]
  rw [(effects_fault fault i pt).1]
  exact deliveryEnd_of_command (r := pt.undoneAs d next cmd.attempts) rfl ((Becomes.landedWith hp hc).notAnAttempt rfl hd) rfl

theorem finishVerify_attempt (hd : cmd.delivers d next) {cause : FailCause}
    (h : (o, cause) ∈ [(TxOutcome.noNode, FailCause.noNode), (.noAccept, .noAccept), (.checkFail, .check)]) :
    DeliveryEnd i n pt cmd d next o none cmd.confirmedValue (pt.attemptAs cmd d next cause) (finishVerify i o n) := by
  rw [finishVerify, finishPoint_eq hp going]
  rw [(effects_attempt h i pt).2]
  exact deliveryEnd_of_command (r := pt.attemptAs cmd d next cause) rfl ((Becomes.landedWith hp hc).failedAttempt rfl hd cause) rfl

theorem finishVerify_fault (hd : cmd.delivers d next) (fault : o.fault? ≠ none) :
    DeliveryEnd i n pt cmd d next o none cmd.confirmedValue (pt.undoneAs d next cmd.attempts) (finishVerify i o n) := by
  rw [finishVerify, finishPoint_eq hp going]
  rw [(effects_fault fault i pt).2]
  exact deliveryEnd_of_command (r := pt.undoneAs d next cmd.attempts) rfl ((Becomes.landedWith hp hc).notAnAttempt rfl hd) rfl

/-- A good VERIFY stores its value, with the QUALITY notification it brings, before its comparison (R44, R46). -/
theorem finishVerify_done (hd : cmd.stand = .verifying d next) (data : List Byte) {v : Value}
    (hv : v = extendValue pt.width pt.signed (assembleBytes data)) :
    (v = d.value → DeliveryEnd i n pt cmd d next (.done data) (some v) (some v)
      (pt.closedAs next (.confirmed d) cmd.attempts (.confirmed cmd.attempts)) (finishVerify i (.done data) n)) ∧
    (v ≠ d.value → DeliveryEnd i n pt cmd d next (.done data) (some v) cmd.confirmedValue (pt.attemptAs cmd d next .mismatch)
      (finishVerify i (.done data) n)) := by
  rw [finishVerify, finishPoint_eq hp going]
  change (_ → DeliveryEnd _ _ _ _ _ _ _ _ _ _ (Machine.reenterDelivery _ i _ (compareVerify i _ (goodRead i _ _)))) ∧
    (_ → DeliveryEnd _ _ _ _ _ _ _ _ _ _ (Machine.reenterDelivery _ i _ (compareVerify i _ (goodRead i _ _))))
  rw [← hv]
  have read : Becomes i pt.segment n ((({ pt with inFlight := none } : Point).storeGood v n.clock).commanded cmd)
      (n.segment pt.segment) (fun p => pt.verifyNotes (n.handle i) (some v) p)
      (goodRead i v (n.setPoint i { pt with inFlight := none })) := by
    refine ((Becomes.landed hp).goodRead v).cast ?_ rfl (funext fun p => List.nil_append _)
    exact (Point.commanded_self (pt := ({ pt with inFlight := none } : Point).storeGood v n.clock) hc).symm
  have stand : (goodRead i v (n.setPoint i { pt with inFlight := none })).stand i = cmd.stand := read.stand.trans (stand_of_some rfl)
  unfold compareVerify
  rw [stand, delivering_of_delivers (.inr hd)]
  dsimp only
  refine ⟨fun same => ?_, fun differs => ?_⟩
  · rw [if_pos (by rw [same]; exact beq_self_eq_true d.value)]
    refine deliveryEnd_of ((read.confirm rfl d next).cast ?_ rfl rfl)
    rw [same]
    rfl
  · rw [if_neg (by simpa using Ne.symm differs)]
    exact deliveryEnd_of ((read.failedAttempt rfl (.inr hd) .mismatch).cast rfl rfl rfl)

end Write

end Ends

end Sys2Proof.Machine

/-! The end of a WRITE or VERIFY moves the command on, with its notifications in order (R44 to R46, R76 to R80, R85, R89). -/
namespace Sys2Proof.Machine

set_option Elab.async false

/-! ### The record, the collections and the notifications behind a delivery step -/

section Delivered
variable {pt : Point} {cmd : Command} (value confirmed : Option Value) (r : Stand × Nat × Option Close)

theorem delivered_wantsEntry (n : State) (now : Time) :
    n.wantsEntry (pt.delivered cmd value confirmed r now) = n.wantsEntry { pt with inFlight := none } := by
  cases value <;> rfl

theorem delivered_standing (hc : pt.command = some cmd) (now : Time) :
    (pt.delivered cmd value confirmed r now).standing =
      { pt.standing with
        inFlight := none
        command := some { cmd with stand := r.1, attempts := r.2.1, confirmedValue := confirmed }
        value := value.elim pt.value fun v => some ⟨v, now, false⟩
        failures := if value = none then pt.failures else 0
        quality := if value = none then pt.quality else .good } := by
  cases value <;>
    simp only [Point.delivered, Point.commanded, Point.storeGood, Point.standing, Point.identity, Point.isOutput, hc, Option.elim,
      Option.isSome_some, Option.map_some, Bool.not_true, Bool.and_false, Bool.false_eq_true, if_false, if_true, reduceCtorEq]

theorem delivered_rest (now : Time) : (pt.delivered cmd value confirmed r now).fresh = pt.fresh ∧
    (pt.delivered cmd value confirmed r now).rhythmDue = pt.rhythmDue := by
  cases value <;> exact ⟨rfl, rfl⟩

theorem requeued_commandQueue (x : Segment) (i : SlotNo) (y : Stand) :
    (∀ v due, y = .queued v due → (x.requeued i y).commandQueue = i :: x.commandQueue) ∧
    ((∀ v due, y ≠ .queued v due) → (x.requeued i y).commandQueue = x.commandQueue) := by
  refine ⟨fun v due queued => by rw [queued]; rfl, fun other => ?_⟩
  cases y with
  | queued v due => exact absurd rfl (other v due)
  | _ => rfl

theorem requeued_schedule (x : Segment) (i : SlotNo) (y : Stand) : (x.requeued i y).schedule = x.schedule := by
  unfold Segment.requeued
  split <;> rfl

theorem verifyNotes_length (h : Handle) (p : Port) : (pt.verifyNotes h value p).length ≤ 1 := noteIf_length _ _

theorem closeNotes_length (h : Handle) (d : Issued) (next : Option NextValue) (p : Port) : (pt.closeNotes h d next r p).length ≤ 2 := by
  obtain ⟨stand, n, close⟩ := r
  cases close with
  | none => exact Nat.zero_le 2
  | some close =>
    cases next with
    | none => simpa [Point.closeNotes] using Nat.le_succ_of_le (noteIf_length _ _)
    | some nv => exact append_noteIf_length (noteIf_length _ _) _ _

end Delivered

/-! ### A delivery step's completion -/

section Completion
variable {g : SegId} {i : SlotNo} {x : Address} {w : Work} {start released : Time} {pos : LinkPos} {levels : List Bool}
  {o : TxOutcome} {pt : Point} {cmd : Command} {d : Issued} {next : Option NextValue} {value confirmed : Option Value}
  {r : Stand × Nat × Option Close} {s : State} {c : Instr} {finish : State → State}

/-- The segment's collections behind a delivery step. -/
def Segment.delivered (y : Segment) (n : State) (i : SlotNo) (pt : Point) (o : TxOutcome) (r : Stand × Nat × Option Close) :
    Segment :=
  if n.wantsEntry { pt with inFlight := none } then
    (y.requeued i r.1).entered i (o.dueAgain (pt.inFlight.bind (·.startDue)) n.clock) n.clock
  else y.requeued i r.1

theorem Segment.delivered_commandQueue (y : Segment) (n : State) (o : TxOutcome) (r : Stand × Nat × Option Close) :
    (y.delivered n i pt o r).commandQueue = (y.requeued i r.1).commandQueue := by
  unfold Segment.delivered
  split
  · exact Segment.entered_commandQueue _ _ _ _
  · rfl

theorem Segment.delivered_idle (h : pt.state = .held ∨ pt.period = none) (y : Segment) (n : State) (o : TxOutcome)
    (r : Stand × Nat × Option Close) : (y.delivered n i pt o r).schedule = y.schedule := by
  rw [Segment.delivered, wantsEntry_false (pt := { pt with inFlight := none }) h, if_neg Bool.false_ne_true, requeued_schedule]

theorem delivery_completion (completes : Completes g levels c w) (isTo : w.isTo x) (serves : w.flight.map (·.1) = some i)
    (flight : (s.segment g).transaction = some ⟨w, .onWires start released pos, false⟩)
    (course : w.afterCycles false pos levels = .ended o) (hp : s.point? i = some pt) (going : ∀ q, pt.state ≠ .retiring q)
    (parts : applyOutcome g w o (endTransaction g s) = finish (nodeOutcome g x (some i) o (endTransaction g s)))
    (ends : ∀ n ρ, n.point? i = some { pt with rhythmDue := ρ } →
      DeliveryEnd i n { pt with rhythmDue := ρ } cmd d next o value confirmed r (finish n)) :
    ∃ u n ofNode ρ, exec c s = .next u ∧ (u.segment g).transaction = none ∧ transactionFrame g x w o s u ∧
      (∀ cause, o.fault? = some cause → (u.segment g).state = .recovering ∧ (u.segment g).cause = some cause) ∧
      OwnMet g x i pt (s.nodeStays g x o) s n ofNode ∧ (s.nodeStays g x o → ρ = pt.rhythmDue) ∧
      EndsAs i pt.segment s n u (({ pt with rhythmDue := ρ } : Point).delivered cmd value confirmed r s.clock)
        ((n.segment pt.segment).delivered n i pt o r)
        (fun p => ofNode p ++ (pt.verifyNotes (s.handle i) value p ++ pt.closeNotes (s.handle i) d next r p)) := by
  obtain ⟨ofNode, met⟩ := nodePart hp g x o
  obtain ⟨ρ, hn, hρ⟩ := met.point
  refine ⟨_, _, ofNode, ρ, exec_completion completes flight course, takeCompletion_transaction g o s _,
    transactionFrame_takeCompletion (x := x) w isTo _ o s ?_, fun cause fault => takeCompletion_fault g o s fault, met,
    fun stays => hρ.resolve_right fun both => both.2.2 stays, ?_⟩
  · intro j hj qt p hq
    obtain rfl : i = j := Option.some.inj (serves.symm.trans hj)
    obtain rfl := Option.some.inj (hp.symm.trans hq)
    exact going p
  · have ended := endsAs_of_becomes met (ends _ ρ hn) g o
    rw [delivered_wantsEntry, met.clock, met.handle i] at ended
    rw [takeCompletion, if_neg Bool.false_ne_true, parts, Segment.delivered, met.clock]
    exact ended

end Completion

end Sys2Proof.Machine

/-! The end of a WRITE or VERIFY moves the command on (R44 to R46, R76 to R80, R85, R89). -/
namespace Sys2Proof.Machine

set_option Elab.async false

/-- Where a delivery step's point stands in its schedule, which it was out of (R89, TABLE 2-2). -/
theorem delivered_entry {y : Segment} {n : State} {i : SlotNo} {pt : Point} {o : TxOutcome} {r : Stand × Nat × Option Close}
    {k : FlightKind} {began : Due} {period : Interval} (flying : pt.inFlight = some ⟨k, some began⟩)
    (isPeriod : pt.period = some period) (active : pt.state = .active) (out : y.schedule.find? (·.slot == i) = none) :
    (n.nodeLost pt.segment pt.address = true → (y.delivered n i pt o r).schedule.find? (·.slot == i) = none) ∧
    (n.nodeLost pt.segment pt.address = false → (y.delivered n i pt o r).schedule.find? (·.slot == i) =
      some ⟨i, o.dueAgain (some began) n.clock, (o.dueAgain (some began) n.clock).reachedAt n.clock⟩) := by
  have wants : n.wantsEntry { pt with inFlight := none } = !n.nodeLost pt.segment pt.address := by
    simp [State.wantsEntry, Point.isActive, Point.scheduledKind, active, isPeriod]
  have outside : (y.requeued i r.1).schedule.find? (·.slot == i) = none := by rw [requeued_schedule]; exact out
  unfold Segment.delivered
  rw [wants, flying]
  refine ⟨fun lost => ?_, fun here => ?_⟩
  · rw [lost]
    exact outside
  · rw [here]
    exact entered_find outside _ _

theorem dueAgain_clean {o : TxOutcome} (h : o.fault? = none) (d : Due) (now : Time) : o.dueAgain (some d) now = d := if_pos h

theorem dueAgain_fault {o : TxOutcome} (h : o.fault? ≠ none) (d : Option Due) (now : Time) : o.dueAgain d now = ⟨now, false⟩ :=
  if_neg h

/-- The closes of a value and of a next value promoted expired, to a port that `reaches` tells of (R46, R85). -/
theorem closeNotes_eq (pt : Point) (h : Handle) (d : Issued) (next : Option NextValue) (stand : Stand) (n : Nat) (p : Port) :
    pt.closeNotes h d next (stand, n, none) p = [] ∧
    ∀ close, pt.closeNotes h d next (stand, n, some close) p =
      (if pt.reaches d p then [Note.command h d.value close] else []) ++
        next.elim [] fun nv => if nv.expired = true ∧ pt.reaches nv.issued p = true then
          [Note.command h nv.issued.value (.failed .expired 0)] else [] := by
  refine ⟨rfl, fun close => congrArg (noteIf (pt.reaches d p) (.command h d.value close) ++ ·) ?_⟩
  cases next with
  | none => rfl
  | some nv =>
    simp only [Option.elim, noteIf, Bool.and_eq_true]

/-- Settles O51. -/
theorem deliveryStepMovesTheCommand : Obligations.DeliveryStepMovesTheCommand := by
  unfold Obligations.DeliveryStepMovesTheCommand
  intro g i x item w start released pos levels pt cmd d next s hp hc going waiting waitingEq closed closedEq undone undoneEq attempt
    attemptEq ends endsEq
  have isClosed : closed = pt.closedAs next := by
    rw [closedEq, waitingEq]
    funext stand n close
    cases next <;> rfl
  have isUndone : undone = pt.undoneAs d next := by
    rw [undoneEq, waitingEq, isClosed]
    rfl
  have isAttempt : attempt = pt.attemptAs cmd d next := by
    rw [attemptEq, isClosed, isUndone]
    rfl
  have holds : ∀ {c : Instr} {work : Work} {o : TxOutcome} {value confirmed : Option Value} {r : Stand × Nat × Option Close}
      (finish : State → State), Completes g levels c work → work.isTo x → work.flight.map (·.1) = some i →
      (s.segment g).transaction = some ⟨work, .onWires start released pos, false⟩ →
      work.afterCycles false pos levels = .ended o →
      applyOutcome g work o (endTransaction g s) = finish (nodeOutcome g x (some i) o (endTransaction g s)) →
      (∀ n ρ, n.point? i = some { pt with rhythmDue := ρ } →
        DeliveryEnd i n { pt with rhythmDue := ρ } cmd d next o value confirmed r (finish n)) →
      ends c o value confirmed r := by
    intro c work o value confirmed r finish completes isTo serves flight course parts ended
    obtain ⟨u, n, ofNode, ρ, run, idle, frame, recovering, met, rhythm, endsAs⟩ :=
      delivery_completion completes isTo serves flight course hp going parts ended
    obtain ⟨m, hm⟩ := endsAs.point
    obtain ⟨fresh, rhythmDue⟩ := delivered_rest (pt := { pt with rhythmDue := ρ }) (cmd := cmd) value confirmed r s.clock
    obtain ⟨queued, unqueued⟩ := requeued_commandQueue (n.segment pt.segment) i r.1
    have queue : ∀ h, (u.segment h).commandQueue =
        if h = pt.segment then ((n.segment pt.segment).requeued i r.1).commandQueue else (s.segment h).commandQueue := fun h =>
      (endsAs.queue h).trans (by rw [Segment.delivered_commandQueue])
    rw [met.queue] at queued unqueued
    rw [endsEq]
    refine ⟨u, _, run, hm, idle, standingsKept_of_frame serves frame, fun work' t isFlight isWork => ?_, fresh,
      fun stays => ⟨rhythmDue.trans (rhythm stays), fun resting h => ?_⟩,
      delivered_standing (pt := { pt with rhythmDue := ρ }) value confirmed r hc s.clock,
      fun v due isQueued => ((queue _).trans (if_pos rfl)).trans (queued v due isQueued),
      fun other => ((queue _).trans (if_pos rfl)).trans (unqueued other), fun h other => (queue h).trans (if_neg other),
      recovering, fun k began period flying isPeriod active out => ?_, fun p on room reaches reachesEq => ?_⟩
    · obtain rfl := Option.some.inj (flight.symm.trans isFlight)
      rw [isWork]
      exact frame
    · rw [endsAs.entry h, ← met.entry stays h]
      split
      · next same => rw [Segment.delivered_idle resting, same, State.entryOf?]
      · rfl
    · have outside := met.out (by rw [flying]; exact nofun) out
      have entry := (endsAs.entry pt.segment).trans (if_pos rfl)
      obtain ⟨whenLost, whenHere⟩ := delivered_entry (n := n) (o := o) (r := r) flying isPeriod active outside
      rw [endsAs.nodeLost, entry]
      refine ⟨whenLost, fun here => ⟨fun clean => ?_, fun faulty => ?_⟩⟩
      · rw [whenHere here, dueAgain_clean clean, met.clock]
        rfl
      · rw [whenHere here, dueAgain_fault faulty, reachedAt_now, met.clock]
    · refine ⟨ofNode p, fun stays => met.silent stays p, ((endsAs.told p).queue on ?_).trans ?_⟩
      · have few : (ofNode p).length ≤ s.pointsNaming g x + 1 := met.few p
        have read := verifyNotes_length (pt := pt) value (s.handle i) p
        have closes := closeNotes_length (pt := pt) r (s.handle i) d next p
        rw [List.length_append, List.length_append]
        omega
      · refine congrArg (fun l : List Note => (s.notifyOf p).queue ++
          l.zipIdx.map fun n => (⟨(s.notifyOf p).nextSeq + BitVec.ofNat 16 n.2, s.clock, n.1⟩ : Entry)) ?_
        have isReaches : reaches = fun v => pt.reaches v p := reachesEq
        rw [isReaches, List.append_assoc, List.append_assoc]
        refine congrArg (ofNode p ++ ·) (congrArg₂ (· ++ ·) ?_ ?_)
        · rw [Point.verifyNotes, noteIf, goodReadCause_eq]
          refine if_congr ?_ rfl rfl
          simp [Option.isSome_iff_ne_none]
        · obtain ⟨stand, n, close⟩ := r
          obtain ⟨quiet, told⟩ := closeNotes_eq pt (s.handle i) d next stand n p
          cases close with
          | none => exact quiet
          | some close =>
            rw [told close]
            cases next <;> rfl
  rw [isClosed, isUndone, isAttempt]
  refine ⟨fun v o flight hd course => ?_, fun o flight hd course => ?_⟩
  · have write : ∀ {r : Stand × Nat × Option Close}, (∀ n ρ, n.point? i = some { pt with rhythmDue := ρ } →
        DeliveryEnd i n { pt with rhythmDue := ρ } cmd d next o none cmd.confirmedValue r (finishWrite i o n)) →
        ends (.writeCompletion g levels) o none cmd.confirmedValue r := fun h =>
      holds (finishWrite i o) completes_write rfl rfl flight course rfl h
    refine ⟨fun data done active => ?_, fun data done held => ?_, fun refused => ?_, fun refused => ?_, fun faulty => ?_⟩
    · subst done
      exact write fun n ρ hn => finishWrite_done hn hc going hd data (if_pos active).symm
    · subst done
      have inactive : pt.state ≠ .active := by rw [held]; exact nofun
      exact write fun n ρ hn => finishWrite_done hn hc going hd data (if_neg inactive).symm
    · exact write fun n ρ hn => finishWrite_attempt hn hc going (.inl hd) (cause := .noNode) (by simp [refused])
    · exact write fun n ρ hn => finishWrite_attempt hn hc going (.inl hd) (cause := .noAccept) (by simp [refused])
    · exact write fun n ρ hn => finishWrite_fault hn hc going (.inl hd) faulty
  · have verify : ∀ {value confirmed : Option Value} {r : Stand × Nat × Option Close},
        (∀ n ρ, n.point? i = some { pt with rhythmDue := ρ } →
          DeliveryEnd i n { pt with rhythmDue := ρ } cmd d next o value confirmed r (finishVerify i o n)) →
        ends (.verifyCompletion g levels) o value confirmed r := fun h =>
      holds (finishVerify i o) completes_verify rfl rfl flight course rfl h
    have failed : ∀ cause : FailCause,
        (o, cause) ∈ [(TxOutcome.noNode, FailCause.noNode), (.noAccept, .noAccept), (.checkFail, .check)] →
        ends (.verifyCompletion g levels) o none cmd.confirmedValue (pt.attemptAs cmd d next cause) := fun cause h =>
      verify fun n ρ hn => finishVerify_attempt hn hc going (.inr hd) h
    refine ⟨fun data v done hv => ⟨fun same => ?_, fun differs => ?_⟩, fun refused => failed _ (by simp [refused]),
      fun refused => failed _ (by simp [refused]), fun refused => failed _ (by simp [refused]), fun faulty => ?_⟩
    · subst done
      exact verify fun n ρ hn => (finishVerify_done hn hc going hd data hv).1 same
    · subst done
      exact verify fun n ρ hn => (finishVerify_done hn hc going hd data hv).2 differs
    · exact verify fun n ρ hn => finishVerify_fault hn hc going (.inr hd) faulty

end Sys2Proof.Machine

/-! What follows the node's part of an outcome: the point's, the probe's or the scan's own part (R34, R94, R98, R142). -/
namespace Sys2Proof.Machine

set_option Elab.async false

/-- The slot of the point that the work serves. -/
def Work.slot (w : Work) : Option SlotNo := w.flight.map (·.1)

/-- The part of an outcome that follows the node's. -/
def Work.finish (g : SegId) (o : TxOutcome) : Work → State → State
  | .read .verify i _ _ _ => finishVerify i o
  | .read kind i _ _ _ => finishPoll kind i o
  | .write i _ _ _ _ => finishWrite i o
  | .probe x => probeEffects g x o
  | .scanStep x => scanEffects g x o
  | .roll => rollEffects g o

theorem applyOutcome_eq {g : SegId} {x : Address} {w : Work} (isTo : w.isTo x) (o : TxOutcome) (s : State) :
    applyOutcome g w o s = w.finish g o (nodeOutcome g x w.slot o s) := by
  cases w with
  | read kind _ _ _ _ => subst isTo; cases kind <;> rfl
  | roll => exact isTo.elim
  | _ => subst isTo; rfl

/-! ### What it leaves alone -/

/-- What the later part of an outcome leaves alone: the queues' entries, the directory but for a probe's entry, and every slot but the
one the work serves. -/
structure Finishes (g : SegId) (x : Address) (w : Work) (n f : State) : Prop where
  kept : Kept n f
  node : (∀ y, w ≠ .probe y) → f.nodeEntry? g x = n.nodeEntry? g x
  point : ∀ j, w.slot ≠ some j → f.point? j = n.point? j
  entry : ∀ j, w.slot ≠ some j → ∀ h, f.entryOf? h j = n.entryOf? h j

section Finish
variable {g : SegId} {x : Address} {w : Work} {n f : State} {o : TxOutcome}

/-- It touches no key of the directory, so none at `x` as it is beside another key. -/
theorem finishes_of_beside (kept : Kept n f) (beside : ∀ y, Beside w.slot (fun _ => False) g y n f) : Finishes g x w n f where
  kept := kept
  node _ := (beside (x + 1)).node g x fun same => by
    have : x = x + 1 := congrArg Prod.snd same
    bv_omega
  point j hj := (beside x).point j ⟨fun e => hj e.symm, id⟩
  entry j hj := (beside x).entry j ⟨fun e => hj e.symm, id⟩

theorem kept_finishPoint {i : SlotNo} {effects : Point → State → State} {reentry : Option Due → State → State}
    (effect : ∀ pt s, Kept s (effects pt s)) (enters : ∀ d s, Kept s (reentry d s))
    (alive : ∀ pt q, n.point? i = some pt → pt.state ≠ .retiring q) : Kept n (finishPoint i effects reentry n) := by
  cases hp : n.point? i with
  | none => rw [finishPoint, hp]; exact Kept.refl n
  | some pt =>
    rw [finishPoint_eq hp fun q => alive pt q hp]
    have landed := kept_endFlight i n
    rw [endFlight, State.modPoint_of_some _ _ _ _ hp] at landed
    exact (landed.trans (effect pt _)).trans (enters _ _)

theorem scanEffects_point (j : SlotNo) : (scanEffects g x o n).point? j = n.point? j := by
  have e := congrArg (fun v : State => v.point? j) (scanEffects_frame (g := g) (x := x) o n).1
  exact e

theorem scanEffects_collections (h : SegId) : ((scanEffects g x o n).segment h).schedule = (n.segment h).schedule ∧
    ((scanEffects g x o n).segment h).commandQueue = (n.segment h).commandQueue := by
  obtain ⟨-, segment, -⟩ := scanEffects_frame (g := g) (x := x) o n
  have schedule := congrArg Segment.schedule (segment h)
  have queue := congrArg Segment.commandQueue (segment h)
  exact ⟨schedule, queue⟩

theorem finishes (isTo : w.isTo x) (o : TxOutcome)
    (alive : ∀ i, w.slot = some i → ∀ pt q, n.point? i = some pt → pt.state ≠ .retiring q) : Finishes g x w n (w.finish g o n) := by
  cases w with
  | read kind i z item d =>
    have going := alive i rfl
    have poll : Finishes g x (.read kind i z item d) n (finishPoll kind i o n) := finishes_of_beside
      (kept_finishPoint (fun pt s => kept_pollEffects kind i pt o s) (fun d s => kept_reenterPoll kind o i d s) going)
      fun y => beside_finishPoll rfl kind o n going
    cases kind with
    | verify =>
      exact finishes_of_beside
        (kept_finishPoint (fun pt s => kept_verifyEffects i pt o s) (fun d s => kept_reenterDelivery o i d s) going)
        fun y => beside_finishVerify rfl o n going
    | _ => exact poll
  | write i _ _ _ _ =>
    have going := alive i rfl
    exact finishes_of_beside
      (kept_finishPoint (fun pt s => kept_writeEffects i pt o s) (fun d s => kept_reenterDelivery o i d s) going)
      fun y => beside_finishWrite rfl o n going
  | probe y =>
    have beside : Beside none (fun _ => False) g y n (probeEffects g y o n) := beside_probeEffects o n
    exact ⟨kept_probeEffects g y o n, fun other => absurd rfl (other y), fun j _ => beside.point j ⟨nofun, id⟩,
      fun j _ => beside.entry j ⟨nofun, id⟩⟩
  | scanStep y =>
    refine ⟨kept_scanEffects g y o n, fun _ => ?_, fun j _ => scanEffects_point j, fun j _ h => ?_⟩
    · have directory := congrArg State.directory (scanEffects_frame (g := g) (x := y) o n).1
      have same : (scanEffects g y o n).directory = n.directory := directory
      exact congrArg (fun l : List NodeEntry => l.find? (·.hasKey g x)) same
    · exact congrArg (fun l : List SchedEntry => l.find? (·.slot == j)) (scanEffects_collections h).1
  | roll => exact isTo.elim

end Finish

/-! ### The served point's place in its schedule -/

/-- The point's part puts a point that has an entry in no other place, and none in the schedule whose node is LOST; its rhythm due is
then as the node's part has left it. -/
structure Reseats (i : SlotNo) (pt : Point) (n f : State) : Prop where
  stays : ∀ h e, n.entryOf? h i = some e → f.entryOf? h i = some e
  lost : n.nodeLost pt.segment pt.address = true →
    (∀ h, f.entryOf? h i = n.entryOf? h i) ∧ ∃ q, f.point? i = some q ∧ q.rhythmDue = pt.rhythmDue

section Reseats
variable {i : SlotNo} {n f t : State} {pt q : Point} {x y : Segment} {notes : Port → List Note} {o : TxOutcome}

theorem entered_some {e : SchedEntry} (h : x.schedule.find? (·.slot == i) = some e) (d : Due) (now : Time) :
    x.entered i d now = x := by
  rw [Segment.entered, if_neg (by rw [h]; exact nofun)]

theorem Becomes.reseats (h : Becomes i pt.segment n q x notes f)
    (stays : ∀ e, (n.segment pt.segment).schedule.find? (·.slot == i) = some e → x.schedule.find? (·.slot == i) = some e)
    (lost : n.nodeLost pt.segment pt.address = true → x.schedule = (n.segment pt.segment).schedule ∧ q.rhythmDue = pt.rhythmDue) :
    Reseats i pt n f := by
  have entry : ∀ k, f.entryOf? k i = if k = pt.segment then x.schedule.find? (·.slot == i) else n.entryOf? k i := fun k => by
    split
    · next same => rw [same, State.entryOf?, h.segment]
    · next other => rw [State.entryOf?, h.segment_of_ne other, State.entryOf?]
  refine ⟨fun k e found => ?_, fun isLost => ⟨fun k => ?_, ?_⟩⟩
  · rw [entry]
    split
    · next same => subst same; exact stays e found
    · exact found
  · rw [entry]
    split
    · next same => rw [same, (lost isLost).1, State.entryOf?]
    · rfl
  · obtain ⟨m, hm⟩ := h.point
    exact ⟨_, hm, (lost isLost).2⟩

theorem wantsEntry_lost {s : State} (h : s.nodeLost pt.segment pt.address = true) : s.wantsEntry pt = false := by
  rw [State.wantsEntry, h]
  simp

theorem reseats_read (hp : n.point? i = some pt) (going : ∀ q, pt.state ≠ .retiring q) (kind : ReadKind) (clean : o.fault? = none) :
    Reseats i pt n (finishPoll kind i o n) := by
  obtain ⟨q, x, notes, ends⟩ := readEnd hp going kind o
  obtain ⟨r, y, keeps, -, rhythm, schedule, qEq, xEq⟩ := ends.clean clean
  have segment : r.segment = pt.segment := congrArg Identity.segment keeps.identity
  have address : r.address = pt.address := congrArg Identity.address keeps.identity
  refine ends.own.reseats (fun e found => ?_) fun lost => ?_
  · rw [← schedule] at found
    rw [xEq, Segment.reentered]
    split
    · cases r.period with
      | none => exact found
      | some period => rw [Option.elim, entered_some found]; exact found
    · exact found
  · have idle : n.wantsEntry r = false := wantsEntry_lost (by rw [segment, address]; exact lost)
    rw [xEq, qEq, Segment.reentered, Point.reentered, idle]
    exact ⟨schedule, rhythm⟩

/-- A delivery's effects keep the point's place and its rhythm due. -/
def DeliveryKeeps (i : SlotNo) (pt : Point) (n t : State) : Prop :=
  ∃ q x notes, Becomes i pt.segment n q x notes t ∧ x.schedule = (n.segment pt.segment).schedule ∧
    q.rhythmDue = pt.rhythmDue ∧ q.segment = pt.segment ∧ q.address = pt.address

theorem reseats_of_delivery (h : DeliveryKeeps i pt n t) (start : Option Due) (o : TxOutcome) :
    Reseats i pt n (Machine.reenterDelivery o i start t) := by
  obtain ⟨q, x, notes, becomes, schedule, rhythm, segment, address⟩ := h
  refine (becomes.reenterDelivery segment o start).reseats (fun e found => ?_) fun lost => ?_
  · rw [← schedule] at found
    split
    · rw [entered_some found]; exact found
    · exact found
  · have idle : n.wantsEntry q = false := wantsEntry_lost (by rw [segment, address]; exact lost)
    rw [idle]
    exact ⟨schedule, rhythm⟩

theorem delivers_of_delivering {d : Issued} {next : Option NextValue} (h : pt.stand.delivering = some (d, next)) :
    ∃ c, pt.command = some c ∧ c.delivers d next := by
  cases command : pt.command with
  | none =>
    rw [Point.stand, command] at h
    cases h
  | some c =>
    rw [stand_of_some command] at h
    refine ⟨c, rfl, ?_⟩
    cases stand : c.stand with
    | writing v nv =>
      rw [stand] at h
      cases h
      exact .inl stand
    | verifying v nv =>
      rw [stand] at h
      cases h
      exact .inr stand
    | _ => rw [stand] at h; cases h

end Reseats

end Sys2Proof.Machine

/-! A delivery's effects keep its point's place and rhythm due; the point's part of an outcome as its place in the schedule sees it
(R34, R37, R76 to R80). -/
namespace Sys2Proof.Machine

set_option Elab.async false

section Delivery
variable {i : SlotNo} {n t : State} {pt q : Point} {x : Segment} {notes : Port → List Note} {o : TxOutcome}

/-- The record and its place so far. -/
structure SoFar (i : SlotNo) (pt : Point) (n : State) (q : Point) (x : Segment) (notes : Port → List Note) (t : State) : Prop where
  becomes : Becomes i pt.segment n q x notes t
  schedule : x.schedule = (n.segment pt.segment).schedule
  rhythm : q.rhythmDue = pt.rhythmDue
  segment : q.segment = pt.segment
  address : q.address = pt.address

theorem SoFar.keeps (h : SoFar i pt n q x notes t) : DeliveryKeeps i pt n t :=
  ⟨q, x, notes, h.becomes, h.schedule, h.rhythm, h.segment, h.address⟩

theorem SoFar.stand (h : SoFar i pt n q x notes t) : t.stand i = q.stand := h.becomes.stand

/-- A step that moves a command on its way keeps the place. -/
theorem SoFar.moved {c : Command} {r : Stand} {a : Nat} {cv : Option Value} {notes' : Port → List Note} {u : State}
    (h : SoFar i pt n q x notes t)
    (step : Becomes i pt.segment n (q.commanded { c with stand := r, attempts := a, confirmedValue := cv }) (x.requeued i r) notes' u) :
    DeliveryKeeps i pt n u :=
  ⟨_, _, _, step, (requeued_schedule x i r).trans h.schedule, h.rhythm, h.segment, h.address⟩

theorem SoFar.commanded {c : Command} (h : SoFar i pt n q x notes t) (hc : q.command = some c) :
    Becomes i pt.segment n (q.commanded c) x notes t := by
  rw [Point.commanded_self hc]
  exact h.becomes

theorem SoFar.failedAttempt (h : SoFar i pt n q x notes t) (cause : FailCause) : DeliveryKeeps i pt n (failedAttempt i cause t) := by
  cases going : q.stand.delivering with
  | none =>
    have same : Machine.failedAttempt i cause t = t := by unfold Machine.failedAttempt; rw [h.stand, going]
    rw [same]
    exact h.keeps
  | some v =>
    obtain ⟨c, hc, delivers⟩ := delivers_of_delivering going
    exact h.moved ((h.commanded hc).failedAttempt h.segment delivers cause)

theorem SoFar.writeAccepted (h : SoFar i pt n q x notes t) (sameState : q.state = pt.state) :
    DeliveryKeeps i pt n (writeAccepted i pt t) := by
  by_cases going : ∃ d next, q.stand = .writing d next
  · obtain ⟨d, next, writing⟩ := going
    obtain ⟨c, hc, -⟩ := delivers_of_delivering (pt := q) (d := d) (next := next) (by rw [writing]; rfl)
    rw [stand_of_some hc] at writing
    exact h.moved ((h.commanded hc).writeAccepted h.segment writing rfl sameState.symm)
  · have same : Machine.writeAccepted i pt t = t := by
      unfold Machine.writeAccepted
      rw [h.stand]
      cases stand : q.stand with
      | writing d next => exact absurd ⟨d, next, stand⟩ going
      | _ => rfl
    rw [same]
    exact h.keeps

theorem SoFar.compareVerify (h : SoFar i pt n q x notes t) (v : Value) : DeliveryKeeps i pt n (compareVerify i v t) := by
  unfold Machine.compareVerify
  rw [h.stand]
  cases going : q.stand.delivering with
  | none => exact h.keeps
  | some r =>
    obtain ⟨d, next⟩ := r
    obtain ⟨c, hc, -⟩ := delivers_of_delivering going
    by_cases same : d.value == v
    · exact (congrArg (DeliveryKeeps i pt n) (if_pos same)).mpr (h.moved ((h.commanded hc).confirm h.segment d next))
    · exact (congrArg (DeliveryKeeps i pt n) (if_neg same)).mpr (h.failedAttempt .mismatch)

theorem soFar_landed (hp : n.point? i = some pt) :
    SoFar i pt n { pt with inFlight := none } (n.segment pt.segment) (fun _ => []) (n.setPoint i { pt with inFlight := none }) :=
  ⟨Becomes.landed hp, rfl, rfl, rfl, rfl⟩

theorem soFar_read (hp : n.point? i = some pt) (v : Value) :
    SoFar i pt n (({ pt with inFlight := none } : Point).storeGood v n.clock) (n.segment pt.segment)
      (fun p => [] ++ pt.verifyNotes (n.handle i) (some v) p) (goodRead i v (n.setPoint i { pt with inFlight := none })) :=
  ⟨(Becomes.landed hp).goodRead v, rfl, rfl, rfl, rfl⟩

theorem writeEffects_keeps (hp : n.point? i = some pt) (h : o.accepts ∨ o = .noNode) :
    DeliveryKeeps i pt n (writeEffects i pt o (n.setPoint i { pt with inFlight := none })) := by
  rcases h with (⟨data, rfl⟩ | rfl | rfl) | rfl
  · exact (soFar_landed hp).writeAccepted rfl
  · exact (soFar_landed hp).failedAttempt .noAccept
  · exact (soFar_landed hp).failedAttempt .check
  · exact (soFar_landed hp).failedAttempt .noNode

theorem verifyEffects_keeps (hp : n.point? i = some pt) (h : o.accepts ∨ o = .noNode) :
    DeliveryKeeps i pt n (verifyEffects i pt o (n.setPoint i { pt with inFlight := none })) := by
  rcases h with (⟨data, rfl⟩ | rfl | rfl) | rfl
  · exact (soFar_read hp _).compareVerify _
  · exact (soFar_landed hp).failedAttempt .noAccept
  · exact (soFar_landed hp).failedAttempt .check
  · exact (soFar_landed hp).failedAttempt .noNode

/-- The served point's place, behind an outcome that is no segment fault. -/
theorem reseats {g : SegId} {w : Work} (slot : w.slot = some i) (hp : n.point? i = some pt) (going : ∀ q, pt.state ≠ .retiring q)
    (h : o.accepts ∨ o = .noNode) : Reseats i pt n (w.finish g o n) := by
  have clean : o.fault? = none := by
    rcases h with acc | rfl
    · exact acc.clean.2
    · rfl
  cases w with
  | read kind j z item d =>
    obtain rfl : j = i := Option.some.inj slot
    have poll := reseats_read hp going kind clean
    cases kind with
    | verify =>
      change Reseats j pt n (finishVerify j o n)
      rw [finishVerify, finishPoint_eq hp going]
      exact reseats_of_delivery (verifyEffects_keeps hp h) _ o
    | _ => exact poll
  | write j z item d value =>
    obtain rfl : j = i := Option.some.inj slot
    change Reseats j pt n (finishWrite j o n)
    rw [finishWrite, finishPoint_eq hp going]
    exact reseats_of_delivery (writeEffects_keeps hp h) _ o
  | _ => cases slot

end Delivery

end Sys2Proof.Machine

/-! A transaction to a node taken: the node's part first, then what follows it, and what each leaves of the other (R34, R94 to R99). -/
namespace Sys2Proof.Machine

set_option Elab.async false

/-! ### The entry behind a probe (R98) -/

section Probe
variable {g : SegId} {x : Address} {s : State} {e : NodeEntry} {o : TxOutcome}

theorem setProbe_entry (t : Time) : (setProbe g x t s).nodeEntry? g x =
    (s.nodeEntry? g x).map fun e => if e.presence == .lost then { e with probe := some ⟨t, reached t s.clock⟩ } else e := by
  rw [setProbe, nodeEntry?_modNode s g x _ fun e h y => by split <;> rfl, if_pos rfl]

theorem probeEffects_accepted (h : o.accepts) : probeEffects g x o s = s := by
  rcases h with ⟨data, rfl⟩ | rfl | rfl <;> rfl

theorem probeEffects_fault (h : o.fault? ≠ none) : probeEffects g x o s = setProbe g x s.clock s := by
  cases o with
  | contest | timeout | stuck => rfl
  | _ => exact absurd rfl h

theorem after_not_reached (now : Time) : reached (now + 1000) now = false :=
  not_reached_of_laterThan (laterThan_after now (d := probeInterval) (by decide))

end Probe

/-! ### A completion behind the node's part -/

/-- A transaction to the node `x` of segment `g` has been taken: from the state `n` of the node's part to `u`. -/
structure Follows (g : SegId) (x : Address) (w : Work) (o : TxOutcome) (n u : State) : Prop where
  node : (∀ y, w ≠ .probe y) ∨ o.accepts → u.nodeEntry? g x = n.nodeEntry? g x
  missed : w = .probe x → o = .noNode → u.nodeEntry? g x = (setProbe g x (n.clock + 1000) n).nodeEntry? g x
  failed : w = .probe x → o.fault? ≠ none → u.nodeEntry? g x = (setProbe g x n.clock n).nodeEntry? g x
  probed : w = .probe x → u.slots = n.slots ∧ u.notify = n.notify
  point : ∀ j, w.slot ≠ some j → u.point? j = n.point? j
  entry : ∀ j, w.slot ≠ some j → ∀ h, u.entryOf? h j = n.entryOf? h j
  queue : ∀ p, (n.notifyOf p).extends (u.notifyOf p)
  own : ∀ i pt, w.slot = some i → n.point? i = some pt → o.accepts ∨ o = .noNode → Reseats i pt n u

section Follows
variable {g : SegId} {x : Address} {w : Work} {o : TxOutcome} {s n : State}

theorem Reseats.recovered {i : SlotNo} {pt : Point} {f : State} (h : Reseats i pt n f) (g : SegId) (o : TxOutcome) :
    Reseats i pt n (faultRecovery g o f) := by
  refine ⟨fun k e found => (faultRecovery_entryOf g o f k i).trans (h.stays k e found), fun lost => ?_⟩
  obtain ⟨entry, q, hq, rhythm⟩ := h.lost lost
  exact ⟨fun k => (faultRecovery_entryOf g o f k i).trans (entry k), q, (faultRecovery_point g o f i).trans hq, rhythm⟩

theorem follows (isTo : w.isTo x) (alive : ∀ i, w.slot = some i → ∀ pt q, n.point? i = some pt → pt.state ≠ .retiring q) :
    Follows g x w o n (faultRecovery g o (w.finish g o n)) := by
  have ends := finishes (g := g) isTo o alive
  have entry := faultRecovery_nodeEntry g o (w.finish g o n) g x
  refine ⟨fun h => entry.trans ?_, fun probe no => entry.trans ?_, fun probe fault => entry.trans ?_, fun probe => ?_,
    fun j hj => (faultRecovery_point g o _ j).trans (ends.point j hj),
    fun j hj h => (faultRecovery_entryOf g o _ h j).trans (ends.entry j hj h), fun p => ?_,
    fun i pt slot hp h => (reseats slot hp (fun q => alive i slot pt q hp) h).recovered g o⟩
  · by_cases isProbe : ∃ y, w = .probe y
    · obtain ⟨y, rfl⟩ := isProbe
      have acc : o.accepts := h.resolve_left fun other => other y rfl
      change (probeEffects g y o n).nodeEntry? g x = _
      rw [probeEffects_accepted acc]
    · exact ends.node fun y same => isProbe ⟨y, same⟩
  · subst probe no
    rfl
  · subst probe
    change (probeEffects g x o n).nodeEntry? g x = _
    rw [probeEffects_fault fault]
  · obtain ⟨slots, -, -, notify, -⟩ := faultRecovery_keeps g o (w.finish g o n)
    subst probe
    refine ⟨slots.trans ?_, notify.trans ?_⟩
    · change (probeEffects g x o n).slots = _
      cases o <;> rfl
    · change (probeEffects g x o n).notify = _
      cases o <;> rfl
  · rw [faultRecovery_notifyOf]
    exact ends.kept.notify p

/-- The completion of a transaction to a node: the node's part, then what follows it. -/
theorem takeCompletion_follows (isTo : w.isTo x) (phase : TxPhase) (o : TxOutcome)
    (alive : ∀ i, w.slot = some i → ∀ pt q, s.point? i = some pt → pt.state ≠ .retiring q) :
    Follows g x w o (nodeOutcome g x w.slot o (endTransaction g s)) (takeCompletion g ⟨w, phase, false⟩ o s) := by
  rw [takeCompletion, if_neg Bool.false_ne_true, applyOutcome_eq isTo]
  refine follows isTo fun i slot => ?_
  exact (beside_nodeOutcome (own := none) (near := fun _ => True) w.slot o (endTransaction g s)
    (.inr fun _ _ _ _ => trivial)).alive i (alive i slot)

end Follows

/-! ### A transaction that neither returns its node nor loses it -/

theorem nodeOutcome_stays {g : SegId} {x : Address} {cause : Option SlotNo} {o : TxOutcome} {v : State} (stays : v.nodeStays g x o) :
    (nodeOutcome g x cause o v).slots = v.slots ∧ (nodeOutcome g x cause o v).notify = v.notify ∧
      (nodeOutcome g x cause o v).segments = v.segments := by
  cases found : v.nodeEntry? g x with
  | none => rw [nodeOutcome_unknown found]; exact ⟨rfl, rfl, rfl⟩
  | some e =>
    obtain ⟨missed, accepted⟩ := stays e found
    rcases o.kinds with acc | rfl | quiet
    · rw [nodeOutcome_present found acc (accepted acc.clean.1 acc.clean.2)]
      exact ⟨rfl, rfl, rfl⟩
    · by_cases lost : e.presence = .lost
      · rw [nodeOutcome_still_lost found lost]
        exact ⟨rfl, rfl, rfl⟩
      · rw [nodeOutcome_missed found lost ((missed rfl).resolve_left lost)]
        exact ⟨rfl, rfl, rfl⟩
    · rw [quiet]
      exact ⟨rfl, rfl, rfl⟩

/-! ### The event of a node first among the notifications (R94, R96, R99) -/

/-- A queue that is only added to behind a first notification holds it in its place. -/
theorem queue_of_first {p : Port} {note : Note} {s t u : State} (told : Told p [note] s t)
    (more : (t.notifyOf p).extends (u.notifyOf p)) (on : (s.notifyOf p).enabled = true) (room : (s.notifyOf p).queue.length < 64) :
    ∃ later, (u.notifyOf p).queue = (s.notifyOf p).queue ++ ⟨(s.notifyOf p).nextSeq, s.clock, note⟩ :: later := by
  obtain ⟨-, -, later, queue, -⟩ := more
  refine ⟨later, ?_⟩
  rw [queue, told.told on room]
  simp [Notify.pushes, Notify.push]

section Events
variable {g : SegId} {x : Address} {e : NodeEntry} {v : State}

theorem told_nodeEvent {f : NodeEntry → NodeEntry} (note : Note) {p : Port} (events : (v.notifyOf p).nodeEvents = true) :
    Told p [note] v (offerNodeEvents note (v.modNode g x f)) := by
  have told := told_offerNodeEvents note (v.modNode g x f) p
  rw [show ((v.modNode g x f).notifyOf p).nodeEvents = true from events, if_pos rfl] at told
  exact told.from rfl rfl

theorem returnNode_first {p : Port} (events : (v.notifyOf p).nodeEvents = true) : ∃ t, Told p [.node (.back e.points) g x] v t ∧
    (t.notifyOf p).extends ((returnNode g x e v).notifyOf p) :=
  ⟨_, told_nodeEvent _ events, (kept_foldl _ (fun s i => kept_reenter i s.dueNow s) _ _).notify p⟩

theorem loseNode_first {cause : Option SlotNo} {p : Port} (events : (v.notifyOf p).nodeEvents = true) :
    ∃ t, Told p [.node (.lost e.points) g x] v t ∧ (t.notifyOf p).extends ((loseNode g x cause e v).notifyOf p) :=
  ⟨_, told_nodeEvent _ events, ((kept_foldl _ (fun s i => kept_dropByLoss g s i) _ _).trans
    (kept_foldl _ (fun s i => kept_answerFreshBoth .noNode i s) _ _)).notify p⟩

end Events

end Sys2Proof.Machine

/-! A node's directory entry counts the outcomes of its transactions (R53, R94 to R99). -/
namespace Sys2Proof.Machine

set_option Elab.async false

/-! ### The works of the statement -/

section Works
variable {g : SegId} {levels : List Bool} {i : SlotNo} {x : Address} {item : Byte} {w : Width} {value : Value} {c : Instr} {work : Work}

theorem completes_plain
    (h : (c, work) ∈ [(.probeCompletion g levels, .probe x), (.scanStepCompletion g levels, Work.scanStep x)]) :
    Completes g levels c work ∧ work.isTo x ∧ work.slot = none := by
  simp only [List.mem_cons, Prod.mk.injEq, List.not_mem_nil, or_false] at h
  rcases h with ⟨rfl, rfl⟩ | ⟨rfl, rfl⟩
  · exact ⟨completes_probe, rfl, rfl⟩
  · exact ⟨completes_scanStep, rfl, rfl⟩

theorem completes_served (h : (c, work) ∈ [(.pollCompletion g levels, .read .poll i x item w),
    (.refreshPollCompletion g levels, .read .refreshPoll i x item w), (.guardCompletion g levels, .read .guard i x item w),
    (.writeCompletion g levels, .write i x item w value), (.verifyCompletion g levels, Work.read .verify i x item w)]) :
    Completes g levels c work ∧ work.isTo x ∧ work.slot = some i := by
  simp only [List.mem_cons, Prod.mk.injEq, List.not_mem_nil, or_false] at h
  rcases h with ⟨rfl, rfl⟩ | ⟨rfl, rfl⟩ | ⟨rfl, rfl⟩ | ⟨rfl, rfl⟩ | ⟨rfl, rfl⟩
  · exact ⟨(completes_read (kind := .poll) (by simp)).1, rfl, rfl⟩
  · exact ⟨(completes_read (kind := .refreshPoll) (by simp)).1, rfl, rfl⟩
  · exact ⟨(completes_read (kind := .guard) (by simp)).1, rfl, rfl⟩
  · exact ⟨completes_write, rfl, rfl⟩
  · exact ⟨completes_verify, rfl, rfl⟩

end Works

/-! ### The points of the node behind a transaction (R96, R99) -/

section Points
variable {g : SegId} {x : Address} {w : Work} {o : TxOutcome} {v n u : State} {e : NodeEntry} {j : SlotNo} {pt : Point}

theorem any_names {pt : Point} (hp : v.point? j = some pt) (named : pt.names g x = true) : (v.point? j).any (·.names g x) = true := by
  rw [hp]
  exact named

/-- Behind the node's part each point of the node has the seat it makes, the transaction's own point but for its own part. -/
theorem NodeDone.entry {cause : Option SlotNo} {entry : NodeEntry → NodeEntry}
    {own near : SlotNo → Option Point × Option SchedEntry → Option Point × Option SchedEntry} {notes : Port → List Note}
    (done : NodeDone g x cause v n entry own near notes) (hp : v.point? j = some pt) (named : pt.names g x = true) :
    n.entryOf? g j = if cause = some j then (own j (v.seat g j)).2 else (near j (v.seat g j)).2 := by
  split
  · next own => exact congrArg Prod.snd (done.own j (any_names hp named) own)
  · next other => exact (done.near j (any_names hp named) other).2

/-- A node that has returned, as `returnNode` leaves it. -/
def Returned (g : SegId) (x : Address) (cause : Option SlotNo) (e : NodeEntry) (v n : State) : Prop :=
  NodeDone g x cause v n NodeEntry.back ((v.modNode g x NodeEntry.back).returned g) ((v.modNode g x NodeEntry.back).returned g)
    (fun p => noteIf (v.notifyOf p).nodeEvents (.node (.back e.points) g x))

/-- A node that has been lost, as `loseNode` leaves it. -/
def Lost (g : SegId) (x : Address) (cause : Option SlotNo) (e : NodeEntry) (v n : State) : Prop :=
  NodeDone g x cause v n (NodeEntry.gone v.clock) (fun _ => lostSeat) (fun _ => answeredSeat) (v.lossNotes g x cause e)

theorem Returned.enters {cause : Option SlotNo} (done : Returned g x cause e v n) (found : v.nodeEntry? g x = some e)
    (hp : v.point? j = some pt) (named : pt.names g x = true) (active : pt.state = .active) (scheduled : pt.period ≠ none)
    (idle : pt.inFlight = none) (out : v.entryOf? g j = none) : n.entryOf? g j = some ⟨j, ⟨v.clock, false⟩, true⟩ := by
  have key : pt.segment = g ∧ pt.address = x := by simpa [Point.names] using named
  have wants : (v.modNode g x NodeEntry.back).wantsEntry pt = true := by
    rw [wantsEntry_iff, key.1, key.2, nodeLost_modNode found (f := NodeEntry.back) (fun _ _ _ => rfl)]
    exact ⟨active, scheduled, idle, rfl⟩
  rw [NodeDone.entry done hp named, ite_self, State.seat, hp, out, State.returned]
  simp [wants, key.1]

/-- A point that waits for its node is due now as the node returns (R99). -/
theorem Returned.entry (done : Returned g x w.slot e v n) (found : v.nodeEntry? g x = some e) (follows : Follows g x w o n u)
    (acc : o.accepts) (hp : v.point? j = some pt) (named : pt.names g x = true) (active : pt.state = .active)
    (scheduled : pt.period ≠ none) (idle : pt.inFlight = none) (out : v.entryOf? g j = none) :
    u.entryOf? g j = some ⟨j, ⟨v.clock, false⟩, true⟩ := by
  have enters := done.enters found hp named active scheduled idle out
  by_cases own : w.slot = some j
  · have point : n.point? j = some pt := by
      refine (congrArg Prod.fst (NodeDone.own done j (any_names hp named) own)).trans ?_
      rw [State.seat, hp]
      rfl
    exact (follows.own j pt own point (.inl acc)).stays g _ enters
  · exact (follows.entry j own g).trans enters

theorem Lost.out {cause : Option SlotNo} (done : Lost g x cause e v n) (hp : v.point? j = some pt) (named : pt.names g x = true) :
    n.entryOf? g j = none := by
  rw [NodeDone.entry done hp named]
  exact ite_self none

/-- The other points of a lost node are without rhythm due, their flags answered (R37, R53, R96). -/
theorem Lost.near {cause : Option SlotNo} (done : Lost g x cause e v n) (hp : v.point? j = some pt) (named : pt.names g x = true)
    (other : cause ≠ some j) : ∃ q, n.point? j = some q ∧ q.rhythmDue = none ∧ q.fresh = ⟨false, false⟩ := by
  have answered := (NodeDone.near done j (any_names hp named) other).1
  rw [State.seat, hp] at answered
  cases point : n.point? j with
  | none => rw [point] at answered; cases answered
  | some q =>
    rw [point] at answered
    have same := Option.some.inj answered
    exact ⟨q, rfl, (congrArg Point.rhythmDue same).trans rfl, (congrArg Point.fresh same).trans rfl⟩

/-- A point whose node is lost is out of the schedule, without rhythm due; its flags are answered, the transaction's own point's but
by its own completion (R37, R53, R96). -/
theorem Lost.point (done : Lost g x w.slot e v n) (found : v.nodeEntry? g x = some e) (follows : Follows g x w .noNode n u)
    (hp : v.point? j = some pt) (named : pt.names g x = true) :
    u.entryOf? g j = none ∧
      ∃ pt', u.point? j = some pt' ∧ pt'.rhythmDue = none ∧ (some j ≠ w.slot → pt'.fresh = ⟨false, false⟩) := by
  have key : pt.segment = g ∧ pt.address = x := by simpa [Point.names] using named
  have lost : n.nodeLost pt.segment pt.address = true := by
    rw [key.1, key.2, nodeLost_of_directory (NodeDone.directory done),
      nodeLost_modNode found (f := NodeEntry.gone v.clock) (fun _ _ _ => rfl)]
    rfl
  have out := done.out hp named
  by_cases own : w.slot = some j
  · have point : n.point? j = some { pt with rhythmDue := none } := by
      refine (congrArg Prod.fst (NodeDone.own done j (any_names hp named) own)).trans ?_
      rw [State.seat, hp]
      rfl
    obtain ⟨entries, q, hq, rhythm⟩ := (follows.own j { pt with rhythmDue := none } own point (.inr rfl)).lost lost
    exact ⟨(entries g).trans out, q, hq, rhythm, fun other => absurd own.symm other⟩
  · obtain ⟨q, hq, rhythm, fresh⟩ := done.near hp named own
    exact ⟨(follows.entry j own g).trans out, q, (follows.point j own).trans hq, rhythm, fun _ => fresh⟩

/-- Each fresh wanted flag of the lost node's other points is answered NO_NODE (R53, R96). -/
theorem Lost.answers (done : Lost g x w.slot e v n) (follows : Follows g x w o n u) {p : Port} (on : (v.notifyOf p).enabled = true)
    (room : (v.notifyOf p).queue.length + v.pointsNaming g x + 1 ≤ 64) (hp : v.point? j = some pt) (named : pt.names g x = true)
    (wanted : pt.fresh.get p = true) (other : some j ≠ w.slot) :
    ∃ m ∈ (u.notifyOf p).queue, m.time = v.clock ∧ m.note = .fresh (v.handle j) .noNode pt.quality := by
  have asked : j ∈ (v.slotsNaming g x).filter fun i => w.slot != some i :=
    List.mem_filter.mpr ⟨(mem_slotsNaming_iff v g x j).mpr (any_names hp named), bne_iff_ne.mpr (Ne.symm other)⟩
  have answer : Note.fresh (v.handle j) .noNode pt.quality ∈ v.freshNotes .noNode p j := by
    rw [State.freshNotes, hp, Option.elim, wanted]
    exact List.mem_singleton.mpr rfl
  have member : Note.fresh (v.handle j) .noNode pt.quality ∈ v.lossNotes g x w.slot e p :=
    List.mem_append_right _ (List.mem_flatMap.mpr ⟨j, asked, answer⟩)
  have fits := lossNotes_length v g x w.slot e p
  obtain ⟨m, inQueue, time, note⟩ := Notify.mem_pushes (v.notifyOf p) v.clock _ member
  rw [← (NodeDone.told done p).told on (by omega)] at inQueue
  obtain ⟨-, -, later, queue, -⟩ := follows.queue p
  exact ⟨m, by rw [queue]; exact List.mem_append_left _ inQueue, time, note⟩

end Points

/-! ### The entry behind each outcome (R94 to R99) -/

section Entry
variable {g : SegId} {x : Address} {w : Work} {o : TxOutcome} {v u : State} {e : NodeEntry}

theorem modNode_entry (found : v.nodeEntry? g x = some e) {f : NodeEntry → NodeEntry}
    (key : ∀ e h y, (f e).hasKey h y = e.hasKey h y) : (v.modNode g x f).nodeEntry? g x = some (f e) := by
  rw [nodeEntry?_modNode v g x f key, if_pos rfl, found]
  rfl

theorem nodeEntry_of_directory {s t : State} (h : t.directory = s.directory) : t.nodeEntry? g x = s.nodeEntry? g x := by
  rw [State.nodeEntry?, h, State.nodeEntry?]

theorem entry_present (found : v.nodeEntry? g x = some e) (acc : o.accepts) (present : e.presence ≠ .lost)
    (follows : Follows g x w o (nodeOutcome g x w.slot o v) u) :
    u.nodeEntry? g x = some { e with presence := .present, misses := 0 } := by
  refine (follows.node (.inr acc)).trans ?_
  rw [nodeOutcome_present found acc present]
  exact modNode_entry found fun _ _ _ => rfl

theorem entry_back (found : v.nodeEntry? g x = some e) (acc : o.accepts) (follows : Follows g x w o (returnNode g x e v) u) :
    u.nodeEntry? g x = some e.back :=
  ((follows.node (.inr acc)).trans (nodeEntry_of_directory (returnNode_done g x w.slot e v).directory)).trans
    (modNode_entry found fun _ _ _ => rfl)

/-- A probe refused by an entry that is not LOST then sets no next probe time; a LOST one's is 1,000 ms on (R98). -/
theorem entry_missed {n : State} {d : NodeEntry} (node : n.nodeEntry? g x = some d) (isTo : w.isTo x)
    (follows : Follows g x w .noNode n u) :
    u.nodeEntry? g x = some (if w = .probe x ∧ d.presence = .lost then { d with probe := some ⟨n.clock + 1000, false⟩ } else d) := by
  by_cases probe : w = .probe x
  · rw [follows.missed probe rfl, setProbe_entry, node, after_not_reached]
    by_cases lost : d.presence = .lost <;> simp [probe, lost]
  · have other : ∀ y, w ≠ .probe y := fun y same => probe (by subst same; rw [show y = x from isTo])
    rw [follows.node (.inl other), node, if_neg fun h => probe h.1]

theorem entry_failed (found : v.nodeEntry? g x = some e) (isTo : w.isTo x) (fault : o.fault? ≠ none)
    (follows : Follows g x w o (nodeOutcome g x w.slot o v) u) :
    u.nodeEntry? g x = some (if w = .probe x ∧ e.presence = .lost then { e with probe := some ⟨v.clock, true⟩ } else e) := by
  rw [nodeOutcome_fault g x _ fault] at follows
  by_cases probe : w = .probe x
  · have now : reached v.clock v.clock = true := reachedAt_now v.clock
    rw [follows.failed probe fault, setProbe_entry, found, now]
    by_cases lost : e.presence = .lost <;> simp [probe, lost]
  · have other : ∀ y, w ≠ .probe y := fun y same => probe (by subst same; rw [show y = x from isTo])
    rw [follows.node (.inl other), found, if_neg fun h => probe h.1]

end Entry

/-- Settles O52. -/
theorem nodeEntryCountsTheOutcomes : Obligations.NodeEntryCountsTheOutcomes := by
  unfold Obligations.NodeEntryCountsTheOutcomes
  intro g x start released pos levels o e i item w value work s c flight found course which
  obtain ⟨completes, isTo, alive⟩ : Completes g levels c work ∧ work.isTo x ∧
      ∀ j, work.slot = some j → ∀ pt q, s.point? j = some pt → pt.state ≠ .retiring q := by
    rcases which with plain | ⟨served, going⟩
    · obtain ⟨completes, isTo, slot⟩ := completes_plain plain
      exact ⟨completes, isTo, fun j h => nomatch slot.symm.trans h⟩
    · obtain ⟨completes, isTo, slot⟩ := completes_served served
      refine ⟨completes, isTo, fun j h => ?_⟩
      obtain rfl : i = j := Option.some.inj (slot.symm.trans h)
      exact going
  have follows := takeCompletion_follows (g := g) isTo (.onWires start released pos) o alive
  refine ⟨_, exec_completion completes flight course, takeCompletion_transaction g o s _,
    transactionFrame_takeCompletion (x := x) work isTo _ o s alive, ?_⟩
  have recovering := fun cause => takeCompletion_fault (cause := cause) g o s (t := ⟨work, .onWires start released pos, false⟩)
  generalize takeCompletion g ⟨work, .onWires start released pos, false⟩ o s = u at follows recovering
  have entryOf : ∀ j, (endTransaction g s).entryOf? g j = s.entryOf? g j := endTransaction_entryOf g g s
  have foundV : (endTransaction g s).nodeEntry? g x = some e := found
  refine ⟨fun probe stays => ?_, fun data accepted => ?_, fun no => ?_, fun cause fault => ⟨?_, recovering cause fault⟩⟩
  · obtain ⟨slots, notify, -⟩ := nodeOutcome_stays (cause := work.slot) (v := endTransaction g s) stays
    obtain ⟨probedSlots, probedNotify⟩ := follows.probed probe
    exact ⟨probedSlots.trans slots, probedNotify.trans notify⟩
  · have acc : o.accepts := accepted.imp (fun done => ⟨data, done⟩) id
    refine ⟨fun present => entry_present foundV acc present follows, fun lost => ?_⟩
    rw [nodeOutcome_back foundV acc lost] at follows
    refine ⟨entry_back foundV acc follows, fun j pt hp named active scheduled idle out => ?_, fun p on events room => ?_⟩
    · exact Returned.entry (v := endTransaction g s) (returnNode_done g x work.slot e (endTransaction g s)) foundV follows acc hp
        named active scheduled idle ((entryOf j).trans out)
    · obtain ⟨t, told, more⟩ := returnNode_first (g := g) (x := x) (e := e) (v := endTransaction g s) events
      exact queue_of_first (s := endTransaction g s) told (Notify.extends_trans more (follows.queue p)) on room
  · subst no
    refine ⟨fun present few => ?_, fun present many => ?_, fun lost => ?_⟩
    · rw [nodeOutcome_missed foundV present few] at follows
      refine (entry_missed (modNode_entry foundV (f := fun e => { e with misses := e.misses + 1 }) fun _ _ _ => rfl) isTo
        follows).trans ?_
      rw [if_neg fun h => present h.2]
    · rw [nodeOutcome_gone foundV present many] at follows
      have done := loseNode_done g x work.slot e (endTransaction g s)
      refine ⟨?_, fun j pt hp named => Lost.point done foundV follows hp named, fun p on => ⟨fun events room => ?_,
        fun room j pt hp named wanted other => Lost.answers done follows on room hp named wanted other⟩⟩
      · have node := (nodeEntry_of_directory done.directory).trans
          (modNode_entry (f := NodeEntry.gone (endTransaction g s).clock) foundV fun _ _ _ => rfl)
        refine (entry_missed node isTo follows).trans ?_
        rw [done.clock]
        exact congrArg some (ite_self _)
      · obtain ⟨t, told, more⟩ := loseNode_first (g := g) (x := x) (e := e) (v := endTransaction g s) (cause := work.slot) events
        exact queue_of_first (s := endTransaction g s) told (Notify.extends_trans more (follows.queue p)) on room
    · rw [nodeOutcome_still_lost foundV lost] at follows
      refine (entry_missed foundV isTo follows).trans ?_
      rw [if_congr (and_iff_left lost) rfl rfl]
      rfl
  · exact entry_failed (v := endTransaction g s) foundV isTo (by rw [fault]; exact nofun) follows

end Sys2Proof.Machine

/-! A scan step's outcome in its scan and the queue of the scan's requester (R142, R143). -/
namespace Sys2Proof.Machine

set_option Elab.async false

section Advance
variable {g : SegId} {x : Address} {s : State} {range : ScanRange} {found : List Address} {o : TxOutcome}

/-- The scan after a step at the address `x` (R142, R143). -/
def ScanRange.onward (range : ScanRange) (x : Address) : ScanState := if x = range.high then .done range else .running range (x + 1)

/-- A RUNNING scan goes on to its next address, or is DONE with SCAN_DONE to its requester (R142, R143). -/
theorem advanceScan_running (running : (s.segment g).scan = ⟨.running range x, found⟩) : advanceScan g s =
    if x = range.high then offerSystem range.requester (.scanDone g true found.length)
      (s.modSegment g fun y => { y with scan := ⟨range.onward x, found⟩ })
    else s.modSegment g fun y => { y with scan := ⟨range.onward x, found⟩ } := by
  unfold advanceScan ScanRange.onward
  rw [running]
  by_cases last : x = range.high
  · simp [last]
  · simp [last]

theorem modScan_read (s : State) (g : SegId) (c : ScanContext) : ((s.modSegment g fun y => { y with scan := c }).segment g).scan = c := by
  rw [State.modSegment_read_segment, if_pos rfl]

/-- What the advance makes of the scan and of the queues. -/
theorem advanceScan_effects (running : (s.segment g).scan = ⟨.running range x, found⟩) :
    ((advanceScan g s).segment g).scan = ⟨range.onward x, found⟩ ∧
    (∀ p, Told p (noteIf (decide (x = range.high) && decide (p = range.requester)) (.scanDone g true found.length)) s
      (advanceScan g s)) ∧
    ∀ p, p ≠ range.requester ∨ x ≠ range.high → (advanceScan g s).notifyOf p = s.notifyOf p := by
  rw [advanceScan_running running]
  by_cases last : x = range.high
  · rw [if_pos last]
    have noted := noted_offerSystem 0 range.requester (.scanDone g true found.length)
      (s.modSegment g fun y => { y with scan := ⟨range.onward x, found⟩ })
    refine ⟨?_, fun p => ?_, fun p h => ?_⟩
    · rw [State.segment, noted.segments]
      exact modScan_read s g _
    · by_cases own : p = range.requester
      · subst own
        rw [noteIf, if_pos (by simp [last])]
        exact (told_offerSystem range.requester _ _).from rfl rfl
      · rw [noteIf, if_neg (by simp [own])]
        exact (told_offerSystem_other (Ne.symm own) _ _).from rfl rfl
    · exact offerSystem_notifyOf_other _ (Ne.symm (h.resolve_right fun other => other last))
  · rw [if_neg last]
    refine ⟨modScan_read s g _, fun p => ?_, fun p _ => rfl⟩
    rw [noteIf, if_neg (by simp [last])]
    exact .of_eq rfl rfl

/-- The list of the addresses found, after a step with outcome `o`. -/
def foundAfter (found : List Address) (x : Address) (o : TxOutcome) : List Address := found ++ if o = .noNode then [] else [x]

theorem scanEffects_effects (running : (s.segment g).scan = ⟨.running range x, found⟩) (h : o = .done [] ∨ o = .noNode) :
    ((scanEffects g x o s).segment g).scan = ⟨range.onward x, foundAfter found x o⟩ ∧
    (∀ p, Told p (noteIf (decide (x = range.high) && decide (p = range.requester)) (.scanDone g true (foundAfter found x o).length)) s
      (scanEffects g x o s)) ∧
    ∀ p, p ≠ range.requester ∨ x ≠ range.high → (scanEffects g x o s).notifyOf p = s.notifyOf p := by
  rcases h with rfl | rfl
  · have recorded : ((recordFound g x s).segment g).scan = ⟨.running range x, found ++ [x]⟩ := by
      rw [recordFound, State.modSegment_read_segment, if_pos rfl, running]
    obtain ⟨scan, told, quiet⟩ := advanceScan_effects recorded
    exact ⟨scan, fun p => (told p).from rfl rfl, quiet⟩
  · have same : foundAfter found x .noNode = found := List.append_nil found
    rw [same]
    exact advanceScan_effects running

/-- A step that neither accepts nor is refused leaves the scan where it stands. -/
theorem scanEffects_quiet (done : ∀ data, o ≠ .done data) (no : o ≠ .noNode) : scanEffects g x o s = s := by
  cases o with
  | done data => exact absurd rfl (done data)
  | noNode => exact absurd rfl no
  | _ => rfl

theorem scanEffects_slots : (scanEffects g x o s).slots = s.slots := by
  have frame := congrArg State.slots (scanEffects_frame (g := g) (x := x) o s).1
  exact frame

end Advance

/-! ### What the ports are told of a node's outcome -/

theorem nodeOutcome_told {g : SegId} {x : Address} (cause : Option SlotNo) (o : TxOutcome) (v : State) :
    ∃ notes : Port → List Note,
      ∀ p, Told p (notes p) v (nodeOutcome g x cause o v) ∧ (notes p).length ≤ v.pointsNaming g x + 1 := by
  have quiet : ∀ n, n.clock = v.clock → n.notify = v.notify →
      ∃ notes : Port → List Note, ∀ p, Told p (notes p) v n ∧ (notes p).length ≤ v.pointsNaming g x + 1 := fun n clock notify =>
    ⟨fun _ => [], fun p => ⟨.of_eq clock (congrArg (PerPort.get · p) notify), Nat.zero_le _⟩⟩
  cases found : v.nodeEntry? g x with
  | none => rw [nodeOutcome_unknown found]; exact quiet v rfl rfl
  | some e =>
    rcases o.kinds with acc | rfl | same
    · by_cases lost : e.presence = .lost
      · rw [nodeOutcome_back found acc lost]
        exact ⟨_, fun p => ⟨(returnNode_done g x cause e v).told p, Nat.le_trans (noteIf_length _ _) (Nat.le_add_left 1 _)⟩⟩
      · rw [nodeOutcome_present found acc lost]
        exact quiet _ rfl rfl
    · by_cases lost : e.presence = .lost
      · rw [nodeOutcome_still_lost found lost]
        exact quiet _ rfl rfl
      · by_cases few : e.misses < 7
        · rw [nodeOutcome_missed found lost few]
          exact quiet _ rfl rfl
        · rw [nodeOutcome_gone found lost (Nat.not_lt.mp few)]
          exact ⟨_, fun p => ⟨(loseNode_done g x cause e v).told p, lossNotes_length v g x cause e p⟩⟩
    · rw [same]
      exact quiet v rfl rfl

/-- The node's part leaves the scans alone. -/
theorem nodeOutcome_scan {g : SegId} {x : Address} (cause : Option SlotNo) (o : TxOutcome) (v : State) (h : SegId) :
    ((nodeOutcome g x cause o v).segment h).scan = (v.segment h).scan := by
  have beside := beside_nodeOutcome (own := none) (near := fun _ => True) (g := g) (x := x) cause o v (.inr fun _ _ _ _ => trivial)
  have scan := congrArg Segment.scan (beside.segment h)
  exact scan

end Sys2Proof.Machine

/-! A roll's winner counted for its node, its alert-driven points moved due (R99, R125). -/
namespace Sys2Proof.Machine

set_option Elab.async false

/-! ### What leaves all but one schedule, the directory and the queues alone -/

/-- From `v` to `u` only segment `g`'s schedule, the directory and the queues have changed. -/
structure Moves (g : SegId) (v u : State) : Prop where
  form : u = { v with directory := u.directory, segments := u.segments, notify := u.notify }
  segment : ∀ h, u.segment h = { v.segment h with schedule := (u.segment h).schedule }
  other : ∀ h, h ≠ g → u.segment h = v.segment h

section Moves
variable {g : SegId} {v t u : State}

theorem Moves.refl (v : State) : Moves g v v := ⟨rfl, fun _ => rfl, fun _ _ => rfl⟩

theorem Moves.trans (h : Moves g v t) (k : Moves g t u) : Moves g v u where
  form := k.form.trans
    (congrArg (fun w : State => { w with directory := u.directory, segments := u.segments, notify := u.notify }) h.form)
  segment y := (k.segment y).trans (congrArg (fun z : Segment => { z with schedule := (u.segment y).schedule }) (h.segment y))
  other y hy := (k.other y hy).trans (h.other y hy)

theorem Moves.slots (h : Moves g v u) : u.slots = v.slots := (congrArg State.slots h.form).trans rfl

theorem Moves.clock (h : Moves g v u) : u.clock = v.clock := (congrArg State.clock h.form).trans rfl

theorem Moves.point (h : Moves g v u) (j : SlotNo) : u.point? j = v.point? j := by rw [State.point?, h.slots, State.point?]

theorem Moves.entry_of_ne (h : Moves g v u) {k : SegId} (hk : k ≠ g) (j : SlotNo) : u.entryOf? k j = v.entryOf? k j := by
  rw [State.entryOf?, h.other k hk, State.entryOf?]

theorem moves_modNode (x : Address) (f : NodeEntry → NodeEntry) (v : State) : Moves g v (v.modNode g x f) :=
  ⟨rfl, fun _ => rfl, fun _ _ => rfl⟩

theorem moves_offerNodeEvents (n : Note) (v : State) : Moves g v (offerNodeEvents n v) := by
  rw [offerNodeEvents_eq_offerSystems, offerSystems_form]
  exact ⟨rfl, fun _ => rfl, fun _ _ => rfl⟩

theorem moves_modSchedule (f : List SchedEntry → List SchedEntry) (v : State) :
    Moves g v (v.modSegment g fun x => { x with schedule := f x.schedule }) := by
  refine ⟨rfl, fun h => ?_, fun h hh => ?_⟩
  · rw [State.modSegment_read_segment]
    split
    · next same => subst same; rfl
    · rfl
  · rw [State.modSegment_read_segment, if_neg (Ne.symm hh)]

theorem moves_enterSchedule (i : SlotNo) (d : Due) (v : State) : Moves g v (enterSchedule g i d v) := by
  unfold enterSchedule
  split
  · exact Moves.refl v
  · exact moves_modSchedule _ v

theorem moves_moveToNow (i : SlotNo) (v : State) : Moves g v (moveToNow g i v) :=
  (moves_modSchedule (removeEntry i) v).trans (moves_enterSchedule i _ _)

theorem moves_reenter {i : SlotNo} {x : Address} (named : (v.point? i).any (·.names g x) = true) (d : Due) :
    Moves g v (reenter i d v) := by
  unfold reenter
  split
  · exact Moves.refl v
  · next pt hp =>
    rw [hp, Option.any_some] at named
    have segment : pt.segment = g := by
      simp only [Point.names, Bool.and_eq_true, beq_iff_eq] at named
      exact named.1
    rw [segment]
    split
    · exact moves_enterSchedule i d v
    · exact Moves.refl v

theorem moves_foldl {f : State → SlotNo → State} {l : List SlotNo}
    (each : ∀ t, Moves g v t → ∀ i ∈ l, Moves g t (f t i)) : Moves g v (l.foldl f v) :=
  List.foldlRecOn (motive := Moves g v) l f (Moves.refl v) fun t ht i hi => ht.trans (each t ht i hi)

theorem moves_returnNode (x : Address) (e : NodeEntry) (v : State) : Moves g v (returnNode g x e v) := by
  refine ((moves_modNode x _ v).trans (moves_offerNodeEvents _ _)).trans (moves_foldl fun t ht i hi => ?_)
  rw [mem_slotsNaming_iff, ← ht.point] at hi
  exact moves_reenter hi t.dueNow

end Moves

/-! ### The alert-driven points of the winner (R125) -/

section Alert
variable {g : SegId} {x : Address} {v : State}

/-- What a winner's roll makes of the entry of slot `j`. -/
def State.alerted (v : State) (j : SlotNo) (e : Option SchedEntry) : Option SchedEntry :=
  if (v.point? j).any (fun pt => pt.isActive && pt.alertDriven) && e.isSome then some ⟨j, ⟨v.clock, false⟩, true⟩ else e

theorem alerted_alerted (v : State) (j : SlotNo) (e : Option SchedEntry) : v.alerted j (v.alerted j e) = v.alerted j e := by
  unfold State.alerted
  cases (v.point? j).any fun pt => pt.isActive && pt.alertDriven <;> cases e <;> rfl

theorem moveToNow_entry (i j : SlotNo) (v : State) : (moveToNow g i v).entryOf? g j =
    if j = i then some ⟨j, ⟨v.clock, false⟩, true⟩ else v.entryOf? g j := by
  have left : (leaveSchedule g i v).segment g = { v.segment g with schedule := removeEntry i (v.segment g).schedule } := by
    rw [leaveSchedule, State.modSegment_read_segment, if_pos rfl]
  have out : (leaveSchedule g i v).entryOf? g i = none := by
    rw [State.entryOf?, left]
    exact find?_removeEntry_self i _
  have run : ((moveToNow g i v).segment g).schedule =
      insertEntry ⟨i, ⟨v.clock, false⟩, true⟩ (removeEntry i (v.segment g).schedule) := by
    rw [moveToNow, enterSchedule, out, Option.isSome_none, if_neg Bool.false_ne_true, State.modSegment_read_segment, if_pos rfl, left]
    exact congrArg (fun m => insertEntry ⟨i, ⟨v.clock, false⟩, m⟩ (removeEntry i (v.segment g).schedule)) (reachedAt_now v.clock)
  rw [State.entryOf?, run, find?_insertEntry_of (find?_removeEntry_self i _) _ _ j]
  split
  · next same => rw [same]
  · next other => exact find?_removeEntry i _ j (Ne.symm other)

theorem moveAlertDriven_entry {t : State} (h : Moves g v t) (i j : SlotNo) : (moveAlertDriven g t i).entryOf? g j =
    if j = i then v.alerted j (t.entryOf? g j) else t.entryOf? g j := by
  unfold moveAlertDriven State.alerted
  rw [h.point]
  by_cases own : j = i
  · subst own
    rw [if_pos rfl]
    cases v.point? j with
    | none => rfl
    | some pt =>
      dsimp only
      rw [Option.any_some]
      by_cases moves : (pt.isActive && pt.alertDriven && (t.entryOf? g j).isSome) = true
      · rw [if_pos moves, if_pos moves, moveToNow_entry, if_pos rfl, h.clock]
      · rw [if_neg moves, if_neg moves]
  · rw [if_neg own]
    cases v.point? i with
    | none => rfl
    | some pt =>
      dsimp only
      split
      · rw [moveToNow_entry, if_neg own]
      · rfl

theorem moves_moveAlertDriven (i : SlotNo) (v : State) : Moves g v (moveAlertDriven g v i) := by
  unfold moveAlertDriven
  split
  · exact Moves.refl v
  · split
    · exact moves_moveToNow i v
    · exact Moves.refl v

theorem moveAlertDriven_rest (i : SlotNo) (v : State) : (moveAlertDriven g v i).directory = v.directory ∧
    (moveAlertDriven g v i).notify = v.notify := by
  have entered : ∀ (d : Due) (t : State), (enterSchedule g i d t).directory = t.directory ∧
      (enterSchedule g i d t).notify = t.notify := fun d t => by unfold enterSchedule; split <;> exact ⟨rfl, rfl⟩
  unfold moveAlertDriven
  split
  · exact ⟨rfl, rfl⟩
  · split
    · exact entered _ (leaveSchedule g i v)
    · exact ⟨rfl, rfl⟩

/-- The alert-driven points of the list that stand in the schedule are due now, and nothing else has changed. -/
theorem alertDriven_each (l : List SlotNo) (v : State) :
    Moves g v (l.foldl (moveAlertDriven g) v) ∧ (l.foldl (moveAlertDriven g) v).directory = v.directory ∧
    (l.foldl (moveAlertDriven g) v).notify = v.notify ∧
    ∀ j, (l.foldl (moveAlertDriven g) v).entryOf? g j = if j ∈ l then v.alerted j (v.entryOf? g j) else v.entryOf? g j := by
  obtain ⟨⟨moves, directory, notify⟩, each⟩ := foldl_each (view := fun s j => s.entryOf? g j) (f := moveAlertDriven g)
    (F := fun j => v.alerted j) (Inv := fun t => Moves g v t ∧ t.directory = v.directory ∧ t.notify = v.notify)
    (alerted_alerted v) (fun t i j h => moveAlertDriven_entry h.1 i j)
    (fun t i ⟨moves, directory, notify⟩ => ⟨moves.trans (moves_moveAlertDriven i t),
      (moveAlertDriven_rest i t).1.trans directory, (moveAlertDriven_rest i t).2.trans notify⟩)
    l ⟨Moves.refl v, rfl, rfl⟩
  exact ⟨moves, directory, notify, each⟩

end Alert

end Sys2Proof.Machine

/-! Scan steps and alert rolls have their effects (R99, R122, R124, R125, R142, R143). -/
namespace Sys2Proof.Machine

set_option Elab.async false

/-! ### The scan step (R142, R143) -/

section Scan
variable {g : SegId} {x : Address} {s : State} {range : ScanRange} {found : List Address} {o : TxOutcome}

/-- The steps of a scan's outcome, from the state that its transaction's end leaves. -/
theorem takeCompletion_scanStep (phase : TxPhase) (o : TxOutcome) : takeCompletion g ⟨.scanStep x, phase, false⟩ o s =
    faultRecovery g o (scanEffects g x o (nodeOutcome g x none o (endTransaction g s))) := rfl

theorem clean_of_step (h : o = .done [] ∨ o = .noNode) : o.fault? = none := by
  rcases h with rfl | rfl <;> rfl

/-- The scan's part of a step, behind the node's part. -/
theorem scanStep_running (running : (s.segment g).scan = ⟨.running range x, found⟩) :
    ((nodeOutcome g x none o (endTransaction g s)).segment g).scan = ⟨.running range x, found⟩ := by
  rw [nodeOutcome_scan, (endTransaction_segment g g s).2.2, running]

theorem scanStep_scan (running : (s.segment g).scan = ⟨.running range x, found⟩) (h : o = .done [] ∨ o = .noNode) (phase : TxPhase) :
    ((takeCompletion g ⟨.scanStep x, phase, false⟩ o s).segment g).scan = ⟨range.onward x, foundAfter found x o⟩ := by
  rw [takeCompletion_scanStep, faultRecovery_of_clean g _ (clean_of_step h)]
  exact (scanEffects_effects (scanStep_running running) h).1

/-- Each port is told the node's event and its answers, the requester SCAN_DONE at the end. -/
theorem scanStep_told (running : (s.segment g).scan = ⟨.running range x, found⟩) (h : o = .done [] ∨ o = .noNode)
    (last : x = range.high) (phase : TxPhase) :
    ∃ ofNode : List Note, ofNode.length ≤ s.pointsNaming g x + 1 ∧ (s.nodeStays g x o → ofNode = []) ∧
      Told range.requester (ofNode ++ [.scanDone g true (foundAfter found x o).length]) s
        (takeCompletion g ⟨.scanStep x, phase, false⟩ o s) := by
  obtain ⟨notes, told⟩ := nodeOutcome_told (g := g) (x := x) none o (endTransaction g s)
  obtain ⟨-, told', -⟩ := scanEffects_effects (scanStep_running (o := o) running) h
  have step := told' range.requester
  rw [noteIf, if_pos (by simp [last])] at step
  rw [takeCompletion_scanStep, faultRecovery_of_clean g _ (clean_of_step h)]
  by_cases stays : s.nodeStays g x o
  · obtain ⟨-, notify, -⟩ := nodeOutcome_stays (cause := none) (v := endTransaction g s) stays
    refine ⟨[], Nat.zero_le _, fun _ => rfl, step.from (told range.requester).1.clock ?_⟩
    exact congrArg (PerPort.get · range.requester) notify
  · obtain ⟨ofNode, few⟩ := told range.requester
    exact ⟨notes range.requester, few, fun yes => absurd yes stays, (ofNode.trans step).from rfl rfl⟩

theorem scanStep_quiet (running : (s.segment g).scan = ⟨.running range x, found⟩) (stays : s.nodeStays g x o) (phase : TxPhase) :
    (takeCompletion g ⟨.scanStep x, phase, false⟩ o s).slots = s.slots ∧
    ∀ p, p ≠ range.requester ∨ x ≠ range.high ∨ o.fault? ≠ none →
      (takeCompletion g ⟨.scanStep x, phase, false⟩ o s).notifyOf p = s.notifyOf p := by
  rw [takeCompletion_scanStep]
  obtain ⟨nSlots, nNotify, -⟩ := nodeOutcome_stays (cause := none) (v := endTransaction g s) stays
  have running' := scanStep_running (o := o) running
  generalize nodeOutcome g x none o (endTransaction g s) = n at nSlots nNotify running'
  obtain ⟨slots, -⟩ := faultRecovery_keeps g o (scanEffects g x o n)
  have before : ∀ p, n.notifyOf p = s.notifyOf p := fun p => congrArg (PerPort.get · p) nNotify
  refine ⟨slots.trans (scanEffects_slots.trans nSlots), fun p h => ?_⟩
  rw [faultRecovery_notifyOf, ← before p]
  by_cases done : ∃ data, o = .done data
  · obtain ⟨data, rfl⟩ := done
    obtain ⟨-, -, quiet⟩ := scanEffects_effects running' (.inl rfl)
    exact quiet p (h.imp id fun other => other.resolve_right fun fault => fault rfl)
  · by_cases no : o = .noNode
    · subst no
      obtain ⟨-, -, quiet⟩ := scanEffects_effects running' (.inr rfl)
      exact quiet p (h.imp id fun other => other.resolve_right fun fault => fault rfl)
    · rw [scanEffects_quiet (fun data e => done ⟨data, e⟩) no]

theorem scanStep_fault (fault : o.fault? ≠ none) (phase : TxPhase) :
    ((takeCompletion g ⟨.scanStep x, phase, false⟩ o s).segment g).scan = (s.segment g).scan := by
  obtain ⟨-, -, -, -, segments⟩ := faultRecovery_keeps g o (scanEffects g x o (nodeOutcome g x none o (endTransaction g s)))
  have quiet : scanEffects g x o (nodeOutcome g x none o (endTransaction g s)) = nodeOutcome g x none o (endTransaction g s) :=
    scanEffects_quiet (fun data e => fault (by rw [e]; rfl)) fun e => fault (by rw [e]; rfl)
  rw [takeCompletion_scanStep, (segments g).2.2, quiet, nodeOutcome_scan, (endTransaction_segment g g s).2.2]

theorem foundAfter_length (found : List Address) (x : Address) (o : TxOutcome) :
    (foundAfter found x o).length = if o = .noNode then found.length else found.length + 1 := by
  rw [foundAfter, List.length_append]
  by_cases no : o = .noNode
  · rw [if_pos no, if_pos no]; rfl
  · rw [if_neg no, if_neg no]; rfl

end Scan

/-! ### The roll (R99, R122, R124, R125) -/

section Roll
variable {g : SegId} {x : Address} {s : State} {o : TxOutcome} {start released : Time} {pos : LinkPos} {levels : List Bool}

theorem exec_rollCompletion (flight : (s.segment g).transaction = some ⟨.roll, .onWires start released pos, false⟩)
    (course : Work.roll.afterCycles false pos levels = .ended o) (fa : Bool) {v : State}
    (hv : v = s.setSegment g { s.segment g with transaction := none, lines := { (s.segment g).lines with fa := fa } }) :
    exec (.rollCompletion g levels fa) s = .next (faultRecovery g o (rollEffects g o v)) := by
  have serving : (s.segment g).serving Work.isRoll = true := by simp [Segment.serving, flight, Work.isRoll]
  have lined : ((s.setLines g { (s.segment g).lines with fa := fa }).segment g).transaction =
      some ⟨.roll, .onWires start released pos, false⟩ := by
    rw [State.setLines, State.modSegment_read_segment, if_pos rfl]
    exact flight
  have ended : endTransaction g (s.setLines g { (s.segment g).lines with fa := fa }) = v := by
    rw [hv, State.setLines, endTransaction, modSegment_modSegment]
    rfl
  change execRollCompletion g levels fa s = _
  rw [execRollCompletion, if_pos serving, driveOn_ended (f := id) lined course, takeCompletion, if_neg Bool.false_ne_true, ended]
  rfl

/-- A winner counted for a node that has an entry: presence, miss count and next probe time (R95, R99, R125). -/
def NodeEntry.counted (e : NodeEntry) : NodeEntry :=
  { e with presence := .present, misses := 0, probe := if e.presence = .lost then none else e.probe }

theorem nodeAccepted_lost {e : NodeEntry} {v : State} (found : v.nodeEntry? g x = some e) (lost : e.presence = .lost) :
    nodeAccepted g x v = returnNode g x e v :=
  nodeOutcome_back (o := .done []) (cause := none) found (.inl ⟨[], rfl⟩) lost

/-- An accepted address counted for its node, as a roll's winner is. -/
theorem nodeAccepted_known {e : NodeEntry} {v : State} (found : v.nodeEntry? g x = some e) :
    Moves g v (nodeAccepted g x v) ∧ (nodeAccepted g x v).nodeEntry? g x = some e.counted ∧
    (e.presence ≠ .lost → (nodeAccepted g x v).notify = v.notify ∧
      ∀ j, (nodeAccepted g x v).entryOf? g j = v.entryOf? g j) := by
  by_cases lost : e.presence = .lost
  · rw [nodeAccepted_lost found lost]
    refine ⟨moves_returnNode x e v, ?_, absurd lost⟩
    rw [nodeEntry_of_directory (returnNode_done g x none e v).directory]
    refine (modNode_entry (f := NodeEntry.back) found fun _ _ _ => rfl).trans ?_
    rw [NodeEntry.counted, if_pos lost]
    rfl
  · have same : nodeAccepted g x v = v.modNode g x fun e => { e with presence := .present, misses := 0 } :=
      nodeOutcome_present (o := .done []) (cause := none) found (.inl ⟨[], rfl⟩) lost
    rw [same]
    refine ⟨moves_modNode x _ v, ?_, fun _ => ⟨rfl, fun _ => rfl⟩⟩
    refine (modNode_entry (f := fun e => { e with presence := .present, misses := 0 }) found fun _ _ _ => rfl).trans ?_
    rw [NodeEntry.counted, if_neg lost]

end Roll

end Sys2Proof.Machine

/-! Scan steps and alert rolls have their effects (R99, R122, R124, R125, R142, R143). -/
namespace Sys2Proof.Machine

set_option Elab.async false

section Won
variable {g : SegId} {x : Address} {v : State} {e : NodeEntry} {j : SlotNo}

/-- A node that accepts moves no entry; one that has returned lets its waiting points enter (R99). -/
theorem nodeAccepted_entries (found : v.nodeEntry? g x = some e) :
    (∀ en, v.entryOf? g j = some en → (nodeAccepted g x v).entryOf? g j = some en) ∧
    ((v.point? j).any (·.names g x) = false → (nodeAccepted g x v).entryOf? g j = v.entryOf? g j) ∧
    (e.presence = .lost → ∀ pt, v.point? j = some pt → pt.names g x = true → pt.state = .active → pt.period ≠ none →
      pt.inFlight = none → v.entryOf? g j = none → (nodeAccepted g x v).entryOf? g j = some ⟨j, ⟨v.clock, false⟩, true⟩) := by
  by_cases lost : e.presence = .lost
  · have done := returnNode_done g x none e v
    rw [nodeAccepted_lost found lost]
    have away : (v.point? j).any (·.names g x) = false → (returnNode g x e v).entryOf? g j = v.entryOf? g j := fun h =>
      congrArg Prod.snd (done.away j h)
    refine ⟨fun en inside => ?_, away, fun _ pt hp named active scheduled idle out => ?_⟩
    · by_cases named : (v.point? j).any (·.names g x) = true
      · rw [(done.near j named nofun).2, State.returned, State.seat, inside]
        simp
      · exact (away (Bool.not_eq_true _ ▸ named)).trans inside
    · exact Returned.enters done found hp named active scheduled idle out
  · obtain ⟨-, -, same⟩ := nodeAccepted_known found
    have entry := (same lost).2 j
    exact ⟨fun en inside => entry.trans inside, fun _ => entry, fun yes => absurd yes lost⟩

/-- The roll's effects behind the node's part: the winner's alert-driven points are due now. -/
theorem rollWon_known (found : v.nodeEntry? g x = some e) :
    rollWon g x v = ((nodeAccepted g x v).slotsNaming g x).foldl (moveAlertDriven g) (nodeAccepted g x v) := by
  unfold rollWon
  rw [found]

theorem rollWon_entry (found : v.nodeEntry? g x = some e) (j : SlotNo) : (rollWon g x v).entryOf? g j =
    if (v.point? j).any (fun pt => pt.names g x && (pt.isActive && pt.alertDriven)) && ((nodeAccepted g x v).entryOf? g j).isSome then
      some ⟨j, ⟨v.clock, false⟩, true⟩ else (nodeAccepted g x v).entryOf? g j := by
  obtain ⟨moves, -, -⟩ := nodeAccepted_known found
  obtain ⟨-, -, -, each⟩ := alertDriven_each (g := g) ((nodeAccepted g x v).slotsNaming g x) (nodeAccepted g x v)
  rw [rollWon_known found, each j, State.alerted, if_congr (mem_slotsNaming_iff _ g x j) rfl rfl, moves.point, moves.clock]
  cases v.point? j with
  | none => rfl
  | some pt => cases named : pt.names g x <;> simp [named]

/-- A winner's roll as a whole. -/
theorem rollWon_effects (found : v.nodeEntry? g x = some e) :
    Moves g v (rollWon g x v) ∧ (rollWon g x v).nodeEntry? g x = some e.counted ∧
    (rollWon g x v).notify = (nodeAccepted g x v).notify ∧
    ∀ h y, (h, y) ≠ (g, x) → (rollWon g x v).nodeEntry? h y = v.nodeEntry? h y := by
  obtain ⟨moves, entry, -⟩ := nodeAccepted_known found
  obtain ⟨later, directory, notify, -⟩ := alertDriven_each (g := g) ((nodeAccepted g x v).slotsNaming g x) (nodeAccepted g x v)
  rw [rollWon_known found]
  refine ⟨moves.trans later, (nodeEntry_of_directory directory).trans entry, notify, fun h y other => ?_⟩
  have beside : Beside none (fun _ => True) g x v (nodeAccepted g x v) :=
    beside_nodeOutcome none (.done []) v (.inr fun _ _ _ _ => trivial)
  exact (nodeEntry_of_directory directory).trans (beside.node h y other)

/-- Of a node that returns the ports whose node events are on are told, and of nothing else (R101). -/
theorem nodeAccepted_back (found : v.nodeEntry? g x = some e) (lost : e.presence = .lost) {p : Port}
    (on : (v.notifyOf p).enabled = true) (events : (v.notifyOf p).nodeEvents = true) (room : (v.notifyOf p).queue.length < 64) :
    ((nodeAccepted g x v).notifyOf p).queue =
      (v.notifyOf p).queue ++ [⟨(v.notifyOf p).nextSeq, v.clock, .node (.back e.points) g x⟩] := by
  have told := (returnNode_done g x none e v).told p
  rw [events] at told
  rw [nodeAccepted_lost found lost, told.told on room]
  rfl

end Won

/-- Settles O53. -/
theorem scanStepsAndRollsHaveTheirEffects : Obligations.ScanStepsAndRollsHaveTheirEffects := by
  unfold Obligations.ScanStepsAndRollsHaveTheirEffects
  intro g x start released pos levels s
  refine ⟨fun range found o flight running course => ?_, fun fa o flight course v hv => ⟨fun empty => ?_, fun cause fault => ?_,
    fun winner unknown => ?_, fun e winner known => ?_⟩⟩
  · refine ⟨_, exec_completion completes_scanStep flight course, takeCompletion_transaction g o s _,
      transactionFrame_takeCompletion (x := x) (.scanStep x) rfl _ o s nofun, fun h => ?_, fun h last on room => ?_,
      fun stays => ?_, fun cause fault => ⟨?_, takeCompletion_fault g o s fault⟩⟩
    · exact scanStep_scan running h _
    · obtain ⟨ofNode, few, -, told⟩ := scanStep_told running h last (.onWires start released pos)
      have fits : (ofNode ++ [Note.scanDone g true (foundAfter found x o).length]).length ≤ s.pointsNaming g x + 2 := by
        rw [List.length_append]
        exact Nat.add_le_add_right few 1
      rw [told.told on (by omega), ← foundAfter_length found x o]
      exact Notify.getLast_pushes_concat _ _ _ _
    · obtain ⟨slots, quiet⟩ := scanStep_quiet running stays (.onWires start released pos)
      refine ⟨slots, quiet, fun h last on room => ?_⟩
      obtain ⟨ofNode, -, silent, told⟩ := scanStep_told running h last (.onWires start released pos)
      rw [silent stays] at told
      rw [told.told on room, ← foundAfter_length found x o]
      rfl
    · exact scanStep_fault (by rw [fault]; exact nofun) _
  · rw [exec_rollCompletion flight course fa hv, empty, hv]
    rfl
  · have none : rollEffects g o v = v := by
      cases o with
      | contest | timeout | stuck => rfl
      | _ => cases fault
    rw [exec_rollCompletion flight course fa hv, none, faultRecovery_of_fault g v fault]
    rfl
  · have unknown' : v.nodeEntry? g x = none := by rw [hv]; exact unknown
    rw [exec_rollCompletion flight course fa hv, winner]
    change Host.Outcome.next (rollWon g x v) = _
    rw [rollWon, unknown']
  · have found : v.nodeEntry? g x = some e := by rw [hv]; exact known
    have point : ∀ j, v.point? j = s.point? j := fun j => by rw [hv]; rfl
    have notifyOf : ∀ p, v.notifyOf p = s.notifyOf p := fun p => by rw [hv]; rfl
    have clock : v.clock = s.clock := by rw [hv]; rfl
    have entryOf : ∀ j, v.entryOf? g j = s.entryOf? g j := fun j => by
      rw [hv, State.entryOf?, State.setSegment_read_segment, if_pos rfl, State.entryOf?]
    obtain ⟨moves, counted, notify, others⟩ := rollWon_effects found
    obtain ⟨-, -, present⟩ := nodeAccepted_known found
    have entries := fun j => nodeAccepted_entries (j := j) found
    have entry := rollWon_entry found
    have run : exec (.rollCompletion g levels fa) s = .next (rollWon g x v) := by
      rw [exec_rollCompletion flight course fa hv, winner]
      rfl
    refine ⟨_, run, counted, fun j pt en hp inside => ?_, fun stays j out => ?_, fun j away => ?_, moves.form, moves.segment,
      fun h other => ?_, fun h y other => ?_, fun p => ⟨?_, fun stays => ?_⟩, fun j => ?_, fun lost => ⟨?_, ?_⟩⟩
    · obtain ⟨stands, -, -⟩ := entries j
      rw [entry j, stands en ((entryOf j).trans inside), point, hp, clock]
      refine if_congr ?_ rfl rfl
      simp [isActive_iff]
    · rw [entry j, (present stays).2 j, entryOf, out]
      simp
    · have named : (v.point? j).any (·.names g x) = false := by
        rw [point]
        cases hp : s.point? j with
        | none => rfl
        | some pt => exact away pt hp
      have idle : (v.point? j).any (fun pt => pt.names g x && (pt.isActive && pt.alertDriven)) = false := by
        cases hp : v.point? j with
        | none => rfl
        | some pt =>
          rw [hp, Option.any_some] at named
          simp [named]
      obtain ⟨-, same, -⟩ := entries j
      rw [entry j, idle, same named, entryOf]
      rfl
    · rw [moves.other h other, hv, State.setSegment_read_segment, if_neg (Ne.symm other)]
    · rw [others h y other, hv]
      rfl
    · have kept := (kept_rollWon g x v).notify p
      rw [notifyOf] at kept
      exact kept
    · rw [State.notifyOf, notify, (present stays).1]
      exact notifyOf p
    · rw [moves.point, point]
    · intro j pt hp named active scheduled idle out
      obtain ⟨-, -, waits⟩ := entries j
      have enters := waits lost pt ((point j).trans hp) named active scheduled idle ((entryOf j).trans out)
      rw [entry j, enters, clock, ite_self]
    · intro p on events room
      rw [← notifyOf] at on events room
      rw [← notifyOf, ← clock, State.notifyOf, notify]
      exact nodeAccepted_back found lost on events room

end Sys2Proof.Machine

/-! The freeing procedure as the rest of the roster sees it; the end of a RETIRING point's transaction (R3, R11, R25, R92). -/
namespace Sys2Proof.Machine

set_option Elab.async false

/-! ### The freeing procedure -/

section Freed
variable {i : SlotNo} {s : State} {pt : Point}

/-- Another slot's entry stands where it stood. -/
theorem freeSlot_entry (hp : s.point? i = some pt) {j : SlotNo} (hj : j ≠ i) (h : SegId) :
    (freeSlot i s).entryOf? h j = s.entryOf? h j := by
  have schedule : ((freeSlot i s).segment h).schedule =
      if pt.segment = h then removeEntry i (s.segment h).schedule else (s.segment h).schedule := by
    rw [freeSlot_segment hp, leaveQueue, leaveSchedule, modSegment_modSegment, State.modSegment_read_segment]
    split
    · next same => subst same; rfl
    · rfl
  rw [State.entryOf?, schedule, State.entryOf?]
  split
  · exact find?_removeEntry i _ j (Ne.symm hj)
  · rfl

/-- The entry of another key is as it was. -/
theorem freeSlot_node_other (hp : s.point? i = some pt) {h : SegId} {y : Address} (other : (h, y) ≠ (pt.segment, pt.address)) :
    (freeSlot i s).nodeEntry? h y = s.nodeEntry? h y := by
  have kept : ∀ e : NodeEntry, e.hasKey h y = true → e.hasKey pt.segment pt.address = false := fun e key => by
    rw [← Bool.not_eq_true, hasKey_iff]
    rintro ⟨segment, address⟩
    rw [hasKey_iff] at key
    exact other (by rw [← key.1, ← key.2, segment, address])
  rw [State.nodeEntry?, freeSlot_directory i s pt hp, dropNodePoint_directory, List.find?_filter, State.nodeEntry?]
  refine Eq.trans ?_ (find?_modNode s.directory (fun e => { e with points := e.points - 1 }) (fun _ _ _ => rfl) h y other)
  refine congrArg (fun p => List.find? p (s.directory.map (NodeEntry.dropOne pt.segment pt.address))) (funext fun e => ?_)
  cases key : e.hasKey h y with
  | false => simp
  | true => simp [kept e key]

/-- The node's entry counts one point less, while more than one is left (R11, R92). -/
theorem freeSlot_node (hp : s.point? i = some pt) {e : NodeEntry} (found : s.nodeEntry? pt.segment pt.address = some e)
    (many : 1 < e.points) :
    (freeSlot i s).nodeEntry? pt.segment pt.address = some { e with points := e.points - 1 } := by
  have lowered : (s.directory.map (NodeEntry.dropOne pt.segment pt.address)).find? (·.hasKey pt.segment pt.address) =
      some { e with points := e.points - 1 } := modNode_entry (f := fun e => { e with points := e.points - 1 }) found fun _ _ _ => rfl
  rw [State.nodeEntry?, freeSlot_directory i s pt hp, dropNodePoint_directory, List.find?_filter]
  rw [List.find?_eq_some_iff_append] at lowered ⊢
  obtain ⟨key, before, after, split, none⟩ := lowered
  have left : ((e.points - 1) == 0) = false := beq_eq_false_iff_ne.mpr (by omega)
  refine ⟨?_, before, after, split, fun d hd => ?_⟩
  · simp [key, left]
  · have := none d hd
    simp only [Bool.not_eq_true', Bool.and_eq_false_iff] at this ⊢
    simp [this]

end Freed

/-! ### The retirement's end (R25) -/

section Retired
variable {i : SlotNo} {n : State} {pt : Point} {requester : Port}

theorem endRetirement_form (requester : Port) (i : SlotNo) (n : State) :
    endRetirement requester i n = { freeSlot i n with notify := (endRetirement requester i n).notify } :=
  offerSystem_form requester

theorem endRetirement_point (hp : n.point? i = some pt) (j : SlotNo) :
    (endRetirement requester i n).point? j = if i = j then none else n.point? j := by
  rw [endRetirement_form]
  exact freeSlot_point i j n pt hp

theorem endRetirement_generation (hp : n.point? i = some pt) (j : SlotNo) :
    (endRetirement requester i n).generation j = if i = j then n.generation i + 1 else n.generation j := by
  rw [endRetirement_form]
  exact freeSlot_generation i j n pt hp

theorem endRetirement_entry (hp : n.point? i = some pt) {j : SlotNo} (hj : j ≠ i) (h : SegId) :
    (endRetirement requester i n).entryOf? h j = n.entryOf? h j := by
  rw [endRetirement_form]
  exact freeSlot_entry hp hj h

theorem endRetirement_node (requester : Port) (i : SlotNo) (n : State) (h : SegId) (y : Address) :
    (endRetirement requester i n).nodeEntry? h y = (freeSlot i n).nodeEntry? h y := by
  rw [endRetirement_form]
  rfl

/-- RETIRED with the retired handle is the last of the notifications made (R25). -/
theorem endRetirement_last (hp : n.point? i = some pt) (on : (n.notifyOf requester).enabled = true)
    (room : (n.notifyOf requester).queue.length < 64) :
    ∃ e, ((endRetirement requester i n).notifyOf requester).queue.getLast? = some e ∧ e.time = n.clock ∧
      e.note = .retired (n.handle i) := by
  have freed := freeSlot_notify i n pt hp requester
  rw [endRetirement, offerSystem_room (by rw [freed]; exact on) (by rw [freed]; exact room), State.setNotify_read_notifyOf, if_pos rfl,
    freeSlot_clock]
  exact ⟨_, by simp [Notify.push]; rfl, rfl, rfl⟩

end Retired

end Sys2Proof.Machine

/-! A RETIRING point is freed as its transaction ends (R25). -/
namespace Sys2Proof.Machine

set_option Elab.async false

/-- What a mere count makes of the node's entry (TABLE 5-3). -/
def TxOutcome.count (o : TxOutcome) (e : NodeEntry) : NodeEntry :=
  match o with
  | .done _ | .noAccept | .checkFail => { e with presence := .present, misses := 0 }
  | .noNode => { e with misses := e.misses + 1 }
  | _ => e

section Count
variable {g : SegId} {x : Address} {v : State} {o : TxOutcome}

theorem modNode_unknown (unknown : v.nodeEntry? g x = none) {f : NodeEntry → NodeEntry}
    (key : ∀ e h y, (f e).hasKey h y = e.hasKey h y) : v.modNode g x f = v := by
  have beside : Beside none (fun _ => False) g x v (v.modNode g x f) := beside_modNode v f key
  exact congrArg v.setDirectory (beside.directory unknown)

theorem modNode_same (v : State) {f : NodeEntry → NodeEntry} (same : ∀ e, f e = e) : v.modNode g x f = v := by
  have map : (v.directory.map fun e => if e.hasKey g x then f e else e) = v.directory :=
    (List.map_congr_left fun e _ => by rw [same, ite_self, id]).trans (List.map_id _)
  exact congrArg v.setDirectory map

theorem count_hasKey (o : TxOutcome) (e : NodeEntry) (h : SegId) (y : Address) : (o.count e).hasKey h y = e.hasKey h y := by
  cases o <;> rfl

/-- Where no node returns or is lost, the outcome is a mere count (R94, R95). -/
theorem nodeOutcome_count (stays : ∀ e, v.nodeEntry? g x = some e → e.presence ≠ .lost ∧ (o = .noNode → e.misses < 7))
    (cause : Option SlotNo) : nodeOutcome g x cause o v = v.modNode g x o.count := by
  cases found : v.nodeEntry? g x with
  | none => rw [nodeOutcome_unknown found, modNode_unknown found (count_hasKey o)]
  | some e =>
    obtain ⟨present, few⟩ := stays e found
    cases o with
    | done data => exact nodeOutcome_present found (.inl ⟨data, rfl⟩) present
    | noAccept => exact nodeOutcome_present found (.inr (.inl rfl)) present
    | checkFail => exact nodeOutcome_present found (.inr (.inr rfl)) present
    | noNode => exact nodeOutcome_missed found present (few rfl)
    | _ => exact (modNode_same v fun _ => rfl).symm

end Count

section Retiring
variable {g : SegId} {x : Address} {i : SlotNo} {pt : Point} {requester : Port} {s n : State} {w : Work} {o : TxOutcome}

theorem finish_retiring (slot : w.slot = some i) (hp : n.point? i = some pt) (retiring : pt.state = .retiring requester) :
    w.finish g o n = endRetirement requester i n := by
  cases w with
  | read kind j _ _ _ =>
    obtain rfl : j = i := Option.some.inj slot
    cases kind <;> exact finishPoint_retiring hp retiring _ _
  | write j _ _ _ _ =>
    obtain rfl : j = i := Option.some.inj slot
    exact finishPoint_retiring hp retiring _ _
  | _ => cases slot

/-- The end of a RETIRING point's transaction: the node's part, then the slot freed (R25). -/
theorem takeCompletion_retiring (isTo : w.isTo x) (slot : w.slot = some i) (phase : TxPhase) {q : Point}
    (hn : (nodeOutcome g x (some i) o (endTransaction g s)).point? i = some q) (retiring : q.state = .retiring requester) :
    takeCompletion g ⟨w, phase, false⟩ o s =
      faultRecovery g o (endRetirement requester i (nodeOutcome g x (some i) o (endTransaction g s))) := by
  rw [takeCompletion, if_neg Bool.false_ne_true, applyOutcome_eq isTo, slot, finish_retiring slot hn retiring]

/-- The node's part as every other slot sees it. -/
theorem nodeOutcome_beside (cause : Option SlotNo) (o : TxOutcome) (v : State) :
    Beside none (fun j => (v.point? j).any (·.names g x) = true) g x v (nodeOutcome g x cause o v) :=
  beside_nodeOutcome cause o v (.inr fun _ _ hq named => any_names hq named)

/-- What a retirement's end and a fault's recovery leave of every other slot and of the directory, from the node's part on. -/
structure Frees (i : SlotNo) (pt : Point) (n u : State) : Prop where
  point : u.point? i = none
  generation : u.generation i = n.generation i + 1
  other : ∀ j, j ≠ i → u.generation j = n.generation j ∧ u.point? j = n.point? j ∧ ∀ h, u.entryOf? h j = n.entryOf? h j
  node : ∀ e, n.nodeEntry? pt.segment pt.address = some e → 1 < e.points →
    u.nodeEntry? pt.segment pt.address = some { e with points := e.points - 1 }
  others : ∀ h y, (h, y) ≠ (pt.segment, pt.address) → u.nodeEntry? h y = n.nodeEntry? h y

theorem frees (hn : n.point? i = some pt) (requester : Port) (g : SegId) (o : TxOutcome) :
    Frees i pt n (faultRecovery g o (endRetirement requester i n)) := by
  obtain ⟨slots, -⟩ := faultRecovery_keeps g o (endRetirement requester i n)
  have generation : ∀ j, (faultRecovery g o (endRetirement requester i n)).generation j =
      if i = j then n.generation i + 1 else n.generation j := fun j => by
    rw [State.generation, slots]
    exact endRetirement_generation hn j
  have point : ∀ j, (faultRecovery g o (endRetirement requester i n)).point? j = if i = j then none else n.point? j := fun j => by
    rw [faultRecovery_point, endRetirement_point hn]
  refine ⟨(point i).trans (if_pos rfl), (generation i).trans (if_pos rfl), fun j hj => ⟨(generation j).trans (if_neg (Ne.symm hj)),
    (point j).trans (if_neg (Ne.symm hj)), fun h => ?_⟩, fun e found many => ?_, fun h y other => ?_⟩
  · rw [faultRecovery_entryOf, endRetirement_entry hn hj]
  · rw [faultRecovery_nodeEntry, endRetirement_node, freeSlot_node hn found many]
  · rw [faultRecovery_nodeEntry, endRetirement_node, freeSlot_node_other hn other]

/-- The freed point's node counts one point less than the node's part has left it. -/
theorem Frees.named {u : State} (h : Frees i pt n u) (named : pt.names g x = true) {e : NodeEntry} (found : n.nodeEntry? g x = some e)
    (many : 1 < e.points) : u.nodeEntry? g x = some { e with points := e.points - 1 } := by
  have key : pt.segment = g ∧ pt.address = x := by simpa [Point.names] using named
  rw [← key.1, ← key.2] at found ⊢
  exact h.node e found many

end Retiring

/-- Settles O16. -/
theorem retiringPointIsFreedAsItsTransactionEnds : Obligations.RetiringPointIsFreedAsItsTransactionEnds := by
  unfold Obligations.RetiringPointIsFreedAsItsTransactionEnds
  intro g i x item w value start released pos levels work o pt requester s c member flight course hp retiring
  obtain ⟨completes, isTo, slot⟩ := completes_served member
  obtain ⟨ofNode, met⟩ := nodePart hp g x o
  obtain ⟨ρ, hn, -⟩ := met.point
  have run := exec_completion completes flight course
  have taken := takeCompletion_retiring (s := s) (o := o) isTo slot (.onWires start released pos) hn retiring
  have beside := nodeOutcome_beside (g := g) (x := x) (some i) o (endTransaction g s)
  have entryOf : ∀ h j, (endTransaction g s).entryOf? h j = s.entryOf? h j := fun h j => endTransaction_entryOf g h s j
  refine ⟨⟨_, run, takeCompletion_transaction g o s _, ?_⟩, fun v retired hv hr stays => ?_⟩
  · have last := endRetirement_last (requester := requester) hn
    have fault := fun cause (h : o.fault? = some cause) =>
      takeCompletion_fault g o s (t := ⟨work, .onWires start released pos, false⟩) h
    rw [taken] at fault ⊢
    have freed := frees hn requester g o
    have notifyOf := faultRecovery_notifyOf g o (endRetirement requester i (nodeOutcome g x (some i) o (endTransaction g s))) requester
    generalize faultRecovery g o (endRetirement requester i (nodeOutcome g x (some i) o (endTransaction g s))) = u at *
    refine ⟨freed.point, freed.generation.trans (congrArg (· + 1) (beside.generation i)), fun j hj => ?_,
      fun j q hj hq away => ?_, fun named => ⟨fun h y other => ?_, fun e found many => ⟨fun data accepted lost => ?_,
        fun no present few => ?_, fun ends lost => ?_⟩⟩, fault, fun on room => ?_⟩
    · obtain ⟨generation, point, -⟩ := freed.other j hj
      exact ⟨generation.trans (beside.generation j), (congrArg (Option.map Point.standing) point).trans (beside.standing j nofun)⟩
    · obtain ⟨-, point, entry⟩ := freed.other j hj
      have apart : apart none (fun j => ((endTransaction g s).point? j).any (·.names g x) = true) j :=
        ⟨nofun, fun near => by
          change (s.point? j).any (·.names g x) = true at near
          rw [hq, Option.any_some, away] at near
          cases near⟩
      exact ⟨(point.trans (beside.point j apart)).trans hq, fun h => ((entry h).trans (beside.entry j apart h)).trans (entryOf h j)⟩
    · have key : pt.segment = g ∧ pt.address = x := by simpa [Point.names] using named
      exact (freed.others h y (by rw [← key.1, ← key.2] at other; exact other)).trans (beside.node h y other)
    · have acc : o.accepts := accepted.imp (fun done => ⟨data, done⟩) id
      have found' : (endTransaction g s).nodeEntry? g x = some e := found
      rw [nodeOutcome_back found' acc lost] at freed
      have done : Returned g x (some i) e (endTransaction g s) _ := returnNode_done g x (some i) e (endTransaction g s)
      have entry := (nodeEntry_of_directory (NodeDone.directory done)).trans
        (modNode_entry (f := NodeEntry.back) found' fun _ _ _ => rfl)
      refine ⟨freed.named named entry many, fun j q hj hq near active scheduled idle out => ?_⟩
      obtain ⟨-, -, kept⟩ := freed.other j hj
      exact (kept g).trans (done.enters found' hq near active scheduled idle ((entryOf g j).trans out))
    · have found' : (endTransaction g s).nodeEntry? g x = some e := found
      rw [no, nodeOutcome_gone found' present few] at freed
      have done : Lost g x (some i) e (endTransaction g s) _ := loseNode_done g x (some i) e (endTransaction g s)
      have entry := (nodeEntry_of_directory (NodeDone.directory done)).trans
        (modNode_entry (f := NodeEntry.gone (endTransaction g s).clock) found' fun _ _ _ => rfl)
      refine ⟨freed.named named entry many, fun j q hj hq near => ?_⟩
      obtain ⟨-, point, kept⟩ := freed.other j hj
      obtain ⟨q', hq', cut⟩ := done.near hq near fun same => hj (Option.some.inj same).symm
      exact ⟨(kept g).trans (done.out hq near), q', point.trans hq', cut⟩
    · have found' : (endTransaction g s).nodeEntry? g x = some e := found
      have same : nodeOutcome g x (some i) o (endTransaction g s) = endTransaction g s := by
        rcases ends with no | fault
        · rw [no, nodeOutcome_still_lost found' lost]
        · exact nodeOutcome_fault g x (some i) fault _
      rw [same] at freed
      exact freed.named named found' many
    · have told := met.told requester
      have few := met.few requester
      have queue := told.told on (by omega)
      obtain ⟨m, inQueue, time, note⟩ := last (by rw [queue, Notify.pushes_enabled]; exact on)
        (by rw [queue, Notify.pushes_length]; omega)
      rw [notifyOf]
      exact ⟨m, inQueue, time.trans met.clock, note.trans (congrArg Note.retired (met.handle i))⟩
  · have isEnd : v = endTransaction g s := hv
    have counted := nodeOutcome_count (v := endTransaction g s) (o := o) stays (some i)
    have isRetired : retired = endRetirement requester i (nodeOutcome g x (some i) o (endTransaction g s)) := by
      rw [hr, endRetirement, met.handle i, counted, State.modNode, isEnd]
      cases o <;> rfl
    rw [taken, ← isRetired] at run
    refine ⟨fun clean => by rw [run, faultRecovery_of_clean g retired clean], fun cause fault => ?_⟩
    rw [run, faultRecovery_of_fault g retired fault]
    rfl

end Sys2Proof.Machine
